-- ==== Sys2Proof/Word.lean ====
section
/-!
DEFINITION. The word types of the machine (R1, R53, R78) and nothing else.
-/
namespace Sys2Proof

/-- A general register, a program counter, a virtual address (R53, R176). -/
abbrev Word := BitVec 64

/-- One byte of memory (R1). -/
abbrev Byte := BitVec 8

/-- The 40 raw bits of a grid cell (R78). -/
abbrev Cell40 := BitVec 40

/-- A mask register (R53). -/
abbrev Mask128 := BitVec 128

end Sys2Proof
end

