-- ==== Sys2Proof/Config.lean ====
section
/-!
DEFINITION. What the spec leaves to the implementation or leaves open: constants with no body, so that nothing can be proved of
their values. Each is named in a log entry.
-/
namespace Sys2Proof.Config

/-- Which entry a full conflict directory evicts (R197 leaves the choice to the directory); log entry 46. -/
opaque evict : Nat → Nat
/-- R145: whether an aliased source byte gives the value it had before the command (by command and byte offset); log entry 27. -/
opaque aliasOld : Nat → Nat → Bool
/-- R150: whether a granule beyond an aborted copy's milestone holds the new contents (by command and granule); log entry 27. -/
opaque abortNew : Nat → Nat → Bool
/-- Entries that a cluster, die or package queue holds in its own store (R49 names a figure for core queues alone); log entry 19. -/
opaque queueRoom : Nat
/-- Bytes the device attached to a CXL port declares (R177); log entry 46. -/
opaque cxlBytes : Nat → Nat
/-- R276: the port's attached device is an offload target (a Type 2 device); log entry 46. -/
opaque cxlOffload : Nat → Bool
/-- The core revision of R254 by core, and the scan layout hash by revision; log entry 37. -/
opaque revision : Nat → Nat
opaque layoutHash : Nat → Nat
/-- The length of the implementation section of R257, and its bytes by image sequence number and offset; log entry 37. -/
opaque implLength : Nat
opaque implByte : Nat → Nat → Byte
/-- The bytes of the parts of a pool that the device uses for itself (R74: the stream extension and the system area), whose layout no
rule gives, by image sequence number and offset; and whether a block of them has been written since the core's reference (R262); log entry
37. -/
opaque ownByte : Nat → Nat → Byte
opaque ownDirty : Nat → Nat → Bool
/-- The addresses of a trip's record and of a continuation that R256 puts in a track block, by TRIPID and by number; log entry 37. -/
opaque recordAddr : Nat → Nat
opaque contAddr : Nat → Nat
/-- The nonce of R254 by sequence number, and the module's key of R258; log entry 37. -/
opaque nonce : Nat → Nat
opaque moduleKey : Nat
/-- R166 names no cause for a data fault: a number that stands for one, by command; log entry 26. -/
opaque dataFault : Nat → Nat
/-- R143: what a skipped or inactive position of a link-out stream carries, by number of free choice; log entry 27. -/
opaque linkFill : Nat → BitVec 40
/-- Whether the trace port takes a record in a cycle (R301 gives a rate in seconds); log entry 46. -/
opaque portTakes : Nat → Nat → Bool
/-- R240: whether the device caches a run of 16 entries as one translation, by 64 KiB page; log entry 55. -/
opaque cacheRun : Nat → Bool
/-- R280: the stripe of its pool that an uncorrected error of a bank poisons, by number of free choice; log entry 56. -/
opaque errorStripe : Nat → Nat
/-- The bytes of the module's flash (R273 step 2); log entry 53. -/
opaque flashByte : Nat → Byte
/-- Bytes that a read of another package gets where nothing readable stands (R277 states none), by number of free choice and offset;
log entry 32. -/
opaque remoteByte : Nat → Nat → Byte
end Sys2Proof.Config
end

