-- ==== Sys2Proof/Syntax.lean ====
section
/-!
DEFINITION. The instructions and the machine's other steps: the ONE inductive `Instr`, one constructor for each
row of spec/opcode_table.json. The first 186 constructors are the instructions a track fetches (R315 to R334); the
others are the events of the table, which have no word: each names the unit in which it takes place.
-/
namespace Sys2Proof

/-- Scalar register number (R53). -/
abbrev Reg := Fin 32
/-- Mask register number (R53). -/
abbrev MReg := Fin 8
/-- Stream register, copy channel or crossing queue number (R75, R132, R144). -/
abbrev Q8 := Fin 8

/-- Scope codes 000 to 101 (R188). -/
inductive Scope | track | core | cluster | die | package | system
deriving DecidableEq, Repr, Inhabited

/-- Order codes of format A and VATOM (R319). -/
inductive MemOrder | relaxed | acquire | release | acqRel
deriving DecidableEq, Repr

/-- The orders FENCE admits (R190). -/
inductive FenceOrder | acquire | release | acqRel
deriving DecidableEq, Repr

/-- Element type codes 0 to 14, in code order (R109). -/
inductive ElemType
  | int8 | uint8 | int4 | e2m1 | e4m3 | e5m2 | fp16 | bf16 | fp32 | fp64 | int16 | int32 | k8 | acc40 | int64
deriving DecidableEq, Repr, Inhabited

/-- sz codes of LD, 000 to 110 (R319). -/
inductive LdSize | s8 | s16 | s32 | d64 | n8 | n16 | n32
deriving DecidableEq, Repr

/-- Access sizes 1, 2, 4 and 8 bytes, codes 00 to 11 (R319). -/
inductive Size | b1 | b2 | b4 | b8
deriving DecidableEq, Repr

/-- Rounding codes 0 to 6 (R112). -/
inductive Rounding | rne | rtz | rdn | rup | rna | sr | dyn
deriving DecidableEq, Repr, Inhabited

/-- Precision of a scalar FP form (R328). -/
inductive Prec | f32 | f64
deriving DecidableEq, Repr

/-- Float cell encodings F and D (R79, R322). -/
inductive FD | f | d
deriving DecidableEq, Repr

/-- Cell encodings F, D and I (R79, R322). -/
inductive Et | f | d | i
deriving DecidableEq, Repr

/-- A 9-bit vector specifier that is not reserved (R93 to R95). -/
inductive View
  | row (n : Fin 128)
  | col (n : Fin 128)
  | diag (n : Fin 128)
  | q (n : Q8)
  | zero
  | iota
  | x (r : Reg)
deriving DecidableEq, Repr

/-- aop codes 0 to 9 (R208). -/
inductive AmoOp | swap | add | and | or | xor | min | max | minn | maxn | fadd
deriving DecidableEq, Repr

/-- Conditions of FCMP (R328). -/
inductive FCond | eq | lt | le | un
deriving DecidableEq, Repr

/-- Variants 000 to 110 of FCVT (R328, R367). -/
inductive FCvtKind | otherFloat | toInt32 | toInt64 | toUint32 | toUint64 | fromInt64 | fromUint64
deriving DecidableEq, Repr

/-- Conditions of VFCMP (R323). -/
inductive VfCond | eq | ne | lt | ge | le | gt | un
deriving DecidableEq, Repr

/-- Conditions of VICMP and VWAIT (R323). -/
inductive ICond | eq | ne | lt | ge | ltn | gen
deriving DecidableEq, Repr

/-- sub codes of VFMA (R323): `va*vb+vc`, `va*vb-vc`, `-(va*vb)+vc`, `-(va*vb)-vc`. -/
inductive FmaSub | madd | msub | nmadd | nmsub
deriving DecidableEq, Repr

/-- sub codes of VSGN (R323). -/
inductive SgnSub | copy | neg | xor
deriving DecidableEq, Repr

/-- sub codes of VRED and VSCAN (R323). -/
inductive RedOp | sum | max | min
deriving DecidableEq, Repr

/-- Operations of MLOGIC (R323). -/
inductive LogicOp | and | or | xor | andn | orn | xnor | nand | nor
deriving DecidableEq, Repr

/-- Placement of a spawned child (R41). -/
inductive Place | core | cluster | die
deriving DecidableEq, Repr

/-- Modes of TLBINV (R422). -/
inductive TlbMode | page | context | all
deriving DecidableEq, Repr

/-- Rounding, saturation, zeroing policy and mask of a vector form that rounds (R318). -/
structure VCtl where
  rm : Rounding
  sat : Bool
  mz : Bool
  mask : MReg
deriving DecidableEq, Repr

/-- Zeroing policy and mask of a vector form that does not round (R318). -/
structure VPol where
  mz : Bool
  mask : MReg
deriving DecidableEq, Repr

/-- What a drain or vector store converts to (R374, R440): target type, `.F`, rounding, saturation, mask. -/
structure VConv where
  et : ElemType
  asFloat : Bool
  rm : Rounding
  sat : Bool
  mask : MReg
deriving DecidableEq, Repr

/-- The third address operand of GDRAIN (R374): a stride register, a scale register (`.MX`) or an offset view (`.X`). -/
inductive DrainAddr
  | stride (r : Reg)
  | scale (r : Reg)
  | index (v : View)
deriving DecidableEq, Repr

/-- The address operand of VST (R440): a stride register or a scale register (`.MX`). -/
inductive StoreAddr
  | stride (r : Reg)
  | scale (r : Reg)
deriving DecidableEq, Repr

/-- A host or steward write to a device register (R464): the bytes `[pa, pa + size)` take `data`. -/
structure DevWrite where
  pa : Nat
  size : Size
  data : Word
deriving DecidableEq, Repr

/-- What a host core does to device memory (R191, R177). -/
inductive HostOp
  | load
  | store (v : Word)
  | amo (op : AmoOp) (v : Word)
  | fence
deriving DecidableEq, Repr

/-- One access of a host core (R177, R187). -/
structure HostAccess where
  host : Nat
  pa : Nat
  size : Size
  op : HostOp
deriving DecidableEq, Repr

/-- A Lesan packet (R277) but for its kind, which the instruction that receives it names: version, payload bytes, source and destination
node, sequence number, cumulative acknowledgement, request tag, remote address or meeting offset, payload, and CRC-32C. -/
structure LesanPkt where
  version : Nat
  length : Nat
  src : Nat
  dst : Nat
  seq : Nat
  ack : Nat
  tag : Nat
  addr : Nat
  payload : List Byte
  crc : Nat
deriving DecidableEq, Repr

/-- A domain instance of the package (R24, R33): the package list of a die, a die, a cluster, a core, a track. -/
inductive Inst
  | package (die : Nat)
  | die (n : Nat)
  | cluster (n : Nat)
  | core (n : Nat)
  | track (core t : Nat)
deriving DecidableEq, Repr

/-- A unit the steward tests (R281). -/
inductive UnitName
  | poolBank (core bank : Nat)
  | macBand (core band : Nat)
  | causeway (link : Nat)
  | ethernet (port : Nat)
  | cxl (port : Nat)
  | memoryLine (pa : Nat)
deriving DecidableEq, Repr

/-- The instructions, and the events that the opcode table lists beside them. -/
inductive Instr
  -- register ALU (R326)
  | add (d a b : Reg)
  | sub (d a b : Reg)
  | and (d a b : Reg)
  | or (d a b : Reg)
  | xor (d a b : Reg)
  | shl (d a b : Reg)
  | shr (d a b : Reg)
  | sra (d a b : Reg)
  | slt (d a b : Reg)
  | sltn (d a b : Reg)
  | min (d a b : Reg)
  | max (d a b : Reg)
  | minn (d a b : Reg)
  | maxn (d a b : Reg)
  | mul (d a b : Reg)
  | mulh (d a b : Reg)
  | mulhn (d a b : Reg)
  | div (d a b : Reg)
  | divn (d a b : Reg)
  | rem (d a b : Reg)
  | remn (d a b : Reg)
  | clz (d a : Reg)
  | ctz (d a : Reg)
  | popc (d a : Reg)
  | sel (d a b c : Reg)
  | ext (d a b : Reg)
  | ins (d a b : Reg)
  -- immediates (R327)
  | addi (d a : Reg) (imm : BitVec 16)
  | andi (d a : Reg) (imm : BitVec 16)
  | ori (d a : Reg) (imm : BitVec 16)
  | xori (d a : Reg) (imm : BitVec 16)
  | slti (d a : Reg) (imm : BitVec 16)
  | sltni (d a : Reg) (imm : BitVec 16)
  | shli (d a : Reg) (sh : Fin 64)
  | shri (d a : Reg) (sh : Fin 64)
  | srai (d a : Reg) (sh : Fin 64)
  | lui (d : Reg) (imm : BitVec 16)
  | adpc (d : Reg) (imm : BitVec 16)
  -- scalar FP (R328)
  | fadd (p : Prec) (d a b : Reg) (rm : Rounding)
  | fsub (p : Prec) (d a b : Reg) (rm : Rounding)
  | fmul (p : Prec) (d a b : Reg) (rm : Rounding)
  | fma (p : Prec) (d a b : Reg) (rm : Rounding)
  | fdiv (p : Prec) (d a b : Reg) (rm : Rounding)
  | fsqrt (p : Prec) (d a : Reg) (rm : Rounding)
  | fmin (p : Prec) (d a b : Reg)
  | fmax (p : Prec) (d a b : Reg)
  | fcmp (p : Prec) (c : FCond) (d a b : Reg)
  | fcvt (p : Prec) (k : FCvtKind) (d a : Reg) (rm : Rounding)
  | fclass (p : Prec) (d a : Reg)
  -- memory (R329, R207)
  | ld (z : LdSize) (d a : Reg) (imm : BitVec 13)
  | st (z : Size) (src a : Reg) (imm : BitVec 13)
  | pref (write : Bool) (a : Reg) (imm : BitVec 13)
  | amoSwap (d a b : Reg) (o : MemOrder) (sc : Scope) (z : Size)
  | amoAdd (d a b : Reg) (o : MemOrder) (sc : Scope) (z : Size)
  | amoAnd (d a b : Reg) (o : MemOrder) (sc : Scope) (z : Size)
  | amoOr (d a b : Reg) (o : MemOrder) (sc : Scope) (z : Size)
  | amoXor (d a b : Reg) (o : MemOrder) (sc : Scope) (z : Size)
  | amoMin (d a b : Reg) (o : MemOrder) (sc : Scope) (z : Size)
  | amoMax (d a b : Reg) (o : MemOrder) (sc : Scope) (z : Size)
  | amoMinn (d a b : Reg) (o : MemOrder) (sc : Scope) (z : Size)
  | amoMaxn (d a b : Reg) (o : MemOrder) (sc : Scope) (z : Size)
  | amoFadd (d a b : Reg) (o : MemOrder) (sc : Scope) (p : Prec)
  | cas (d a b : Reg) (o : MemOrder) (sc : Scope) (z : Size)
  | fence (o : FenceOrder) (sc : Scope)
  -- branches and jumps (R329)
  | beq (a b : Reg) (off : BitVec 16)
  | bne (a b : Reg) (off : BitVec 16)
  | blt (a b : Reg) (off : BitVec 16)
  | bge (a b : Reg) (off : BitVec 16)
  | bltn (a b : Reg) (off : BitVec 16)
  | bgen (a b : Reg) (off : BitVec 16)
  | jal (d : Reg) (off : BitVec 21)
  | jalr (d a : Reg) (imm : BitVec 16)
  -- system (R330, R246)
  | sysrd (d : Reg) (n : Fin 4096)
  | syswr (n : Fin 4096) (a : Reg)
  | trap (a : Reg) (code : Fin 32)
  | trapAck
  | trapRet
  | brk
  | cflush (a : Reg)
  | tlbinv (a b : Reg) (mode : TlbMode)
  | traceMark (a : Reg)
  | freeze (d a : Reg)
  | thaw (d a : Reg)
  | thawV (d a : Reg)
  | imgSave (d a b : Reg)
  | imgLoad (d a b : Reg)
  -- work (R40)
  | spawn (d a b : Reg) (place : Place)
  | cont (a b : Reg)
  | exit
  | yield (n : Fin 32)
  | launch (d a : Reg)
  | trigger
  -- vector length and grid control (R59, R60, R85)
  | setvl (d a : Reg)
  | setvlAdv (d a : Reg)
  | lanes (d a : Reg)
  | gclaim (d : Reg) (band count : Fin 4)
  | gclaimT (d : Reg) (band count : Fin 4)
  | grelease
  | gzero (mask : BitVec 4)
  | gpark (a : Reg) (band : Fin 4)
  | gunpark (a : Reg) (band : Fin 4)
  | gwait (mask : BitVec 4)
  | fmt (a : Reg)
  | opa (na nb z : Bool) (qa qb : Q8) (k : Reg)
  -- streams, copies, interchange (R156)
  | strmCfg (q : Q8) (a : Reg)
  | strmIdx (q : Q8) (a b : Reg)
  | strmLink (q : Q8) (a : Reg)
  | strmStop (q : Q8)
  | strmSkip (q : Q8) (a : Reg)
  | cbkLoad (slot : Fin 4) (a : Reg)
  | cpy (c : Q8) (a : Reg)
  | cpyAbort (d : Reg) (c : Q8)
  | mileWait (c : Q8) (a : Reg)
  | xfLoad (slot : Fin 4) (a : Reg)
  -- synchronisation (R215, R333, R76)
  | jctInit (a b : Reg)
  | jctAdd (a b : Reg) (sc : Scope)
  | jctWait (d a b : Reg) (sc : Scope)
  | jctTest (d a : Reg) (sc : Scope)
  | barJoin (a : Reg)
  | barArrive (d a : Reg)
  | barWait (d a b : Reg)
  | barLeave (a : Reg)
  | barReset (d a : Reg)
  | barResetI (d a : Reg) (sc : Scope)
  | meetOpen (d a b : Reg)
  | meetSlot (d a b : Reg)
  | meetArrive (d a b : Reg)
  | meetWait (d a b : Reg)
  | meetRejoin (d a b : Reg)
  | meetClose (a : Reg)
  | crossPost (k : Q8) (a : Reg)
  | crossTake (d : Reg) (k : Q8)
  -- vector float arithmetic (R430)
  | vadd (et : FD) (vd va vb : View) (c : VCtl)
  | vsub (et : FD) (vd va vb : View) (c : VCtl)
  | vmul (et : FD) (vd va vb : View) (c : VCtl)
  | vfma (sub : FmaSub) (et : FD) (vd va vb vc : View) (c : VCtl)
  | vdiv (et : FD) (vd va vb : View) (c : VCtl)
  | vsqrt (et : FD) (vd va : View) (c : VCtl)
  | vrcp (vd va : View) (c : VCtl)
  | vrsqrt (vd va : View) (c : VCtl)
  | vexp2 (vd va : View) (c : VCtl)
  | vlog2 (vd va : View) (c : VCtl)
  | vtanh (vd va : View) (c : VCtl)
  | vmin (et : FD) (vd va vb : View) (p : VPol)
  | vmax (et : FD) (vd va vb : View) (p : VPol)
  | vsgn (sub : SgnSub) (et : FD) (vd va vb : View) (p : VPol)
  | vcvt (target : ElemType) (et : Et) (vd va : View) (c : VCtl)
  -- vector integer arithmetic (R431)
  | viadd (vd va vb : View) (sat : Bool) (p : VPol)
  | visub (vd va vb : View) (sat : Bool) (p : VPol)
  | vimul (vd va vb : View) (sat : Bool) (p : VPol)
  | vshl (vd va vb : View) (p : VPol)
  | vshr (vd va vb : View) (p : VPol)
  | vsra (vd va vb : View) (p : VPol)
  | vand (vd va vb : View) (p : VPol)
  | vor (vd va vb : View) (p : VPol)
  | vxor (vd va vb : View) (p : VPol)
  | vimin (vd va vb : View) (p : VPol)
  | vimax (vd va vb : View) (p : VPol)
  -- vector moves and reductions (R434, R439)
  | vmv (et : Et) (vd va : View) (p : VPol)
  | vsel (et : Et) (vd va vb : View) (ms : MReg) (p : VPol)
  | vbcast (et : Et) (vd va : View) (xi : Reg) (p : VPol)
  | vext (et : Et) (xd : Reg) (va : View) (xi : Reg)
  | vins (et : Et) (vd : View) (xs xi : Reg)
  | vslide (down : Bool) (et : Et) (vd va : View) (xo : Reg) (p : VPol)
  | vperm (et : Et) (vd va vb : View) (p : VPol)
  | vred (op : RedOp) (et : Et) (vd va : View) (rm : Rounding) (sat : Bool) (mk : MReg)
  | vscan (op : RedOp) (et : Et) (vd va : View) (c : VCtl)
  -- compares and masks (R436, R398)
  | vfcmp (cond : VfCond) (et : FD) (md : MReg) (va vb : View) (p : VPol)
  | vicmp (cond : ICond) (md : MReg) (va vb : View) (p : VPol)
  | mlogic (op : LogicOp) (md ma mb : MReg) (p : VPol)
  | mfirst (md ma mk : MReg)
  | mpopc (xd : Reg) (ma mk : MReg)
  | mfind (xd : Reg) (ma mk : MReg)
  | mtox (xd : Reg) (ma : MReg) (xh : Reg)
  | mfromx (md : MReg) (xs xh : Reg)
  -- vector memory (R437, R440)
  | vld (et : ElemType) (vd : View) (xs xr : Reg) (p : VPol)
  | vldx (et : ElemType) (vd : View) (xs : Reg) (vo : View) (p : VPol)
  | vldff (et : ElemType) (vd : View) (xs xr : Reg) (p : VPol)
  | vst (va : View) (xs : Reg) (ad : StoreAddr) (cv : VConv)
  | vstx (va : View) (xs : Reg) (vo : View) (cv : VConv)
  | vatom (op : AmoOp) (et : ElemType) (o : MemOrder) (sc : Scope) (vd : View) (xs : Reg) (va vb : View) (p : VPol)
  | vwait (cond : ICond) (all wide : Bool) (sc : Scope) (md : MReg) (xt xs : Reg) (va vb : View) (mk : MReg)
  -- grid memory (R157, R374, R378)
  | rowfill (et : ElemType) (row : Fin 128) (count : Fin 8) (xs : Reg)
  | rowsend (row : Fin 128) (count : Fin 8) (xs xj : Reg)
  | gdrain (va : View) (xs : Reg) (ad : DrainAddr) (xj : Reg) (cv : VConv)
  | gsave (row : Fin 128) (count : Fin 32) (xs xj : Reg)
  | gload (row : Fin 128) (count : Fin 32) (xs xj : Reg)
  -- events: launch queues and the launch system (R29 to R52)
  | lqtailWrite (queue : Nat) (w : DevWrite)
  | deviceRegisterWrite (w : DevWrite)
  | queueRecordRead (queue : Nat)
  | launchStart (serial : Nat)
  | expanderPush (serial : Nat) (at_ : Inst)
  | tripStart (core t : Nat)
  | gangStart (serial parent : Nat)
  | agingThreshold (seq : Nat)
  | spillReturn (seq : Nat)
  | launchComplete (serial : Nat)
  | stewardWriteRetry (serial : Nat)
  | stewardWriteDiscard (serial : Nat)
  -- events: the grid engine (R96 to R108, R460, R461)
  | gridCommandEnter (core cmd : Nat)
  | opaComplete (core cmd : Nat)
  | opaArithTrap (core t : Nat)
  | gzeroComplete (core cmd : Nat)
  | gparkComplete (core cmd : Nat)
  | gunparkComplete (core cmd : Nat)
  | rowfillComplete (core cmd : Nat)
  | gdrainComplete (core cmd : Nat)
  | gsaveComplete (core cmd : Nat)
  | gloadComplete (core cmd : Nat)
  | rowsendArrival (core cmd : Nat)
  | rowsendComplete (core cmd : Nat)
  -- events: copies, streams, interchange (R132 to R174)
  | copyStart (core : Nat) (c : Q8)
  | copyTransfer (core : Nat) (c : Q8) (bytes : Nat)
  | copyComplete (core : Nat) (c : Q8)
  | cpyQueueRoom (core t : Nat)
  | streamRefill (core : Nat) (q : Q8)
  | linkFlitArrival (core : Nat) (q : Q8)
  | graphBlock (core : Nat) (c : Q8)
  | xfLoadInstall (core t : Nat)
  | offloadTargetFull (core : Nat) (c : Q8) (accepted : Nat)
  | cxlRetrainFail (port : Nat)
  -- events: returns of waiting instructions
  | loadResponse (core t : Nat)
  | crossTakeWake (core t : Nat)
  | crossPostWake (core t : Nat)
  | gclaimGrant (core t : Nat)
  | barWaitReturn (core t : Nat)
  | barArriveNextPhase (core t : Nat)
  | jctWaitReturn (core t : Nat)
  | mileWaitReturn (core t : Nat)
  | meetArriveReclassify (core t : Nat)
  | meetCombine (obj : Nat)
  | meetSlotReturn (core t : Nat)
  | meetWaitReturn (core t : Nat)
  | meetCloseNotice (obj : Nat)
  | vwaitReevaluate (core t elem : Nat)
  | vwaitTimeout (core t : Nat)
  | yieldEnd (core t : Nat)
  -- events: traps and translation
  | engineRecordDelivery (core t : Nat)
  | stewardKillTrip (core t : Nat)
  | stewardThawEscalated (core t : Nat)
  | pageWalk (core t : Nat) (va : Word) (write : Bool)
  -- events: debug and trace (R283 to R302)
  | dbgctlHalt (core t : Nat)
  | dbgctlResume (core t : Nat)
  | dbgctlStep (core t : Nat)
  | trackHalt (core t : Nat)
  | gangHaltRequest (core t : Nat)
  | dregdataRead (core : Nat)
  | dregdataWrite (core : Nat) (v : Word)
  | lagctlClear (core : Nat)
  | samplerTick (core : Nat)
  | traceWindowStop (die : Nat)
  | tracePortDropReport (die : Nat)
  -- events: steward, power, reset, errors (R270 to R282, R459)
  | sctlRunSet (die : Nat)
  | sctlRunClear (die : Nat)
  | watchdogKick (die : Nat)
  | watchdogExpire (die : Nat)
  | ssyncWrite (die : Nat) (v : Word)
  | slcapWrite (core : Nat) (v : Word)
  | powerSample (watts : Nat)
  | powerThrottleLift
  | thermalSense (die degrees : Nat)
  | thermalCapLift (die : Nat)
  | thermalTrip (die : Nat)
  | moduleReset
  | errorReport (u : UnitName) (corrected : Bool)
  | targetedUnitTest (u : UnitName) (pass : Bool)
  | coreRemoval (core : Nat)
  -- events: images (R246 to R266)
  | freezeArrival (core : Nat)
  | imageSeal (core : Nat)
  | sealTimeout (core : Nat)
  | holdNotice (core : Nat) (q : Q8)
  | holdAck (core : Nat) (q : Q8)
  | releaseNotice (core : Nat) (q : Q8)
  | frozenCoreRetry (core t : Nat)
  | imageEngineStart (cluster : Nat)
  | imageSaveComplete (cluster : Nat)
  | imageLoadComplete (cluster : Nat)
  | imageCommandPause (cluster : Nat)
  -- events: the Lesan transport and Ethernet (R230, R276, R277)
  | lesanRead (p : LesanPkt)
  | lesanReadData (p : LesanPkt)
  | lesanWrite (p : LesanPkt)
  | lesanWriteAck (p : LesanPkt)
  | lesanAtomic (p : LesanPkt)
  | lesanAtomicResult (p : LesanPkt)
  | lesanMeetingArrival (p : LesanPkt)
  | lesanMeetingStatus (p : LesanPkt)
  | lesanMeetingResult (p : LesanPkt)
  | lesanAcceptLimitNotice (p : LesanPkt)
  | lesanAckOnly (p : LesanPkt)
  | lesanRetransmit (node : Nat)
  | lesanConnectionDown (node : Nat)
  | ethernetFrameDrop (port : Nat)
  -- events added at the table's end
  | gridEngineTransfer (core cmd : Nat)
  | cbkLoadComplete (core cmd : Nat)
  | linkCreditReturn (core : Nat) (q : Q8)
  | clockCycle
  | debugAccessTimeout (core : Nat)
  | hostMemoryAccess (a : HostAccess)
  | cxlFlushAck (core t : Nat)
deriving DecidableEq, Repr

end Sys2Proof
end

