-- ==== Sys2Proof/WellFormed.lean ====
section
/-!
DEFINITION. Which instructions have an encoding (R317): every condition that an encoding must meet beside its field codes, and
for the table's events that the unit they name exists.
-/
namespace Sys2Proof

/-- The cell encoding is D: two cells an element (R79, R93). -/
def Et.wide : Et → Bool
  | .d => true
  | .f => false
  | .i => false

def FD.et : FD → Et
  | .f => .f
  | .d => .d

/-- The cell encoding in which an element type stands in the grid (R153, R376, R435, R437). -/
def ElemType.cellEt : ElemType → Et
  | .fp64 => .d
  | .e2m1 => .f | .e4m3 => .f | .e5m2 => .f | .fp16 => .f | .bf16 => .f | .fp32 => .f
  | .int8 => .i | .uint8 => .i | .int4 => .i | .int16 => .i | .int32 => .i | .k8 => .i | .acc40 => .i | .int64 => .i

/-- A float element type (R109). -/
def ElemType.isFloat : ElemType → Bool
  | .e2m1 => true | .e4m3 => true | .e5m2 => true | .fp16 => true | .bf16 => true | .fp32 => true | .fp64 => true
  | .int8 => false | .uint8 => false | .int4 => false | .int16 => false | .int32 => false | .k8 => false | .acc40 => false
  | .int64 => false

/-- A 4-bit element type (R109). -/
def ElemType.nibble (t : ElemType) : Bool := t == .int4 || t == .e2m1

/-- A row, column or diagonal view. -/
def View.isGrid : View → Bool
  | .row _ => true | .col _ => true | .diag _ => true
  | .q _ => false | .zero => false | .iota => false | .x _ => false

/-- A view that may be a destination (R95). -/
def View.writable : View → Bool
  | .row _ => true | .col _ => true | .diag _ => true | .q _ => true
  | .zero => false | .iota => false | .x _ => false

/-- The et D rule of R95: no column view of odd index, no diagonal view of index 64 or more. -/
def View.fits (wide : Bool) : View → Bool
  | .col n => !wide || n.val % 2 == 0
  | .diag n => !wide || n.val < 64
  | .row _ => true | .q _ => true | .zero => true | .iota => true | .x _ => true

def View.src (e : Et) (v : View) : Bool := v.fits e.wide
def View.dst (e : Et) (v : View) : Bool := v.writable && v.fits e.wide
/-- A grid destination: of VINS, VRED, the loads and VATOM (R434, R439, R437, R432). -/
def View.gridDst (e : Et) (v : View) : Bool := v.isGrid && v.fits e.wide

/-- The element types of VLD (R437). -/
def ElemType.loadable (t : ElemType) : Bool := t != .k8 && t != .int64
/-- The element types of a drain or a store (R374, R440). -/
def ElemType.storable (t : ElemType) : Bool := t != .k8
/-- The element types of ROWFILL (R153). -/
def ElemType.fillable (t : ElemType) : Bool := t != .k8 && t != .int64 && !t.nibble
/-- The targets of an MX drain (R375). -/
def ElemType.mxTarget (t : ElemType) : Bool := t == .int8 || t == .e2m1 || t == .e4m3 || t == .e5m2

/-- The conditions of R375 on a conversion: no `.F` with a float target, nothing beside raw cells. -/
def VConv.wf (c : VConv) : Bool :=
  c.et.storable && !(c.asFloat && c.et.isFloat)
    && (c.et != .acc40 || (!c.asFloat && c.rm == .rne && !c.sat))

/-- The condition of R375 and R440 on the address operand under a target. -/
def DrainAddr.wf (t : ElemType) : DrainAddr → Bool
  | .stride _ => true
  | .scale r => t.mxTarget && r != 0
  | .index v => v.isGrid

def StoreAddr.wf (t : ElemType) : StoreAddr → Bool
  | .stride _ => true
  | .scale r => t.mxTarget && r != 0

/-- VATOM's memory types (R432), and which op goes with them. -/
def vatomWf (op : AmoOp) (t : ElemType) : Bool :=
  match t with
  | .fp32 => op == .swap || op == .fadd
  | .int8 => op != .fadd | .uint8 => op != .fadd | .int16 => op != .fadd | .int32 => op != .fadd
  | .int64 => op != .fadd
  | .int4 => false | .e2m1 => false | .e4m3 => false | .e5m2 => false | .fp16 => false | .bf16 => false
  | .fp64 => false | .k8 => false | .acc40 => false

/-- The system registers R331 names. -/
def sysregNamed (n : Nat) : Bool :=
  n ≤ 4 || (0x10 ≤ n && n ≤ 0x17) || (0x20 ≤ n && n ≤ 0x27) || (0x30 ≤ n && n ≤ 0x33) || (0x40 ≤ n && n ≤ 0x4F)
    || (0x100 ≤ n && n ≤ 0x10F)

/-- Units of the package (R12). -/
def coreOk (c : Nat) : Bool := c < 512
def trackOk (c t : Nat) : Bool := c < 512 && t < 4
def dieOk (d : Nat) : Bool := d < 4

def Inst.wf : Inst → Bool
  | .package d => dieOk d
  | .die d => dieOk d
  | .cluster n => n < 32
  | .core c => coreOk c
  | .track c t => trackOk c t

def UnitName.wf : UnitName → Bool
  | .poolBank c b => coreOk c && b < 18
  | .macBand c b => coreOk c && b < 4
  | .causeway l => l < 8
  | .ethernet p => p < 16
  | .cxl p => p < 4
  | .memoryLine a => a < 2 ^ 52

/-- An instruction is well formed when it has an encoding, an event when its unit exists. -/
def Instr.wf : Instr → Bool
  | .add _ _ _ => true | .sub _ _ _ => true | .and _ _ _ => true | .or _ _ _ => true | .xor _ _ _ => true
  | .shl _ _ _ => true | .shr _ _ _ => true | .sra _ _ _ => true | .slt _ _ _ => true | .sltn _ _ _ => true
  | .min _ _ _ => true | .max _ _ _ => true | .minn _ _ _ => true | .maxn _ _ _ => true | .mul _ _ _ => true
  | .mulh _ _ _ => true | .mulhn _ _ _ => true | .div _ _ _ => true | .divn _ _ _ => true | .rem _ _ _ => true
  | .remn _ _ _ => true | .clz _ _ => true | .ctz _ _ => true | .popc _ _ => true | .sel _ _ _ _ => true
  | .ext _ _ _ => true | .ins _ _ _ => true
  | .addi _ _ _ => true | .andi _ _ _ => true | .ori _ _ _ => true | .xori _ _ _ => true | .slti _ _ _ => true
  | .sltni _ _ _ => true | .shli _ _ _ => true | .shri _ _ _ => true | .srai _ _ _ => true | .lui _ _ => true
  | .adpc _ _ => true
  | .fadd _ _ _ _ _ => true | .fsub _ _ _ _ _ => true | .fmul _ _ _ _ _ => true | .fma _ _ _ _ _ => true
  | .fdiv _ _ _ _ _ => true | .fsqrt _ _ _ _ => true | .fmin _ _ _ _ => true | .fmax _ _ _ _ => true
  | .fcmp _ _ _ _ _ => true | .fcvt _ _ _ _ _ => true | .fclass _ _ _ => true
  | .ld _ _ _ _ => true | .st _ _ _ _ => true | .pref _ _ _ => true
  | .amoSwap _ _ _ _ _ _ => true | .amoAdd _ _ _ _ _ _ => true | .amoAnd _ _ _ _ _ _ => true
  | .amoOr _ _ _ _ _ _ => true | .amoXor _ _ _ _ _ _ => true | .amoMin _ _ _ _ _ _ => true
  | .amoMax _ _ _ _ _ _ => true | .amoMinn _ _ _ _ _ _ => true | .amoMaxn _ _ _ _ _ _ => true
  | .amoFadd _ _ _ _ _ _ => true | .cas _ _ _ _ _ _ => true | .fence _ _ => true
  | .beq _ _ _ => true | .bne _ _ _ => true | .blt _ _ _ => true | .bge _ _ _ => true | .bltn _ _ _ => true
  | .bgen _ _ _ => true | .jal _ _ => true | .jalr _ _ _ => true
  | .sysrd _ n => sysregNamed n
  | .syswr n _ => sysregNamed n
  | .trap _ _ => true | .trapAck => true | .trapRet => true | .brk => true | .cflush _ => true
  | .tlbinv _ _ _ => true | .traceMark _ => true | .freeze _ _ => true | .thaw _ _ => true | .thawV _ _ => true
  | .imgSave _ _ _ => true | .imgLoad _ _ _ => true
  | .spawn _ _ _ _ => true | .cont _ _ => true | .exit => true | .yield _ => true | .launch _ _ => true | .trigger => true
  | .setvl _ _ => true | .setvlAdv _ _ => true | .lanes _ _ => true
  | .gclaim _ _ _ => true
  | .gclaimT _ _ _ => true
  | .grelease => true
  | .gzero _ => true
  | .gpark _ _ => true | .gunpark _ _ => true | .gwait _ => true | .fmt _ => true | .opa _ _ _ _ _ _ => true
  | .strmCfg _ _ => true | .strmIdx _ _ _ => true | .strmLink _ _ => true | .strmStop _ => true | .strmSkip _ _ => true
  | .cbkLoad _ _ => true | .cpy _ _ => true | .cpyAbort _ _ => true | .mileWait _ _ => true | .xfLoad _ _ => true
  | .jctInit _ _ => true | .jctAdd _ _ _ => true | .jctWait _ _ _ _ => true | .jctTest _ _ _ => true
  | .barJoin _ => true | .barArrive _ _ => true | .barWait _ _ _ => true | .barLeave _ => true | .barReset _ _ => true
  | .barResetI _ _ _ => true
  | .meetOpen _ _ _ => true | .meetSlot _ _ _ => true | .meetArrive _ _ _ => true | .meetWait _ _ _ => true
  | .meetRejoin _ _ _ => true | .meetClose _ => true
  | .crossPost _ _ => true | .crossTake _ _ => true
  | .vadd et vd va vb _ => vd.dst et.et && va.src et.et && vb.src et.et
  | .vsub et vd va vb _ => vd.dst et.et && va.src et.et && vb.src et.et
  | .vmul et vd va vb _ => vd.dst et.et && va.src et.et && vb.src et.et
  | .vfma _ et vd va vb vc _ => vd.dst et.et && va.src et.et && vb.src et.et && vc.src et.et
  | .vdiv et vd va vb _ => vd.dst et.et && va.src et.et && vb.src et.et
  | .vsqrt et vd va _ => vd.dst et.et && va.src et.et
  | .vrcp vd _ _ => vd.writable
  | .vrsqrt vd _ _ => vd.writable
  | .vexp2 vd _ _ => vd.writable
  | .vlog2 vd _ _ => vd.writable
  | .vtanh vd _ _ => vd.writable
  | .vmin et vd va vb _ => vd.dst et.et && va.src et.et && vb.src et.et
  | .vmax et vd va vb _ => vd.dst et.et && va.src et.et && vb.src et.et
  | .vsgn _ et vd va vb _ => vd.dst et.et && va.src et.et && vb.src et.et
  | .vcvt t et vd va _ => t != .k8 && t != .acc40 && t != .int64 && vd.dst t.cellEt && va.src et
  | .viadd vd _ _ _ _ => vd.writable | .visub vd _ _ _ _ => vd.writable | .vimul vd _ _ _ _ => vd.writable
  | .vshl vd _ _ _ => vd.writable | .vshr vd _ _ _ => vd.writable | .vsra vd _ _ _ => vd.writable
  | .vand vd _ _ _ => vd.writable | .vor vd _ _ _ => vd.writable | .vxor vd _ _ _ => vd.writable
  | .vimin vd _ _ _ => vd.writable | .vimax vd _ _ _ => vd.writable
  | .vmv et vd va _ => vd.dst et && va.src et
  | .vsel et vd va vb _ _ => vd.dst et && va.src et && vb.src et
  | .vbcast et vd va _ _ => vd.dst et && va.src et
  | .vext et _ va _ => va.src et
  | .vins et vd _ _ => vd.gridDst et
  | .vslide _ et vd va _ _ => vd.dst et && va.src et
  | .vperm et vd va _ _ => vd.dst et && va.src et
  | .vred op et vd va rm sat _ => vd.gridDst et && va.src et && (op == .sum || (rm == .rne && !sat))
  | .vscan op et vd va c => vd.dst et && va.src et && (op == .sum || (c.rm == .rne && !c.sat))
  | .vfcmp _ et _ va vb _ => va.src et.et && vb.src et.et
  | .vicmp _ _ _ _ _ => true
  | .mlogic _ _ _ _ _ => true | .mfirst _ _ _ => true | .mpopc _ _ _ => true | .mfind _ _ _ => true
  | .mtox _ _ _ => true | .mfromx _ _ _ => true
  | .vld et vd _ _ _ => et.loadable && vd.gridDst et.cellEt
  | .vldx et vd _ vo _ => et.loadable && !et.nibble && vd.gridDst et.cellEt && vo.isGrid
  | .vldff et vd _ _ _ => et.loadable && vd.gridDst et.cellEt
  | .vst va _ ad cv => cv.wf && ad.wf cv.et && va.src cv.et.cellEt
  | .vstx va _ vo cv => cv.wf && !cv.et.nibble && va.src cv.et.cellEt && vo.isGrid
  | .vatom op et _ _ vd _ va vb _ => vatomWf op et && vd.isGrid && va.isGrid
      && (vb.isGrid || (match vb with
        | .x _ => true
        | .row _ => false | .col _ => false | .diag _ => false | .q _ => false | .zero => false | .iota => false))
  | .vwait _ _ _ _ _ _ _ va vb _ => va.isGrid
      && (vb.isGrid || (match vb with
        | .x _ => true
        | .row _ => false | .col _ => false | .diag _ => false | .q _ => false | .zero => false | .iota => false))
  | .rowfill et _ _ _ => et.fillable
  | .rowsend _ _ _ _ => true
  | .gdrain va _ ad _ cv => cv.wf && ad.wf cv.et && va.isGrid && va.src cv.et.cellEt
  | .gsave _ _ _ _ => true
  | .gload _ _ _ _ => true
  | .lqtailWrite queue _ => queue < 4
  | .deviceRegisterWrite w => w.pa < 2 ^ 52
  | .queueRecordRead queue => queue < 4
  | .launchStart _ => true
  | .expanderPush _ i => i.wf
  | .tripStart c t => trackOk c t
  | .gangStart _ _ => true | .agingThreshold _ => true | .spillReturn _ => true | .launchComplete _ => true
  | .stewardWriteRetry _ => true | .stewardWriteDiscard _ => true
  | .gridCommandEnter c _ => coreOk c | .opaComplete c _ => coreOk c | .opaArithTrap c t => trackOk c t
  | .gzeroComplete c _ => coreOk c | .gparkComplete c _ => coreOk c | .gunparkComplete c _ => coreOk c
  | .rowfillComplete c _ => coreOk c | .gdrainComplete c _ => coreOk c | .gsaveComplete c _ => coreOk c
  | .gloadComplete c _ => coreOk c | .rowsendArrival c _ => coreOk c | .rowsendComplete c _ => coreOk c
  | .copyStart c _ => coreOk c
  | .copyTransfer c _ n => coreOk c && 0 < n && n ≤ 64
  | .copyComplete c _ => coreOk c
  | .cpyQueueRoom c t => trackOk c t
  | .streamRefill c _ => coreOk c | .linkFlitArrival c _ => coreOk c | .graphBlock c _ => coreOk c
  | .xfLoadInstall c t => trackOk c t
  | .offloadTargetFull c _ _ => coreOk c
  | .cxlRetrainFail p => p < 4
  | .loadResponse c t => trackOk c t | .crossTakeWake c t => trackOk c t | .crossPostWake c t => trackOk c t
  | .gclaimGrant c t => trackOk c t | .barWaitReturn c t => trackOk c t | .barArriveNextPhase c t => trackOk c t
  | .jctWaitReturn c t => trackOk c t | .mileWaitReturn c t => trackOk c t | .meetArriveReclassify c t => trackOk c t
  | .meetCombine _ => true
  | .meetSlotReturn c t => trackOk c t | .meetWaitReturn c t => trackOk c t
  | .meetCloseNotice _ => true
  | .vwaitReevaluate c t e => trackOk c t && e < 128
  | .vwaitTimeout c t => trackOk c t | .yieldEnd c t => trackOk c t
  | .engineRecordDelivery c t => trackOk c t | .stewardKillTrip c t => trackOk c t | .stewardThawEscalated c t => trackOk c t
  | .pageWalk c t _ _ => trackOk c t
  | .dbgctlHalt c t => trackOk c t | .dbgctlResume c t => trackOk c t | .dbgctlStep c t => trackOk c t
  | .trackHalt c t => trackOk c t | .gangHaltRequest c t => trackOk c t
  | .dregdataRead c => coreOk c | .dregdataWrite c _ => coreOk c | .lagctlClear c => coreOk c | .samplerTick c => coreOk c
  | .traceWindowStop d => dieOk d | .tracePortDropReport d => dieOk d
  | .sctlRunSet d => dieOk d | .sctlRunClear d => dieOk d | .watchdogKick d => dieOk d | .watchdogExpire d => dieOk d
  | .ssyncWrite d _ => dieOk d
  | .slcapWrite c _ => coreOk c
  | .powerSample _ => true | .powerThrottleLift => true
  | .thermalSense d _ => dieOk d | .thermalCapLift d => dieOk d | .thermalTrip d => dieOk d
  | .moduleReset => true
  | .errorReport u _ => u.wf | .targetedUnitTest u _ => u.wf
  | .coreRemoval c => coreOk c
  | .freezeArrival c => coreOk c | .imageSeal c => coreOk c | .sealTimeout c => coreOk c
  | .holdNotice c _ => coreOk c | .holdAck c _ => coreOk c | .releaseNotice c _ => coreOk c
  | .frozenCoreRetry c t => trackOk c t
  | .imageEngineStart n => n < 32 | .imageSaveComplete n => n < 32 | .imageLoadComplete n => n < 32
  | .imageCommandPause n => n < 32
  | .lesanRead _ => true | .lesanReadData _ => true | .lesanWrite _ => true | .lesanWriteAck _ => true
  | .lesanAtomic _ => true | .lesanAtomicResult _ => true | .lesanMeetingArrival _ => true | .lesanMeetingStatus _ => true
  | .lesanMeetingResult _ => true | .lesanAcceptLimitNotice _ => true | .lesanAckOnly _ => true
  | .lesanRetransmit _ => true | .lesanConnectionDown _ => true
  | .ethernetFrameDrop p => p < 16
  | .gridEngineTransfer c _ => coreOk c | .cbkLoadComplete c _ => coreOk c | .linkCreditReturn c _ => coreOk c
  | .clockCycle => true
  | .debugAccessTimeout c => coreOk c
  | .hostMemoryAccess a => a.host < 64
  | .cxlFlushAck c t => trackOk c t

end Sys2Proof
end

