-- ==== Sys2Proof/Decode.lean ====
section
/-!
DEFINITION. The decoder, total on any bytes, and after it the encoder (R315 to R335 and the entries' own encodings). A word is
first cut into the fields of R318; the groups of R325 then read the fields.
-/
namespace Sys2Proof

/-- Why a word is no instruction. Every one of these is an ILLEGAL of R335, but for `truncated`, which only a byte list
that ends too soon gives. -/
inductive DecodeError
  /-- fewer bytes than the instruction has -/
  | truncated
  /-- a primary that R325 reserves -/
  | reservedPrimary (p : Nat)
  /-- a reserved function or field code, or a nonzero bit that must be zero (R317) -/
  | malformed (p : Nat)
  /-- fields that the entry forbids together, `Instr.wf` -/
  | illFormed (p : Nat)
deriving DecidableEq, Repr

/-! The codes of each field. -/

/-- Scope codes (R188). -/
def Scope.code : Scope → Nat
  | .track => 0
  | .core => 1
  | .cluster => 2
  | .die => 3
  | .package => 4
  | .system => 5

/-- The inverse of `Scope.code`; none for a reserved code. -/
def Scope.ofCode : Nat → Option Scope
  | 0 => some .track
  | 1 => some .core
  | 2 => some .cluster
  | 3 => some .die
  | 4 => some .package
  | 5 => some .system
  | _ => none

/-- Order codes (R319). -/
def MemOrder.code : MemOrder → Nat
  | .relaxed => 0
  | .acquire => 1
  | .release => 2
  | .acqRel => 3

/-- The inverse of `MemOrder.code`; none for a reserved code. -/
def MemOrder.ofCode : Nat → Option MemOrder
  | 0 => some .relaxed
  | 1 => some .acquire
  | 2 => some .release
  | 3 => some .acqRel
  | _ => none

/-- Order codes of FENCE (R190). -/
def FenceOrder.code : FenceOrder → Nat
  | .acquire => 1
  | .release => 2
  | .acqRel => 3

/-- The inverse of `FenceOrder.code`; none for a reserved code. -/
def FenceOrder.ofCode : Nat → Option FenceOrder
  | 1 => some .acquire
  | 2 => some .release
  | 3 => some .acqRel
  | _ => none

/-- Element type codes (R109). -/
def ElemType.code : ElemType → Nat
  | .int8 => 0
  | .uint8 => 1
  | .int4 => 2
  | .e2m1 => 3
  | .e4m3 => 4
  | .e5m2 => 5
  | .fp16 => 6
  | .bf16 => 7
  | .fp32 => 8
  | .fp64 => 9
  | .int16 => 10
  | .int32 => 11
  | .k8 => 12
  | .acc40 => 13
  | .int64 => 14

/-- The inverse of `ElemType.code`; none for a reserved code. -/
def ElemType.ofCode : Nat → Option ElemType
  | 0 => some .int8
  | 1 => some .uint8
  | 2 => some .int4
  | 3 => some .e2m1
  | 4 => some .e4m3
  | 5 => some .e5m2
  | 6 => some .fp16
  | 7 => some .bf16
  | 8 => some .fp32
  | 9 => some .fp64
  | 10 => some .int16
  | 11 => some .int32
  | 12 => some .k8
  | 13 => some .acc40
  | 14 => some .int64
  | _ => none

/-- sz codes (R319). -/
def LdSize.code : LdSize → Nat
  | .s8 => 0
  | .s16 => 1
  | .s32 => 2
  | .d64 => 3
  | .n8 => 4
  | .n16 => 5
  | .n32 => 6

/-- The inverse of `LdSize.code`; none for a reserved code. -/
def LdSize.ofCode : Nat → Option LdSize
  | 0 => some .s8
  | 1 => some .s16
  | 2 => some .s32
  | 3 => some .d64
  | 4 => some .n8
  | 5 => some .n16
  | 6 => some .n32
  | _ => none

/-- size codes (R319). -/
def Size.code : Size → Nat
  | .b1 => 0
  | .b2 => 1
  | .b4 => 2
  | .b8 => 3

/-- The inverse of `Size.code`; none for a reserved code. -/
def Size.ofCode : Nat → Option Size
  | 0 => some .b1
  | 1 => some .b2
  | 2 => some .b4
  | 3 => some .b8
  | _ => none

/-- Rounding codes (R112). -/
def Rounding.code : Rounding → Nat
  | .rne => 0
  | .rtz => 1
  | .rdn => 2
  | .rup => 3
  | .rna => 4
  | .sr => 5
  | .dyn => 6

/-- The inverse of `Rounding.code`; none for a reserved code. -/
def Rounding.ofCode : Nat → Option Rounding
  | 0 => some .rne
  | 1 => some .rtz
  | 2 => some .rdn
  | 3 => some .rup
  | 4 => some .rna
  | 5 => some .sr
  | 6 => some .dyn
  | _ => none

/-- Precision codes (R328). -/
def Prec.code : Prec → Nat
  | .f32 => 0
  | .f64 => 1

/-- The inverse of `Prec.code`; none for a reserved code. -/
def Prec.ofCode : Nat → Option Prec
  | 0 => some .f32
  | 1 => some .f64
  | _ => none

/-- Arithmetic-class et codes of the float forms (R322). -/
def FD.code : FD → Nat
  | .f => 8
  | .d => 9

/-- The inverse of `FD.code`; none for a reserved code. -/
def FD.ofCode : Nat → Option FD
  | 8 => some .f
  | 9 => some .d
  | _ => none

/-- Arithmetic-class et codes (R322). -/
def Et.code : Et → Nat
  | .f => 8
  | .d => 9
  | .i => 13

/-- The inverse of `Et.code`; none for a reserved code. -/
def Et.ofCode : Nat → Option Et
  | 8 => some .f
  | 9 => some .d
  | 13 => some .i
  | _ => none

/-- aop codes (R208). -/
def AmoOp.code : AmoOp → Nat
  | .swap => 0
  | .add => 1
  | .and => 2
  | .or => 3
  | .xor => 4
  | .min => 5
  | .max => 6
  | .minn => 7
  | .maxn => 8
  | .fadd => 9

/-- The inverse of `AmoOp.code`; none for a reserved code. -/
def AmoOp.ofCode : Nat → Option AmoOp
  | 0 => some .swap
  | 1 => some .add
  | 2 => some .and
  | 3 => some .or
  | 4 => some .xor
  | 5 => some .min
  | 6 => some .max
  | 7 => some .minn
  | 8 => some .maxn
  | 9 => some .fadd
  | _ => none

/-- Variants of FCMP (R328). -/
def FCond.code : FCond → Nat
  | .eq => 0
  | .lt => 1
  | .le => 2
  | .un => 3

/-- The inverse of `FCond.code`; none for a reserved code. -/
def FCond.ofCode : Nat → Option FCond
  | 0 => some .eq
  | 1 => some .lt
  | 2 => some .le
  | 3 => some .un
  | _ => none

/-- Variants of FCVT (R328). -/
def FCvtKind.code : FCvtKind → Nat
  | .otherFloat => 0
  | .toInt32 => 1
  | .toInt64 => 2
  | .toUint32 => 3
  | .toUint64 => 4
  | .fromInt64 => 5
  | .fromUint64 => 6

/-- The inverse of `FCvtKind.code`; none for a reserved code. -/
def FCvtKind.ofCode : Nat → Option FCvtKind
  | 0 => some .otherFloat
  | 1 => some .toInt32
  | 2 => some .toInt64
  | 3 => some .toUint32
  | 4 => some .toUint64
  | 5 => some .fromInt64
  | 6 => some .fromUint64
  | _ => none

/-- Conditions of VFCMP (R323). -/
def VfCond.code : VfCond → Nat
  | .eq => 0
  | .ne => 1
  | .lt => 2
  | .ge => 3
  | .le => 4
  | .gt => 5
  | .un => 6

/-- The inverse of `VfCond.code`; none for a reserved code. -/
def VfCond.ofCode : Nat → Option VfCond
  | 0 => some .eq
  | 1 => some .ne
  | 2 => some .lt
  | 3 => some .ge
  | 4 => some .le
  | 5 => some .gt
  | 6 => some .un
  | _ => none

/-- Conditions of VICMP and VWAIT (R323). -/
def ICond.code : ICond → Nat
  | .eq => 0
  | .ne => 1
  | .lt => 2
  | .ge => 3
  | .ltn => 4
  | .gen => 5

/-- The inverse of `ICond.code`; none for a reserved code. -/
def ICond.ofCode : Nat → Option ICond
  | 0 => some .eq
  | 1 => some .ne
  | 2 => some .lt
  | 3 => some .ge
  | 4 => some .ltn
  | 5 => some .gen
  | _ => none

/-- sub codes of VFMA (R323). -/
def FmaSub.code : FmaSub → Nat
  | .madd => 0
  | .msub => 1
  | .nmadd => 2
  | .nmsub => 3

/-- The inverse of `FmaSub.code`; none for a reserved code. -/
def FmaSub.ofCode : Nat → Option FmaSub
  | 0 => some .madd
  | 1 => some .msub
  | 2 => some .nmadd
  | 3 => some .nmsub
  | _ => none

/-- sub codes of VSGN (R323). -/
def SgnSub.code : SgnSub → Nat
  | .copy => 0
  | .neg => 1
  | .xor => 2

/-- The inverse of `SgnSub.code`; none for a reserved code. -/
def SgnSub.ofCode : Nat → Option SgnSub
  | 0 => some .copy
  | 1 => some .neg
  | 2 => some .xor
  | _ => none

/-- sub codes of VRED and VSCAN (R323). -/
def RedOp.code : RedOp → Nat
  | .sum => 0
  | .max => 1
  | .min => 2

/-- The inverse of `RedOp.code`; none for a reserved code. -/
def RedOp.ofCode : Nat → Option RedOp
  | 0 => some .sum
  | 1 => some .max
  | 2 => some .min
  | _ => none

/-- Codes of MLOGIC (R323). -/
def LogicOp.code : LogicOp → Nat
  | .and => 0
  | .or => 1
  | .xor => 2
  | .andn => 3
  | .orn => 4
  | .xnor => 5
  | .nand => 6
  | .nor => 7

/-- The inverse of `LogicOp.code`; none for a reserved code. -/
def LogicOp.ofCode : Nat → Option LogicOp
  | 0 => some .and
  | 1 => some .or
  | 2 => some .xor
  | 3 => some .andn
  | 4 => some .orn
  | 5 => some .xnor
  | 6 => some .nand
  | 7 => some .nor
  | _ => none

/-- Placement codes (R41). -/
def Place.code : Place → Nat
  | .core => 0
  | .cluster => 1
  | .die => 2

/-- The inverse of `Place.code`; none for a reserved code. -/
def Place.ofCode : Nat → Option Place
  | 0 => some .core
  | 1 => some .cluster
  | 2 => some .die
  | _ => none

/-- Modes of TLBINV (R422). -/
def TlbMode.code : TlbMode → Nat
  | .page => 0
  | .context => 1
  | .all => 2

/-- The inverse of `TlbMode.code`; none for a reserved code. -/
def TlbMode.ofCode : Nat → Option TlbMode
  | 0 => some .page
  | 1 => some .context
  | 2 => some .all
  | _ => none

/-- Vector specifiers (R93, R94). -/
def View.code : View → Nat
  | .row n => n.val
  | .col n => 128 + n.val
  | .diag n => 256 + n.val
  | .q n => 384 + n.val
  | .zero => 392
  | .iota => 393
  | .x r => 416 + r.val

/-- The inverse of `View.code`; none for a reserved specifier (R95). -/
def View.ofCode (c : Nat) : Option View :=
  if c < 128 then some (.row (Fin.ofNat 128 c))
  else if c < 256 then some (.col (Fin.ofNat 128 (c - 128)))
  else if c < 384 then some (.diag (Fin.ofNat 128 (c - 256)))
  else if c < 392 then some (.q (Fin.ofNat 8 (c - 384)))
  else if c = 392 then some .zero
  else if c = 393 then some .iota
  else if 416 ≤ c ∧ c < 448 then some (.x (Fin.ofNat 32 (c - 416)))
  else none

/-- The register of an x specifier. -/
def xOfCode (c : Nat) : Option Reg := if 416 ≤ c ∧ c < 448 then some (Fin.ofNat 32 (c - 416)) else none

/-- The index of a row specifier. -/
def rowOfCode (c : Nat) : Option (Fin 128) := if c < 128 then some (Fin.ofNat 128 c) else none

/-- The register of a register field. -/
def reg (n : Nat) : Reg := Fin.ofNat 32 n
def mreg (n : Nat) : MReg := Fin.ofNat 8 n
def q8 (n : Nat) : Q8 := Fin.ofNat 8 n
def flag (n : Nat) : Bool := n == 1

/-! Fields of the formats (R318). -/

/-- A one-word instruction: bits 31:26, 25:21, 20:16, 15:11 and 10:0. -/
structure Short where
  p : Nat
  d : Nat
  a : Nat
  b : Nat
  f : Nat
deriving DecidableEq, Repr

/-- The two words of a long form; `hi` is word 1 bits 22:19 and `xs` its bits 18:14. -/
structure Long where
  p : Nat
  fn : Nat
  vd : Nat
  va : Nat
  sub : Nat
  vb : Nat
  hi : Nat
  xs : Nat
  et : Nat
  rm : Nat
  sat : Nat
  mz : Nat
  mask : Nat
  z : Nat
deriving DecidableEq, Repr

def Short.ofWord (w : Nat) : Short :=
  ⟨w / 67108864 % 64, w / 2097152 % 32, w / 65536 % 32, w / 2048 % 32, w % 2048⟩

def Short.word (s : Short) : Nat := s.p * 67108864 + s.d * 2097152 + s.a * 65536 + s.b * 2048 + s.f

def Long.ofWords (w0 w1 : Nat) : Long :=
  ⟨w0 / 67108864 % 64, w0 / 1048576 % 64, w0 / 2048 % 512, w0 / 4 % 512, w0 % 4,
   w1 / 8388608 % 512, w1 / 524288 % 16, w1 / 16384 % 32, w1 / 1024 % 16, w1 / 128 % 8, w1 / 64 % 2, w1 / 32 % 2,
   w1 / 4 % 8, w1 % 4⟩

def Long.word0 (l : Long) : Nat := l.p * 67108864 + l.fn * 1048576 + l.vd * 2048 + l.va * 4 + l.sub

def Long.word1 (l : Long) : Nat :=
  l.vb * 8388608 + l.hi * 524288 + l.xs * 16384 + l.et * 1024 + l.rm * 128 + l.sat * 64 + l.mz * 32 + l.mask * 4 + l.z

/-- imm16 of formats I and B. -/
def Short.imm16 (s : Short) : Nat := s.b * 2048 + s.f
/-- fn6 and imm5 of format Y. -/
def Short.fn6 (s : Short) : Nat := s.f / 32
def Short.imm5 (s : Short) : Nat := s.f % 32

/-- `some i` when the fields that must be zero are. -/
def when (c : Bool) (i : Instr) : Option Instr := if c then some i else none

/-! The groups of R325. -/

/-- The register ALU (R326): fn<5:0> the operation, fn<10:6> xc of SEL. -/
def decodeAlu (s : Short) : Option Instr :=
  let d := reg s.d
  let a := reg s.a
  let b := reg s.b
  let c0 := s.f / 64 == 0
  match s.f % 64 with
  | 0 => when c0 (.add d a b)
  | 1 => when c0 (.sub d a b)
  | 2 => when c0 (.and d a b)
  | 3 => when c0 (.or d a b)
  | 4 => when c0 (.xor d a b)
  | 5 => when c0 (.shl d a b)
  | 6 => when c0 (.shr d a b)
  | 7 => when c0 (.sra d a b)
  | 8 => when c0 (.slt d a b)
  | 9 => when c0 (.sltn d a b)
  | 10 => when c0 (.min d a b)
  | 11 => when c0 (.max d a b)
  | 12 => when c0 (.minn d a b)
  | 13 => when c0 (.maxn d a b)
  | 16 => when c0 (.mul d a b)
  | 17 => when c0 (.mulh d a b)
  | 18 => when c0 (.mulhn d a b)
  | 20 => when c0 (.div d a b)
  | 21 => when c0 (.divn d a b)
  | 22 => when c0 (.rem d a b)
  | 23 => when c0 (.remn d a b)
  | 24 => when (c0 && s.b == 0) (.clz d a)
  | 25 => when (c0 && s.b == 0) (.ctz d a)
  | 26 => when (c0 && s.b == 0) (.popc d a)
  | 28 => some (.sel d a b (reg (s.f / 64)))
  | 29 => when c0 (.ext d a b)
  | 30 => when c0 (.ins d a b)
  | _ => none

/-- The immediates (R327), by primary. -/
def decodeImm (s : Short) : Option Instr :=
  let d := reg s.d
  let a := reg s.a
  let i := BitVec.ofNat 16 s.imm16
  match s.p with
  | 2 => some (.addi d a i)
  | 3 => some (.andi d a i)
  | 4 => some (.ori d a i)
  | 5 => some (.xori d a i)
  | 6 => some (.slti d a i)
  | 7 => some (.sltni d a i)
  | 8 => when (s.imm16 / 64 == 0) (.shli d a (Fin.ofNat 64 s.imm16))
  | 9 => when (s.imm16 / 64 == 0) (.shri d a (Fin.ofNat 64 s.imm16))
  | 10 => when (s.imm16 / 64 == 0) (.srai d a (Fin.ofNat 64 s.imm16))
  | 11 => when (s.a == 0) (.lui d i)
  | 12 => when (s.a == 0) (.adpc d i)
  | _ => none

/-- Scalar FP (R328): fn bits 3:0 op, 4 precision, 7:5 rm, 10:8 variant. -/
def decodeFp (s : Short) : Option Instr :=
  let d := reg s.d
  let a := reg s.a
  let b := reg s.b
  let v := s.f / 256
  let r := s.f / 32 % 8
  (Prec.ofCode (s.f / 16 % 2)).bind fun p => match s.f % 16 with
  | 0 => (Rounding.ofCode r).bind fun m => when (v == 0) (.fadd p d a b m)
  | 1 => (Rounding.ofCode r).bind fun m => when (v == 0) (.fsub p d a b m)
  | 2 => (Rounding.ofCode r).bind fun m => when (v == 0) (.fmul p d a b m)
  | 3 => (Rounding.ofCode r).bind fun m => when (v == 0) (.fma p d a b m)
  | 4 => (Rounding.ofCode r).bind fun m => when (v == 0) (.fdiv p d a b m)
  | 5 => (Rounding.ofCode r).bind fun m => when (v == 0 && s.b == 0) (.fsqrt p d a m)
  | 6 => when (v == 0 && r == 0) (.fmin p d a b)
  | 7 => when (v == 0 && r == 0) (.fmax p d a b)
  | 8 => (FCond.ofCode v).bind fun c => when (r == 0) (.fcmp p c d a b)
  | 9 => (FCvtKind.ofCode v).bind fun k => (Rounding.ofCode r).bind fun m => when (s.b == 0) (.fcvt p k d a m)
  | 10 => when (v == 0 && r == 0 && s.b == 0) (.fclass p d a)
  | _ => none

/-- LD, ST and PREF (R329): sz in bits 15:13, imm13 below. -/
def decodeMem (s : Short) : Option Instr :=
  let sz := s.imm16 / 8192
  let i := BitVec.ofNat 13 s.imm16
  match s.p with
  | 17 => (LdSize.ofCode sz).bind fun z => some (.ld z (reg s.d) (reg s.a) i)
  | 18 => (Size.ofCode sz).bind fun z => some (.st z (reg s.d) (reg s.a) i)
  | 19 => when (sz == 0 && s.d ≤ 1) (.pref (flag s.d) (reg s.a) i)
  | _ => none

/-- AMO, CAS and FENCE (R207, R208, R329): aop 10:7, ord 6:5, scope 4:2, size 1:0. -/
def decodeAtomic (s : Short) : Option Instr :=
  let d := reg s.d
  let a := reg s.a
  let b := reg s.b
  (Scope.ofCode (s.f / 4 % 8)).bind fun sc => match s.p with
  | 20 => (MemOrder.ofCode (s.f / 32 % 4)).bind fun o => (Size.ofCode (s.f % 4)).bind fun z =>
    match AmoOp.ofCode (s.f / 128) with
    | some .swap => some (.amoSwap d a b o sc z)
    | some .add => some (.amoAdd d a b o sc z)
    | some .and => some (.amoAnd d a b o sc z)
    | some .or => some (.amoOr d a b o sc z)
    | some .xor => some (.amoXor d a b o sc z)
    | some .min => some (.amoMin d a b o sc z)
    | some .max => some (.amoMax d a b o sc z)
    | some .minn => some (.amoMinn d a b o sc z)
    | some .maxn => some (.amoMaxn d a b o sc z)
    | some .fadd => match z with
      | .b4 => some (.amoFadd d a b o sc .f32)
      | .b8 => some (.amoFadd d a b o sc .f64)
      | .b1 => none
      | .b2 => none
    | none => none
  | 21 => (MemOrder.ofCode (s.f / 32 % 4)).bind fun o => (Size.ofCode (s.f % 4)).bind fun z =>
    when (s.f / 128 == 0) (.cas d a b o sc z)
  | 22 => (FenceOrder.ofCode (s.f / 32 % 4)).bind fun o =>
    when (s.d == 0 && s.a == 0 && s.b == 0 && s.f / 128 == 0 && s.f % 4 == 0) (.fence o sc)
  | _ => none

/-- Branches and jumps (R329). -/
def decodeBranch (s : Short) : Option Instr :=
  let i := BitVec.ofNat 16 s.imm16
  match s.p with
  | 24 => some (.beq (reg s.d) (reg s.a) i)
  | 25 => some (.bne (reg s.d) (reg s.a) i)
  | 26 => some (.blt (reg s.d) (reg s.a) i)
  | 27 => some (.bge (reg s.d) (reg s.a) i)
  | 28 => some (.bltn (reg s.d) (reg s.a) i)
  | 29 => some (.bgen (reg s.d) (reg s.a) i)
  | 30 => some (.jal (reg s.d) (BitVec.ofNat 21 (s.a * 65536 + s.b * 2048 + s.f)))
  | 31 => some (.jalr (reg s.d) (reg s.a) i)
  | _ => none

/-- The system primary (R330, R246). -/
def decodeSystem (s : Short) : Option Instr :=
  let d := reg s.d
  let a := reg s.a
  let b := reg s.b
  let d0 := s.d == 0
  let a0 := s.a == 0
  let b0 := s.b == 0
  let i0 := s.imm5 == 0
  if s.fn6 < 4 then when a0 (.sysrd d (Fin.ofNat 4096 (s.fn6 * 1024 + s.b * 32 + s.imm5)))
  else if s.fn6 < 8 then when d0 (.syswr (Fin.ofNat 4096 ((s.fn6 - 4) * 1024 + s.b * 32 + s.imm5)) a)
  else match s.fn6 with
  | 8 => when (d0 && b0) (.trap a (Fin.ofNat 32 s.imm5))
  | 9 => when (d0 && a0 && b0 && i0) .trapAck
  | 10 => when (d0 && a0 && b0 && i0) .trapRet
  | 11 => when (d0 && a0 && b0 && i0) .brk
  | 16 => when (d0 && b0 && i0) (.cflush a)
  | 17 => (TlbMode.ofCode s.imm5).bind fun m => when d0 (.tlbinv a b m)
  | 18 => when (d0 && b0 && i0) (.traceMark a)
  | 24 => when (b0 && i0) (.freeze d a)
  | 25 => if i0 then when b0 (.thaw d a) else when (b0 && s.imm5 == 1) (.thawV d a)
  | 26 => when i0 (.imgSave d a b)
  | 27 => when i0 (.imgLoad d a b)
  | _ => none

/-- The work primary (R40). -/
def decodeWork (s : Short) : Option Instr :=
  let d := reg s.d
  let a := reg s.a
  let b := reg s.b
  let d0 := s.d == 0
  let a0 := s.a == 0
  let b0 := s.b == 0
  let i0 := s.imm5 == 0
  match s.fn6 with
  | 0 => (Place.ofCode s.imm5).bind fun p => some (.spawn d a b p)
  | 1 => when (d0 && i0) (.cont a b)
  | 2 => when (d0 && a0 && b0 && i0) .exit
  | 3 => when (d0 && a0 && b0) (.yield (Fin.ofNat 32 s.imm5))
  | 4 => when (b0 && i0) (.launch d a)
  | 5 => when (d0 && a0 && b0 && i0) .trigger
  | _ => none

/-- Grid and vector control (R59, R60, R85). -/
def decodeControl (s : Short) : Option Instr :=
  let d := reg s.d
  let a := reg s.a
  let d0 := s.d == 0
  let a0 := s.a == 0
  let b0 := s.b == 0
  let i0 := s.imm5 == 0
  let band := Fin.ofNat 4 s.imm5
  match s.fn6 with
  | 0 => when (b0 && i0) (.setvl d a)
  | 1 => when (b0 && i0) (.setvlAdv d a)
  | 2 => when (b0 && i0) (.lanes d a)
  | 3 => if s.imm5 / 16 == 0 then when (a0 && b0) (.gclaim d band (Fin.ofNat 4 (s.imm5 / 4)))
         else when (a0 && b0) (.gclaimT d band (Fin.ofNat 4 (s.imm5 / 4)))
  | 4 => when (d0 && a0 && b0 && i0) .grelease
  | 5 => when (d0 && a0 && b0 && s.imm5 / 16 == 0) (.gzero (BitVec.ofNat 4 s.imm5))
  | 6 => when (d0 && b0 && s.imm5 / 4 == 0) (.gpark a band)
  | 7 => when (d0 && b0 && s.imm5 / 4 == 0) (.gunpark a band)
  | 8 => when (d0 && a0 && b0 && s.imm5 / 16 == 0) (.gwait (BitVec.ofNat 4 s.imm5))
  | 9 => when (d0 && b0 && i0) (.fmt a)
  | _ => none

/-- OPA (R101): NA 25, NB 24, Z 23, qa 20:18, qb 17:15, xk 14:10. -/
def decodeOpa (s : Short) : Option Instr :=
  when (s.d % 4 == 0 && s.f % 1024 == 0)
    (.opa (flag (s.d / 16)) (flag (s.d / 8 % 2)) (flag (s.d / 4 % 2)) (q8 (s.a / 4)) (q8 (s.a % 4 * 2 + s.b / 16))
      (reg (s.b % 16 * 2 + s.f / 1024)))

/-- Streams (R156). -/
def decodeStream (s : Short) : Option Instr :=
  let a := reg s.a
  let d0 := s.d == 0
  let b0 := s.b == 0
  let q := q8 s.imm5
  let q0 := s.imm5 / 8 == 0
  match s.fn6 with
  | 0 => when (d0 && b0 && q0) (.strmCfg q a)
  | 1 => when (d0 && q0) (.strmIdx q a (reg s.b))
  | 2 => when (d0 && b0 && q0) (.strmLink q a)
  | 3 => when (d0 && s.a == 0 && b0 && q0) (.strmStop q)
  | 4 => when (d0 && b0 && q0) (.strmSkip q a)
  | 5 => when (d0 && b0 && s.imm5 / 4 == 0) (.cbkLoad (Fin.ofNat 4 s.imm5) a)
  | _ => none

/-- Copies and interchange (R156). -/
def decodeCopy (s : Short) : Option Instr :=
  let a := reg s.a
  let d0 := s.d == 0
  let b0 := s.b == 0
  let c := q8 s.imm5
  let c0 := s.imm5 / 8 == 0
  match s.fn6 with
  | 0 => when (d0 && b0 && c0) (.cpy c a)
  | 1 => when (s.a == 0 && b0 && c0) (.cpyAbort (reg s.d) c)
  | 2 => when (d0 && b0 && c0) (.mileWait c a)
  | 3 => when (d0 && b0 && s.imm5 / 4 == 0) (.xfLoad (Fin.ofNat 4 s.imm5) a)
  | _ => none

/-- Synchronisation (R215, R333, R76). -/
def decodeSync (s : Short) : Option Instr :=
  let d := reg s.d
  let a := reg s.a
  let b := reg s.b
  let d0 := s.d == 0
  let a0 := s.a == 0
  let b0 := s.b == 0
  let i0 := s.imm5 == 0
  match s.fn6 with
  | 0 => when (d0 && i0) (.jctInit a b)
  | 1 => (Scope.ofCode s.imm5).bind fun sc => when d0 (.jctAdd a b sc)
  | 2 => (Scope.ofCode s.imm5).bind fun sc => some (.jctWait d a b sc)
  | 3 => (Scope.ofCode s.imm5).bind fun sc => when b0 (.jctTest d a sc)
  | 16 => when (d0 && b0 && i0) (.barJoin a)
  | 17 => when (b0 && i0) (.barArrive d a)
  | 18 => when i0 (.barWait d a b)
  | 19 => when (d0 && b0 && i0) (.barLeave a)
  | 20 => if i0 then when b0 (.barReset d a)
          else (Scope.ofCode (s.imm5 % 8)).bind fun sc => when (b0 && s.imm5 / 8 == 1) (.barResetI d a sc)
  | 32 => when i0 (.meetOpen d a b)
  | 33 => when i0 (.meetSlot d a b)
  | 34 => when i0 (.meetArrive d a b)
  | 35 => when i0 (.meetWait d a b)
  | 36 => when i0 (.meetRejoin d a b)
  | 37 => when (d0 && b0 && i0) (.meetClose a)
  | 48 => when (d0 && b0 && s.imm5 / 8 == 0) (.crossPost (q8 s.imm5) a)
  | 49 => when (a0 && b0 && s.imm5 / 8 == 0) (.crossTake d (q8 s.imm5))
  | _ => none

/-- Every one-word instruction. -/
def decodeShort (s : Short) : Option Instr :=
  match s.p with
  | 1 => decodeAlu s
  | 16 => decodeFp s
  | 17 => decodeMem s
  | 18 => decodeMem s
  | 19 => decodeMem s
  | 20 => decodeAtomic s
  | 21 => decodeAtomic s
  | 22 => decodeAtomic s
  | 32 => decodeSystem s
  | 33 => decodeWork s
  | 34 => decodeControl s
  | 35 => decodeOpa s
  | 36 => decodeStream s
  | 37 => decodeCopy s
  | 38 => decodeSync s
  | _ => if 24 ≤ s.p then decodeBranch s else decodeImm s

/-! Long forms (R321 to R323, R334). -/

/-- vc, word 1 bits 22:14. -/
def Long.vc (l : Long) : Nat := l.hi * 32 + l.xs

/-- The control fields of a form that rounds (R318, R319). -/
def Long.ctl (l : Long) : Option VCtl :=
  (Rounding.ofCode l.rm).bind fun r => some ⟨r, flag l.sat, flag l.mz, mreg l.mask⟩

/-- The control fields of a form in which rm and sat are no control. -/
def Long.pol (l : Long) : VPol := ⟨flag l.mz, mreg l.mask⟩

/-- The conversion of a drain or store (R374, R440): vd<6> is `.F`. -/
def Long.conv (l : Long) : Option VConv :=
  (ElemType.ofCode l.et).bind fun t => (Rounding.ofCode l.rm).bind fun r =>
    some ⟨t, flag (l.vd / 64 % 2), r, flag l.sat, mreg l.mask⟩

/-- Binds two views, three views. -/
def views2 (a b : Nat) (k : View → View → Option Instr) : Option Instr :=
  (View.ofCode a).bind fun va => (View.ofCode b).bind fun vb => k va vb

def views3 (a b c : Nat) (k : View → View → View → Option Instr) : Option Instr :=
  (View.ofCode a).bind fun va => (View.ofCode b).bind fun vb => (View.ofCode c).bind fun vc => k va vb vc

/-- Primary 0x38 (R430, R435). -/
def decodeV38 (l : Long) : Option Instr :=
  let s0 := l.sub == 0
  let b0 := l.vb == 0
  let c0 := l.vc == 0
  let r0 := l.rm == 0 && l.sat == 0
  match l.fn with
  | 0 => (FD.ofCode l.et).bind fun e => l.ctl.bind fun c => views3 l.vd l.va l.vb fun vd va vb =>
    when (s0 && c0) (.vadd e vd va vb c)
  | 1 => (FD.ofCode l.et).bind fun e => l.ctl.bind fun c => views3 l.vd l.va l.vb fun vd va vb =>
    when (s0 && c0) (.vsub e vd va vb c)
  | 2 => (FD.ofCode l.et).bind fun e => l.ctl.bind fun c => views3 l.vd l.va l.vb fun vd va vb =>
    when (s0 && c0) (.vmul e vd va vb c)
  | 3 => (FD.ofCode l.et).bind fun e => l.ctl.bind fun c => (FmaSub.ofCode l.sub).bind fun sub =>
    views3 l.vd l.va l.vb fun vd va vb => (View.ofCode l.vc).bind fun vc => some (.vfma sub e vd va vb vc c)
  | 4 => (FD.ofCode l.et).bind fun e => l.ctl.bind fun c => views3 l.vd l.va l.vb fun vd va vb =>
    when (s0 && c0) (.vdiv e vd va vb c)
  | 5 => (FD.ofCode l.et).bind fun e => l.ctl.bind fun c => views2 l.vd l.va fun vd va =>
    when (s0 && b0 && c0) (.vsqrt e vd va c)
  | 6 => l.ctl.bind fun c => views2 l.vd l.va fun vd va => when (s0 && b0 && c0 && l.et == 8) (.vrcp vd va c)
  | 7 => l.ctl.bind fun c => views2 l.vd l.va fun vd va => when (s0 && b0 && c0 && l.et == 8) (.vrsqrt vd va c)
  | 8 => l.ctl.bind fun c => views2 l.vd l.va fun vd va => when (s0 && b0 && c0 && l.et == 8) (.vexp2 vd va c)
  | 9 => l.ctl.bind fun c => views2 l.vd l.va fun vd va => when (s0 && b0 && c0 && l.et == 8) (.vlog2 vd va c)
  | 10 => l.ctl.bind fun c => views2 l.vd l.va fun vd va => when (s0 && b0 && c0 && l.et == 8) (.vtanh vd va c)
  | 11 => (FD.ofCode l.et).bind fun e => views3 l.vd l.va l.vb fun vd va vb =>
    when (s0 && c0 && r0) (.vmin e vd va vb l.pol)
  | 12 => (FD.ofCode l.et).bind fun e => views3 l.vd l.va l.vb fun vd va vb =>
    when (s0 && c0 && r0) (.vmax e vd va vb l.pol)
  | 13 => (FD.ofCode l.et).bind fun e => (SgnSub.ofCode l.sub).bind fun sub => views3 l.vd l.va l.vb fun vd va vb =>
    when (c0 && r0) (.vsgn sub e vd va vb l.pol)
  | 14 => (Et.ofCode l.et).bind fun e => l.ctl.bind fun c => (ElemType.ofCode l.hi).bind fun t =>
    views2 l.vd l.va fun vd va => when (s0 && b0 && l.xs == 0) (.vcvt t e vd va c)
  | _ => none

/-- Primary 0x39 (R431): et 13, rm zero. -/
def decodeV39 (l : Long) : Option Instr :=
  let ok := l.sub == 0 && l.vc == 0 && l.et == 13 && l.rm == 0
  let ok0 := ok && l.sat == 0
  views3 l.vd l.va l.vb fun vd va vb => match l.fn with
  | 0 => when ok (.viadd vd va vb (flag l.sat) l.pol)
  | 1 => when ok (.visub vd va vb (flag l.sat) l.pol)
  | 2 => when ok (.vimul vd va vb (flag l.sat) l.pol)
  | 3 => when ok0 (.vshl vd va vb l.pol)
  | 4 => when ok0 (.vshr vd va vb l.pol)
  | 5 => when ok0 (.vsra vd va vb l.pol)
  | 6 => when ok0 (.vand vd va vb l.pol)
  | 7 => when ok0 (.vor vd va vb l.pol)
  | 8 => when ok0 (.vxor vd va vb l.pol)
  | 9 => when ok0 (.vimin vd va vb l.pol)
  | 10 => when ok0 (.vimax vd va vb l.pol)
  | _ => none

/-- Primary 0x3A (R434, R439). -/
def decodeV3A (l : Long) : Option Instr :=
  let s0 := l.sub == 0
  let b0 := l.vb == 0
  let c0 := l.vc == 0
  let r0 := l.rm == 0 && l.sat == 0
  let m0 := l.mz == 0 && l.mask == 0
  (Et.ofCode l.et).bind fun e => match l.fn with
  | 0 => views2 l.vd l.va fun vd va => when (s0 && b0 && c0 && r0) (.vmv e vd va l.pol)
  | 1 => views3 l.vd l.va l.vb fun vd va vb =>
    when (s0 && r0 && l.vc / 8 == 0) (.vsel e vd va vb (mreg l.vc) l.pol)
  | 2 => views2 l.vd l.va fun vd va => (xOfCode l.vb).bind fun x =>
    when (s0 && c0 && r0) (.vbcast e vd va x l.pol)
  | 3 => (View.ofCode l.va).bind fun va => (xOfCode l.vb).bind fun x =>
    when (s0 && l.hi == 0 && r0 && m0 && l.vd == 0) (.vext e (reg l.xs) va x)
  | 4 => (View.ofCode l.vd).bind fun vd => (xOfCode l.vb).bind fun x =>
    when (s0 && l.hi == 0 && r0 && m0 && l.va == 0) (.vins e vd (reg l.xs) x)
  | 5 => views2 l.vd l.va fun vd va => (xOfCode l.vb).bind fun x =>
    when (l.sub ≤ 1 && c0 && r0) (.vslide (flag l.sub) e vd va x l.pol)
  | 6 => views3 l.vd l.va l.vb fun vd va vb => when (s0 && c0 && r0) (.vperm e vd va vb l.pol)
  | 7 => views2 l.vd l.va fun vd va => (RedOp.ofCode l.sub).bind fun op => (Rounding.ofCode l.rm).bind fun r =>
    when (b0 && c0 && l.mz == 0) (.vred op e vd va r (flag l.sat) (mreg l.mask))
  | 8 => views2 l.vd l.va fun vd va => (RedOp.ofCode l.sub).bind fun op => l.ctl.bind fun c =>
    when (b0 && c0) (.vscan op e vd va c)
  | _ => none

/-- Primary 0x3B (R436, R398). -/
def decodeV3B (l : Long) : Option Instr :=
  let s0 := l.sub == 0
  let vd0 := l.vd == 0
  let vd8 := l.vd / 8 == 0
  let va8 := l.va / 8 == 0
  let b0 := l.vb == 0
  let c0 := l.vc == 0
  let e0 := l.et == 0
  let r0 := l.rm == 0
  let sat0 := l.sat == 0
  match l.fn with
  | 0 => (VfCond.ofCode l.rm).bind fun c => (FD.ofCode l.et).bind fun e => views2 l.va l.vb fun va vb =>
    when (s0 && vd8 && c0 && sat0) (.vfcmp c e (mreg l.vd) va vb l.pol)
  | 1 => (ICond.ofCode l.rm).bind fun c => views2 l.va l.vb fun va vb =>
    when (s0 && vd8 && c0 && sat0 && l.et == 13) (.vicmp c (mreg l.vd) va vb l.pol)
  | 2 => (LogicOp.ofCode l.rm).bind fun o =>
    when (s0 && vd8 && va8 && l.vb / 8 == 0 && c0 && e0 && sat0) (.mlogic o (mreg l.vd) (mreg l.va) (mreg l.vb) l.pol)
  | 3 => when (s0 && vd8 && va8 && b0 && c0 && e0 && r0 && sat0 && l.mz == 0) (.mfirst (mreg l.vd) (mreg l.va) (mreg l.mask))
  | 4 => when (s0 && vd0 && va8 && b0 && l.hi == 0 && e0 && r0 && sat0 && l.mz == 0)
    (.mpopc (reg l.xs) (mreg l.va) (mreg l.mask))
  | 5 => when (s0 && vd0 && va8 && b0 && l.hi == 0 && e0 && r0 && sat0 && l.mz == 0)
    (.mfind (reg l.xs) (mreg l.va) (mreg l.mask))
  | 6 => (xOfCode l.vb).bind fun x =>
    when (s0 && vd0 && va8 && l.hi == 0 && e0 && r0 && sat0 && l.mz == 0 && l.mask == 0) (.mtox (reg l.xs) (mreg l.va) x)
  | 7 => (xOfCode l.vb).bind fun x =>
    when (s0 && vd8 && l.va == 0 && l.hi == 0 && e0 && r0 && sat0 && l.mz == 0 && l.mask == 0)
      (.mfromx (mreg l.vd) (reg l.xs) x)
  | _ => none

/-- Primary 0x3C (R437, R440). -/
def decodeV3C (l : Long) : Option Instr :=
  let s0 := l.sub == 0 && l.hi == 0
  let r0 := l.rm == 0 && l.sat == 0
  let xs := reg l.xs
  match l.fn with
  | 0 => (ElemType.ofCode l.et).bind fun t => (View.ofCode l.vd).bind fun vd => (xOfCode l.vb).bind fun x =>
    when (s0 && r0 && l.va == 0) (.vld t vd xs x l.pol)
  | 1 => (ElemType.ofCode l.et).bind fun t => views2 l.vd l.vb fun vd vo =>
    when (s0 && r0 && l.va == 0) (.vldx t vd xs vo l.pol)
  | 2 => (ElemType.ofCode l.et).bind fun t => (View.ofCode l.vd).bind fun vd => (xOfCode l.vb).bind fun x =>
    when (s0 && r0 && l.va == 0) (.vldff t vd xs x l.pol)
  | 3 => l.conv.bind fun cv => (View.ofCode l.va).bind fun va => (xOfCode l.vb).bind fun x =>
    when (s0 && l.vd / 256 == 0 && l.vd % 64 == 0 && l.mz == 0)
      (.vst va xs (if flag (l.vd / 128 % 2) then .scale x else .stride x) cv)
  | 4 => l.conv.bind fun cv => views2 l.va l.vb fun va vo =>
    when (s0 && l.vd / 128 == 0 && l.vd % 64 == 0 && l.mz == 0) (.vstx va xs vo cv)
  | _ => none

/-- GDRAIN's third address operand (R374): vd<7> is `.MX`, vd<5> is `.X`. -/
def Long.drainAddr (l : Long) : Option DrainAddr :=
  if flag (l.vd / 128 % 2) then if flag (l.vd / 32 % 2) then none else (xOfCode l.vb).bind fun x => some (.scale x)
  else if flag (l.vd / 32 % 2) then (View.ofCode l.vb).bind fun v => some (.index v)
  else (xOfCode l.vb).bind fun x => some (.stride x)

/-- Primary 0x3D (R432, R442, R157, R374, R378). -/
def decodeV3D (l : Long) : Option Instr :=
  let xs := reg l.xs
  let m0 := l.rm == 0 && l.sat == 0 && l.mz == 0 && l.mask == 0
  match l.fn with
  | 0 => (AmoOp.ofCode (l.rm * 2 + l.sat)).bind fun op => (ElemType.ofCode l.et).bind fun t =>
    (MemOrder.ofCode l.sub).bind fun o => (Scope.ofCode (l.hi / 2)).bind fun sc =>
    views3 l.vd l.va l.vb fun vd va vb => when (l.hi % 2 == 0) (.vatom op t o sc vd xs va vb l.pol)
  | 1 => (ICond.ofCode l.rm).bind fun c => (Scope.ofCode (l.hi / 2)).bind fun sc => views2 l.va l.vb fun va vb =>
    when (l.hi % 2 == 0 && l.sub ≤ 1 && l.vd / 256 == 0 && l.sat == 0 && l.mz == 0 && (l.et == 11 || l.et == 14))
      (.vwait c (flag l.sub) (l.et == 14) sc (mreg l.vd) (reg (l.vd / 8)) xs va vb (mreg l.mask))
  | 16 => (ElemType.ofCode l.et).bind fun t => (rowOfCode l.vd).bind fun row =>
    when (l.sub == 0 && l.va / 8 == 0 && l.vb == 0 && l.hi == 0 && m0) (.rowfill t row (Fin.ofNat 8 l.va) xs)
  | 17 => (rowOfCode l.va).bind fun row => (xOfCode l.vb).bind fun xj =>
    when (l.sub == 0 && l.vd / 8 == 0 && l.hi == 0 && l.et == 0 && m0) (.rowsend row (Fin.ofNat 8 l.vd) xs xj)
  | 18 => l.conv.bind fun cv => l.drainAddr.bind fun ad => (View.ofCode l.va).bind fun va =>
    when (l.sub == 0 && l.hi == 0 && l.vd / 256 == 0 && l.mz == 0) (.gdrain va xs ad (reg l.vd) cv)
  | 19 => (rowOfCode l.va).bind fun row => (xOfCode l.vb).bind fun xj =>
    when (l.sub == 0 && l.vd / 32 == 0 && l.hi == 0 && l.et == 13 && m0) (.gsave row (Fin.ofNat 32 l.vd) xs xj)
  | 20 => (rowOfCode l.vd).bind fun row => (xOfCode l.vb).bind fun xj =>
    when (l.sub == 0 && l.va / 32 == 0 && l.hi == 0 && l.et == 13 && m0) (.gload row (Fin.ofNat 32 l.va) xs xj)
  | _ => none

/-- Every long form: bits 1:0 of word 1 are zero (R318). -/
def decodeLong (l : Long) : Option Instr :=
  if l.z == 0 then
    match l.p with
    | 56 => decodeV38 l
    | 57 => decodeV39 l
    | 58 => decodeV3A l
    | 59 => decodeV3B l
    | 60 => decodeV3C l
    | 61 => decodeV3D l
    | _ => none
  else none

/-- The primaries whose instructions have two words, reserved ones included (R315, R317). -/
def isLong (w0 : Nat) : Bool := 48 ≤ w0 / 67108864 % 64

/-- The primaries R325 allocates. -/
def primaryUsed (p : Nat) : Bool :=
  (1 ≤ p && p ≤ 12) || (16 ≤ p && p ≤ 22) || (24 ≤ p && p ≤ 38) || (56 ≤ p && p ≤ 61)

/-- The instruction of a word, or of two words (R317): `w1` is looked at only where the primary is long. -/
def decodeWords (w0 w1 : Nat) : Except DecodeError Instr :=
  let p := w0 / 67108864 % 64
  if !primaryUsed p then .error (.reservedPrimary p)
  else match (if isLong w0 then decodeLong (Long.ofWords w0 w1) else decodeShort (Short.ofWord w0)) with
    | none => .error (.malformed p)
    | some i => if i.wf then .ok i else .error (.illFormed p)

/-- A word of four bytes, the least significant first (R1). -/
def wordOf (b0 b1 b2 b3 : Byte) : Nat := b0.toNat + 256 * b1.toNat + 65536 * b2.toNat + 16777216 * b3.toNat

/-- The instruction at the head of a byte list, and the bytes after it. -/
def decode : List Byte → Except DecodeError (Instr × List Byte)
  | b0 :: b1 :: b2 :: b3 :: rest =>
    let w0 := wordOf b0 b1 b2 b3
    if isLong w0 then
      match rest with
      | c0 :: c1 :: c2 :: c3 :: rest' =>
        match decodeWords w0 (wordOf c0 c1 c2 c3) with
        | .ok i => .ok (i, rest')
        | .error e => .error e
      | _ => .error .truncated
    else match decodeWords w0 0 with
      | .ok i => .ok (i, rest)
      | .error e => .error e
  | _ => .error .truncated

/-! The encoder, from the same tables. -/

def Short.enc (p d a b f : Nat) : List Nat := [(Short.mk p d a b f).word]

/-- R: fn in bits 10:0. -/
def encR (p f : Nat) (d a b : Reg) : List Nat := Short.enc p d.val a.val b.val f
/-- I and B: imm16. -/
def encI (p : Nat) (d a : Reg) (imm : BitVec 16) : List Nat := Short.enc p d.val a.val (imm.toNat / 2048) (imm.toNat % 2048)
/-- M and S: sz and imm13. -/
def encM (p d : Nat) (a : Reg) (sz : Nat) (imm : BitVec 13) : List Nat :=
  Short.enc p d a.val (sz * 4 + imm.toNat / 2048) (imm.toNat % 2048)
/-- A. -/
def encA (p aop : Nat) (d a b : Reg) (o : MemOrder) (sc : Scope) (z : Nat) : List Nat :=
  Short.enc p d.val a.val b.val (aop * 128 + o.code * 32 + sc.code * 4 + z)
/-- Y. -/
def encY (p fn : Nat) (d a b : Reg) (imm : Nat) : List Nat := Short.enc p d.val a.val b.val (fn * 32 + imm)
/-- Scalar FP: op, precision, rounding and variant. -/
def encF (op : Nat) (p : Prec) (d a b : Reg) (r v : Nat) : List Nat :=
  Short.enc 16 d.val a.val b.val (op + p.code * 16 + r * 32 + v * 256)
def encL (l : Long) : List Nat := [l.word0, l.word1]

/-- A long form that rounds. -/
def encV (p fn : Nat) (vd va : View) (sub vb vc et : Nat) (c : VCtl) : List Nat :=
  encL ⟨p, fn, vd.code, va.code, sub, vb, vc / 32, vc % 32, et, c.rm.code, c.sat.toNat, c.mz.toNat, c.mask.val, 0⟩
/-- A long form that does not. -/
def encP (p fn vd va sub vb vc et rm sat : Nat) (c : VPol) : List Nat :=
  encL ⟨p, fn, vd, va, sub, vb, vc / 32, vc % 32, et, rm, sat, c.mz.toNat, c.mask.val, 0⟩
/-- A long form whose result is no masked vector. -/
def encX (p fn vd va sub vb hi : Nat) (xs : Reg) (et rm : Nat) (mk : MReg) : List Nat :=
  encL ⟨p, fn, vd, va, sub, vb, hi, xs.val, et, rm, 0, 0, mk.val, 0⟩
/-- A drain or vector store. -/
def encS (p fn vd va vb : Nat) (xs : Reg) (c : VConv) : List Nat :=
  encL ⟨p, fn, vd + c.asFloat.toNat * 64, va, 0, vb, 0, xs.val, c.et.code, c.rm.code, c.sat.toNat, 0, c.mask.val, 0⟩

/-- The specifier of an x register. -/
def xCode (r : Reg) : Nat := 416 + r.val

/-- The words of an instruction; an event of the table has none. -/
def encode : Instr → List Nat
  | .add d a b => encR 1 0 d a b
  | .sub d a b => encR 1 1 d a b
  | .and d a b => encR 1 2 d a b
  | .or d a b => encR 1 3 d a b
  | .xor d a b => encR 1 4 d a b
  | .shl d a b => encR 1 5 d a b
  | .shr d a b => encR 1 6 d a b
  | .sra d a b => encR 1 7 d a b
  | .slt d a b => encR 1 8 d a b
  | .sltn d a b => encR 1 9 d a b
  | .min d a b => encR 1 10 d a b
  | .max d a b => encR 1 11 d a b
  | .minn d a b => encR 1 12 d a b
  | .maxn d a b => encR 1 13 d a b
  | .mul d a b => encR 1 16 d a b
  | .mulh d a b => encR 1 17 d a b
  | .mulhn d a b => encR 1 18 d a b
  | .div d a b => encR 1 20 d a b
  | .divn d a b => encR 1 21 d a b
  | .rem d a b => encR 1 22 d a b
  | .remn d a b => encR 1 23 d a b
  | .clz d a => encR 1 24 d a 0
  | .ctz d a => encR 1 25 d a 0
  | .popc d a => encR 1 26 d a 0
  | .sel d a b c => encR 1 (c.val * 64 + 28) d a b
  | .ext d a b => encR 1 29 d a b
  | .ins d a b => encR 1 30 d a b
  | .addi d a i => encI 2 d a i
  | .andi d a i => encI 3 d a i
  | .ori d a i => encI 4 d a i
  | .xori d a i => encI 5 d a i
  | .slti d a i => encI 6 d a i
  | .sltni d a i => encI 7 d a i
  | .shli d a i => Short.enc 8 d.val a.val 0 i.val
  | .shri d a i => Short.enc 9 d.val a.val 0 i.val
  | .srai d a i => Short.enc 10 d.val a.val 0 i.val
  | .lui d i => encI 11 d 0 i
  | .adpc d i => encI 12 d 0 i
  | .fadd p d a b r => encF 0 p d a b r.code 0
  | .fsub p d a b r => encF 1 p d a b r.code 0
  | .fmul p d a b r => encF 2 p d a b r.code 0
  | .fma p d a b r => encF 3 p d a b r.code 0
  | .fdiv p d a b r => encF 4 p d a b r.code 0
  | .fsqrt p d a r => encF 5 p d a 0 r.code 0
  | .fmin p d a b => encF 6 p d a b 0 0
  | .fmax p d a b => encF 7 p d a b 0 0
  | .fcmp p c d a b => encF 8 p d a b 0 c.code
  | .fcvt p k d a r => encF 9 p d a 0 r.code k.code
  | .fclass p d a => encF 10 p d a 0 0 0
  | .ld z d a i => encM 17 d.val a z.code i
  | .st z s a i => encM 18 s.val a z.code i
  | .pref wr a i => encM 19 wr.toNat a 0 i
  | .amoSwap d a b o sc z => encA 20 0 d a b o sc z.code
  | .amoAdd d a b o sc z => encA 20 1 d a b o sc z.code
  | .amoAnd d a b o sc z => encA 20 2 d a b o sc z.code
  | .amoOr d a b o sc z => encA 20 3 d a b o sc z.code
  | .amoXor d a b o sc z => encA 20 4 d a b o sc z.code
  | .amoMin d a b o sc z => encA 20 5 d a b o sc z.code
  | .amoMax d a b o sc z => encA 20 6 d a b o sc z.code
  | .amoMinn d a b o sc z => encA 20 7 d a b o sc z.code
  | .amoMaxn d a b o sc z => encA 20 8 d a b o sc z.code
  | .amoFadd d a b o sc p => encA 20 9 d a b o sc (p.code + 2)
  | .cas d a b o sc z => encA 21 0 d a b o sc z.code
  | .fence o sc => Short.enc 22 0 0 0 (o.code * 32 + sc.code * 4)
  | .beq a b i => encI 24 a b i
  | .bne a b i => encI 25 a b i
  | .blt a b i => encI 26 a b i
  | .bge a b i => encI 27 a b i
  | .bltn a b i => encI 28 a b i
  | .bgen a b i => encI 29 a b i
  | .jal d i => Short.enc 30 d.val (i.toNat / 65536) (i.toNat / 2048 % 32) (i.toNat % 2048)
  | .jalr d a i => encI 31 d a i
  | .sysrd d n => Short.enc 32 d.val 0 (n.val / 32 % 32) (n.val / 1024 * 32 + n.val % 32)
  | .syswr n a => Short.enc 32 0 a.val (n.val / 32 % 32) ((4 + n.val / 1024) * 32 + n.val % 32)
  | .trap a c => encY 32 8 0 a 0 c.val
  | .trapAck => encY 32 9 0 0 0 0
  | .trapRet => encY 32 10 0 0 0 0
  | .brk => encY 32 11 0 0 0 0
  | .cflush a => encY 32 16 0 a 0 0
  | .tlbinv a b m => encY 32 17 0 a b m.code
  | .traceMark a => encY 32 18 0 a 0 0
  | .freeze d a => encY 32 24 d a 0 0
  | .thaw d a => encY 32 25 d a 0 0
  | .thawV d a => encY 32 25 d a 0 1
  | .imgSave d a b => encY 32 26 d a b 0
  | .imgLoad d a b => encY 32 27 d a b 0
  | .spawn d a b p => encY 33 0 d a b p.code
  | .cont a b => encY 33 1 0 a b 0
  | .exit => encY 33 2 0 0 0 0
  | .yield n => encY 33 3 0 0 0 n.val
  | .launch d a => encY 33 4 d a 0 0
  | .trigger => encY 33 5 0 0 0 0
  | .setvl d a => encY 34 0 d a 0 0
  | .setvlAdv d a => encY 34 1 d a 0 0
  | .lanes d a => encY 34 2 d a 0 0
  | .gclaim d b c => encY 34 3 d 0 0 (c.val * 4 + b.val)
  | .gclaimT d b c => encY 34 3 d 0 0 (16 + c.val * 4 + b.val)
  | .grelease => encY 34 4 0 0 0 0
  | .gzero m => encY 34 5 0 0 0 m.toNat
  | .gpark a b => encY 34 6 0 a 0 b.val
  | .gunpark a b => encY 34 7 0 a 0 b.val
  | .gwait m => encY 34 8 0 0 0 m.toNat
  | .fmt a => encY 34 9 0 a 0 0
  | .opa na nb z qa qb k => Short.enc 35 (na.toNat * 16 + nb.toNat * 8 + z.toNat * 4) (qa.val * 4 + qb.val / 2)
      (qb.val % 2 * 16 + k.val / 2) (k.val % 2 * 1024)
  | .strmCfg q a => encY 36 0 0 a 0 q.val
  | .strmIdx q a b => encY 36 1 0 a b q.val
  | .strmLink q a => encY 36 2 0 a 0 q.val
  | .strmStop q => encY 36 3 0 0 0 q.val
  | .strmSkip q a => encY 36 4 0 a 0 q.val
  | .cbkLoad s a => encY 36 5 0 a 0 s.val
  | .cpy c a => encY 37 0 0 a 0 c.val
  | .cpyAbort d c => encY 37 1 d 0 0 c.val
  | .mileWait c a => encY 37 2 0 a 0 c.val
  | .xfLoad s a => encY 37 3 0 a 0 s.val
  | .jctInit a b => encY 38 0 0 a b 0
  | .jctAdd a b sc => encY 38 1 0 a b sc.code
  | .jctWait d a b sc => encY 38 2 d a b sc.code
  | .jctTest d a sc => encY 38 3 d a 0 sc.code
  | .barJoin a => encY 38 16 0 a 0 0
  | .barArrive d a => encY 38 17 d a 0 0
  | .barWait d a b => encY 38 18 d a b 0
  | .barLeave a => encY 38 19 0 a 0 0
  | .barReset d a => encY 38 20 d a 0 0
  | .barResetI d a sc => encY 38 20 d a 0 (8 + sc.code)
  | .meetOpen d a b => encY 38 32 d a b 0
  | .meetSlot d a b => encY 38 33 d a b 0
  | .meetArrive d a b => encY 38 34 d a b 0
  | .meetWait d a b => encY 38 35 d a b 0
  | .meetRejoin d a b => encY 38 36 d a b 0
  | .meetClose a => encY 38 37 0 a 0 0
  | .crossPost k a => encY 38 48 0 a 0 k.val
  | .crossTake d k => encY 38 49 d 0 0 k.val
  | .vadd e vd va vb c => encV 56 0 vd va 0 vb.code 0 e.code c
  | .vsub e vd va vb c => encV 56 1 vd va 0 vb.code 0 e.code c
  | .vmul e vd va vb c => encV 56 2 vd va 0 vb.code 0 e.code c
  | .vfma s e vd va vb vc c => encV 56 3 vd va s.code vb.code vc.code e.code c
  | .vdiv e vd va vb c => encV 56 4 vd va 0 vb.code 0 e.code c
  | .vsqrt e vd va c => encV 56 5 vd va 0 0 0 e.code c
  | .vrcp vd va c => encV 56 6 vd va 0 0 0 8 c
  | .vrsqrt vd va c => encV 56 7 vd va 0 0 0 8 c
  | .vexp2 vd va c => encV 56 8 vd va 0 0 0 8 c
  | .vlog2 vd va c => encV 56 9 vd va 0 0 0 8 c
  | .vtanh vd va c => encV 56 10 vd va 0 0 0 8 c
  | .vmin e vd va vb p => encP 56 11 vd.code va.code 0 vb.code 0 e.code 0 0 p
  | .vmax e vd va vb p => encP 56 12 vd.code va.code 0 vb.code 0 e.code 0 0 p
  | .vsgn s e vd va vb p => encP 56 13 vd.code va.code s.code vb.code 0 e.code 0 0 p
  | .vcvt t e vd va c => encV 56 14 vd va 0 0 (t.code * 32) e.code c
  | .viadd vd va vb s p => encP 57 0 vd.code va.code 0 vb.code 0 13 0 s.toNat p
  | .visub vd va vb s p => encP 57 1 vd.code va.code 0 vb.code 0 13 0 s.toNat p
  | .vimul vd va vb s p => encP 57 2 vd.code va.code 0 vb.code 0 13 0 s.toNat p
  | .vshl vd va vb p => encP 57 3 vd.code va.code 0 vb.code 0 13 0 0 p
  | .vshr vd va vb p => encP 57 4 vd.code va.code 0 vb.code 0 13 0 0 p
  | .vsra vd va vb p => encP 57 5 vd.code va.code 0 vb.code 0 13 0 0 p
  | .vand vd va vb p => encP 57 6 vd.code va.code 0 vb.code 0 13 0 0 p
  | .vor vd va vb p => encP 57 7 vd.code va.code 0 vb.code 0 13 0 0 p
  | .vxor vd va vb p => encP 57 8 vd.code va.code 0 vb.code 0 13 0 0 p
  | .vimin vd va vb p => encP 57 9 vd.code va.code 0 vb.code 0 13 0 0 p
  | .vimax vd va vb p => encP 57 10 vd.code va.code 0 vb.code 0 13 0 0 p
  | .vmv e vd va p => encP 58 0 vd.code va.code 0 0 0 e.code 0 0 p
  | .vsel e vd va vb ms p => encP 58 1 vd.code va.code 0 vb.code ms.val e.code 0 0 p
  | .vbcast e vd va x p => encP 58 2 vd.code va.code 0 (xCode x) 0 e.code 0 0 p
  | .vext e xd va x => encX 58 3 0 va.code 0 (xCode x) 0 xd e.code 0 0
  | .vins e vd xs x => encX 58 4 vd.code 0 0 (xCode x) 0 xs e.code 0 0
  | .vslide dn e vd va x p => encP 58 5 vd.code va.code dn.toNat (xCode x) 0 e.code 0 0 p
  | .vperm e vd va vb p => encP 58 6 vd.code va.code 0 vb.code 0 e.code 0 0 p
  | .vred op e vd va r s mk => encP 58 7 vd.code va.code op.code 0 0 e.code r.code s.toNat ⟨false, mk⟩
  | .vscan op e vd va c => encV 58 8 vd va op.code 0 0 e.code c
  | .vfcmp c e md va vb p => encP 59 0 md.val va.code 0 vb.code 0 e.code c.code 0 p
  | .vicmp c md va vb p => encP 59 1 md.val va.code 0 vb.code 0 13 c.code 0 p
  | .mlogic o md ma mb p => encP 59 2 md.val ma.val 0 mb.val 0 0 o.code 0 p
  | .mfirst md ma mk => encX 59 3 md.val ma.val 0 0 0 0 0 0 mk
  | .mpopc xd ma mk => encX 59 4 0 ma.val 0 0 0 xd 0 0 mk
  | .mfind xd ma mk => encX 59 5 0 ma.val 0 0 0 xd 0 0 mk
  | .mtox xd ma xh => encX 59 6 0 ma.val 0 (xCode xh) 0 xd 0 0 0
  | .mfromx md xs xh => encX 59 7 md.val 0 0 (xCode xh) 0 xs 0 0 0
  | .vld t vd xs xr p => encP 60 0 vd.code 0 0 (xCode xr) xs.val t.code 0 0 p
  | .vldx t vd xs vo p => encP 60 1 vd.code 0 0 vo.code xs.val t.code 0 0 p
  | .vldff t vd xs xr p => encP 60 2 vd.code 0 0 (xCode xr) xs.val t.code 0 0 p
  | .vst va xs (.stride r) c => encS 60 3 0 va.code (xCode r) xs c
  | .vst va xs (.scale r) c => encS 60 3 128 va.code (xCode r) xs c
  | .vstx va xs vo c => encS 60 4 0 va.code vo.code xs c
  | .vatom op t o sc vd xs va vb p =>
      encP 61 0 vd.code va.code o.code vb.code (sc.code * 64 + xs.val) t.code (op.code / 2) (op.code % 2) p
  | .vwait c all wide sc md xt xs va vb mk =>
      encX 61 1 (xt.val * 8 + md.val) va.code all.toNat vb.code (sc.code * 2) xs (if wide then 14 else 11) c.code mk
  | .rowfill t row n xs => encX 61 16 row.val n.val 0 0 0 xs t.code 0 0
  | .rowsend row n xs xj => encX 61 17 n.val row.val 0 (xCode xj) 0 xs 0 0 0
  | .gdrain va xs (.stride r) xj c => encS 61 18 xj.val va.code (xCode r) xs c
  | .gdrain va xs (.scale r) xj c => encS 61 18 (128 + xj.val) va.code (xCode r) xs c
  | .gdrain va xs (.index v) xj c => encS 61 18 (32 + xj.val) va.code v.code xs c
  | .gsave row n xs xj => encX 61 19 n.val row.val 0 (xCode xj) 0 xs 13 0 0
  | .gload row n xs xj => encX 61 20 row.val n.val 0 (xCode xj) 0 xs 13 0 0
  | .lqtailWrite _ _ => []
  | .deviceRegisterWrite _ => []
  | .queueRecordRead _ => []
  | .launchStart _ => []
  | .expanderPush _ _ => []
  | .tripStart _ _ => []
  | .gangStart _ _ => []
  | .agingThreshold _ => []
  | .spillReturn _ => []
  | .launchComplete _ => []
  | .stewardWriteRetry _ => []
  | .stewardWriteDiscard _ => []
  | .gridCommandEnter _ _ => []
  | .opaComplete _ _ => []
  | .opaArithTrap _ _ => []
  | .gzeroComplete _ _ => []
  | .gparkComplete _ _ => []
  | .gunparkComplete _ _ => []
  | .rowfillComplete _ _ => []
  | .gdrainComplete _ _ => []
  | .gsaveComplete _ _ => []
  | .gloadComplete _ _ => []
  | .rowsendArrival _ _ => []
  | .rowsendComplete _ _ => []
  | .copyStart _ _ => []
  | .copyTransfer _ _ _ => []
  | .copyComplete _ _ => []
  | .cpyQueueRoom _ _ => []
  | .streamRefill _ _ => []
  | .linkFlitArrival _ _ => []
  | .graphBlock _ _ => []
  | .xfLoadInstall _ _ => []
  | .offloadTargetFull _ _ _ => []
  | .cxlRetrainFail _ => []
  | .loadResponse _ _ => []
  | .crossTakeWake _ _ => []
  | .crossPostWake _ _ => []
  | .gclaimGrant _ _ => []
  | .barWaitReturn _ _ => []
  | .barArriveNextPhase _ _ => []
  | .jctWaitReturn _ _ => []
  | .mileWaitReturn _ _ => []
  | .meetArriveReclassify _ _ => []
  | .meetCombine _ => []
  | .meetSlotReturn _ _ => []
  | .meetWaitReturn _ _ => []
  | .meetCloseNotice _ => []
  | .vwaitReevaluate _ _ _ => []
  | .vwaitTimeout _ _ => []
  | .yieldEnd _ _ => []
  | .engineRecordDelivery _ _ => []
  | .stewardKillTrip _ _ => []
  | .stewardThawEscalated _ _ => []
  | .pageWalk _ _ _ _ => []
  | .dbgctlHalt _ _ => []
  | .dbgctlResume _ _ => []
  | .dbgctlStep _ _ => []
  | .trackHalt _ _ => []
  | .gangHaltRequest _ _ => []
  | .dregdataRead _ => []
  | .dregdataWrite _ _ => []
  | .lagctlClear _ => []
  | .samplerTick _ => []
  | .traceWindowStop _ => []
  | .tracePortDropReport _ => []
  | .sctlRunSet _ => []
  | .sctlRunClear _ => []
  | .watchdogKick _ => []
  | .watchdogExpire _ => []
  | .ssyncWrite _ _ => []
  | .slcapWrite _ _ => []
  | .powerSample _ => []
  | .powerThrottleLift => []
  | .thermalSense _ _ => []
  | .thermalCapLift _ => []
  | .thermalTrip _ => []
  | .moduleReset => []
  | .errorReport _ _ => []
  | .targetedUnitTest _ _ => []
  | .coreRemoval _ => []
  | .freezeArrival _ => []
  | .imageSeal _ => []
  | .sealTimeout _ => []
  | .holdNotice _ _ => []
  | .holdAck _ _ => []
  | .releaseNotice _ _ => []
  | .frozenCoreRetry _ _ => []
  | .imageEngineStart _ => []
  | .imageSaveComplete _ => []
  | .imageLoadComplete _ => []
  | .imageCommandPause _ => []
  | .lesanRead _ => []
  | .lesanReadData _ => []
  | .lesanWrite _ => []
  | .lesanWriteAck _ => []
  | .lesanAtomic _ => []
  | .lesanAtomicResult _ => []
  | .lesanMeetingArrival _ => []
  | .lesanMeetingStatus _ => []
  | .lesanMeetingResult _ => []
  | .lesanAcceptLimitNotice _ => []
  | .lesanAckOnly _ => []
  | .lesanRetransmit _ => []
  | .lesanConnectionDown _ => []
  | .ethernetFrameDrop _ => []
  | .gridEngineTransfer _ _ => []
  | .cbkLoadComplete _ _ => []
  | .linkCreditReturn _ _ => []
  | .clockCycle => []
  | .debugAccessTimeout _ => []
  | .hostMemoryAccess _ => []
  | .cxlFlushAck _ _ => []

/-- The bytes of words, each least significant byte first (R1, R315). -/
def wordBytes (w : Nat) : List Byte := [BitVec.ofNat 8 w, BitVec.ofNat 8 (w / 256), BitVec.ofNat 8 (w / 65536),
  BitVec.ofNat 8 (w / 16777216)]

/-- The bytes of an instruction as memory holds them. -/
def encodeBytes (i : Instr) : List Byte := (encode i).flatMap wordBytes

/-- Whether the row of the opcode table is an instruction that a track fetches. -/
def Instr.hasWord (i : Instr) : Bool := encode i != []

/-- The instruction of an opcode-table word: bit 0 is the least significant bit of the first word; the words beyond
`nbits` are zero. -/
def decodeTableWord (nbits w : Nat) : Option Instr :=
  let v := w % 2 ^ nbits
  match decode (wordBytes v ++ wordBytes (v / 4294967296)) with
  | .ok (i, _) => some i
  | .error _ => none

end Sys2Proof
end

