-- ==== Sys2Proof/Machine/Real.lean ====
section
/-!
DEFINITION. Exact numbers (R8): the dyadic rationals the machine computes with before it rounds, and the functions whose
values are irrational, given to far more bits than any rounding looks at with a last bit that stands for the rest.
-/
namespace Sys2Proof.Machine

/-- The dyadic rational `(-1)^neg * mant * 2^exp`; `mant = 0` is a zero of that sign. -/
structure Dy where
  neg : Bool
  mant : Nat
  exp : Int
deriving DecidableEq, Repr

/-- An exact value: NaN, a signed infinity, or a number with a signed zero (R117). -/
inductive Num
  | nan
  | inf (neg : Bool)
  | fin (d : Dy)
deriving DecidableEq, Repr

/-- The number 2^n. -/
def pow2 (n : Nat) : Nat := 2 ^ n

/-- `m * 2^k` for `k ≥ 0`, and `floor (m / 2^-k)` otherwise. -/
def shiftInt (m : Nat) (k : Int) : Nat :=
  if 0 ≤ k then m <<< k.toNat else m >>> (-k).toNat

/-- `floor (log2 |d|)` of a nonzero dyadic. -/
def Dy.log2 (d : Dy) : Int := d.exp + (Nat.log2 d.mant : Int)

/-- The signed mantissa. -/
def Dy.signed (d : Dy) : Int := if d.neg then -(d.mant : Int) else (d.mant : Int)

/-- The dyadic of a signed mantissa; a zero is +0. -/
def Dy.ofSigned (z : Int) (e : Int) : Dy := ⟨z < 0, z.natAbs, e⟩

/-- The dyadic of an integer; 0 is +0. -/
def Dy.ofInt (z : Int) : Dy := Dy.ofSigned z 0

/-- Brings two dyadics to the lower of their exponents. -/
def Dy.align (a b : Dy) : Int × Int × Int :=
  let e := if a.exp ≤ b.exp then a.exp else b.exp
  (a.signed * (pow2 (a.exp - e).toNat : Int), b.signed * (pow2 (b.exp - e).toNat : Int), e)

/-- `a < b` as real numbers. -/
def Dy.lt (a b : Dy) : Bool := let (x, y, _) := a.align b; decide (x < y)

/-- `a = b` as real numbers (+0 equals -0). -/
def Dy.eqv (a b : Dy) : Bool := let (x, y, _) := a.align b; decide (x = y)

/-- The exact product; the sign is the exclusive-or of the signs, of a zero too (R117). -/
def Dy.mul (a b : Dy) : Dy := ⟨a.neg != b.neg, a.mant * b.mant, a.exp + b.exp⟩

/-- The exact sum, with the sign of a zero sum as R117 fixes it: the common sign of two zeros of one sign, else -0
under RDN and +0 under every other mode. -/
def Dy.add (rdn : Bool) (a b : Dy) : Dy :=
  let (x, y, e) := a.align b
  let s := x + y
  if s = 0 then
    if a.mant = 0 ∧ b.mant = 0 ∧ a.neg = b.neg then ⟨a.neg, 0, 0⟩ else ⟨rdn, 0, 0⟩
  else Dy.ofSigned s e

/-- The dyadic of the other sign. -/
def Dy.negate (a : Dy) : Dy := ⟨!a.neg, a.mant, a.exp⟩

/-- A number known to lie strictly between `m` and `m + 1` in units of `2^e` when `inexact`, and to be `m` otherwise:
the odd mantissa of twice the precision stands for it in every rounding that looks no finer. -/
def sticky (neg inexact : Bool) (m : Nat) (e : Int) : Dy := ⟨neg, 2 * m + inexact.toNat, e - 1⟩

/-- Integer square root, rounded down, one bit a step from bit `k` down. -/
def isqrtGo (n : Nat) : Nat → Nat → Nat
  | 0, r => r
  | k + 1, r =>
    let r' := r + pow2 k
    isqrtGo n k (if r' * r' ≤ n then r' else r)

def isqrt (n : Nat) : Nat := isqrtGo n (Nat.log2 n / 2 + 1) 0

/-- The quotient of nonzero dyadics, to 256 bits and a sticky bit. -/
def Dy.div (a b : Dy) : Dy :=
  let n := a.mant * pow2 (256 + Nat.log2 b.mant)
  sticky (a.neg != b.neg) (decide (n % b.mant ≠ 0)) (n / b.mant) (a.exp - b.exp - (256 + Nat.log2 b.mant : Nat))

/-- The square root of a positive dyadic, to at least 256 bits and a sticky bit. -/
def Dy.sqrt (a : Dy) : Dy :=
  let odd : Nat := (a.exp % 2).toNat
  let n := a.mant * pow2 (512 + odd)
  let r := isqrt n
  sticky false (decide (r * r ≠ n)) r ((a.exp - odd) / 2 - 256)

/-- `1 / sqrt a` of a positive dyadic. -/
def Dy.rsqrt (a : Dy) : Dy :=
  let odd : Nat := (a.exp % 2).toNat
  let m := a.mant * pow2 odd
  let k := 512 + 2 * Nat.log2 m
  let r := isqrt (pow2 k / m)
  sticky false (decide (m * (r * r) ≠ pow2 k)) r (-((a.exp - odd) / 2) - (k / 2 : Nat))

/-! Irrational functions, in fixed point with `fracBits` fraction bits. Each result is within `2^-(fracBits - 24)` of the
true value; the low 32 bits are dropped and replaced by one sticky bit (log entry 4). -/

def fracBits : Nat := 1024

def fixOne : Nat := pow2 fracBits

/-- `sum of z^(2k+1) / (2k+1)`: the inverse hyperbolic tangent of `z`, `z ≤ 1/3`. -/
def atanhGo (z2 : Nat) : Nat → Nat → Nat → Nat → Nat
  | 0, _, _, acc => acc
  | fuel + 1, term, k, acc => atanhGo z2 fuel (term * z2 / fixOne) (k + 2) (acc + term / k)

def atanhFix (z : Nat) : Nat := atanhGo (z * z / fixOne) 340 z 1 0

/-- The natural logarithm of 2. -/
def ln2Fix : Nat := 2 * atanhFix (fixOne / 3)

/-- `sum of x^k / k!` for `x` in [0, 1). -/
def expGo (x : Nat) : Nat → Nat → Nat → Nat → Nat
  | 0, _, _, acc => acc
  | fuel + 1, term, k, acc => expGo x fuel (term * x / fixOne / k) (k + 1) (acc + term)

/-- `2^f` for a fraction `f` in [0, 1), in fixed point. -/
def exp2Frac (f : Nat) : Nat := expGo (f * ln2Fix / fixOne) 180 fixOne 1 0

/-- The number `m * 2^-fracBits`, which is known to within `2^32` units, as a sticky dyadic. -/
def fixDy (neg : Bool) (m : Nat) (scale : Int) : Dy := sticky neg true (m >>> 32) (scale - fracBits + 32)

/-- `2^a` of a dyadic `a` (R129): exact for an integer, and beyond ±1100 a value of that size. -/
def Dy.exp2 (a : Dy) : Dy :=
  if a.mant = 0 then ⟨false, 1, 0⟩
  else if 11 ≤ a.log2 then
    if a.neg then ⟨false, 3, -2050⟩ else ⟨false, 3, 2048⟩
  else
    let z := a.signed
    let n : Int := if 0 ≤ a.exp then z * (pow2 a.exp.toNat : Int) else z / (pow2 (-a.exp).toNat : Int)
    let r : Nat := if 0 ≤ a.exp then 0 else (z % (pow2 (-a.exp).toNat : Int)).toNat
    if r = 0 then ⟨false, 1, n⟩
    else fixDy false (exp2Frac (shiftInt r (a.exp + fracBits))) n

/-- `log2 a` of a positive dyadic (R129): exact for a power of two. -/
def Dy.log2Real (a : Dy) : Dy :=
  let k := Nat.log2 a.mant
  let e : Int := a.exp + k
  if a.mant = pow2 k then Dy.ofInt e
  else
    let m := shiftInt a.mant ((fracBits : Int) - k)
    let l := 2 * atanhFix ((m - fixOne) * fixOne / (m + fixOne)) * fixOne / ln2Fix
    let v : Int := e * (fixOne : Int) + l
    if 0 ≤ v then fixDy false v.natAbs 0
    else sticky true true ((v.natAbs - 1) >>> 32) (32 - (fracBits : Int))

/-- `tanh a` of a nonzero dyadic (R129). -/
def Dy.tanh (a : Dy) : Dy :=
  if 8 ≤ a.log2 then ⟨a.neg, pow2 600 - 1, -600⟩
  else
    let y := shiftInt a.mant (a.exp + 1 + fracBits)
    let t := y * fixOne / ln2Fix
    let n := t / fixOne
    let f := t % fixOne
    -- e^(-2|a|) = 2^-(n+f)
    let ex := (fixOne * fixOne / exp2Frac f) >>> n
    fixDy a.neg ((fixOne - ex) * fixOne / (fixOne + ex)) 0

end Sys2Proof.Machine
end

