-- ==== Sys2Proof/Machine/Flags.lean ====
section
/-!
DEFINITION. Number formats, the one rounding function, and every flag computation (R109 to R131).
-/
namespace Sys2Proof.Machine

/-- The six flags of ARITH, in the order of its bits 4 to 9 (R113, R115). -/
structure Flags where
  nv : Bool := false
  dz : Bool := false
  of : Bool := false
  uf : Bool := false
  nx : Bool := false
  sf : Bool := false
deriving DecidableEq, Repr

/-- Two sets of flags ORed. -/
def Flags.or (a b : Flags) : Flags :=
  ⟨a.nv || b.nv, a.dz || b.dz, a.of || b.of, a.uf || b.uf, a.nx || b.nx, a.sf || b.sf⟩

/-- The flags at bits 9:4 of ARITH (R113). -/
def Flags.toArith (f : Flags) : BitVec 64 :=
  BitVec.ofNat 64 (16 * f.nv.toNat + 32 * f.dz.toNat + 64 * f.of.toNat + 128 * f.uf.toNat + 256 * f.nx.toNat
    + 512 * f.sf.toNat)

/-- Float encodings: the float element types and the two grid encodings (R78, R109). -/
inductive FloatFmt | e2m1 | e4m3 | e5m2 | fp16 | bf16 | fp32 | fp64 | acc40 | acc80
deriving DecidableEq, Repr

/-- Precision in bits, the implicit bit included (R109, R78). -/
def FloatFmt.p : FloatFmt → Nat
  | .e2m1 => 2 | .e4m3 => 4 | .e5m2 => 3 | .fp16 => 11 | .bf16 => 8 | .fp32 => 24 | .fp64 => 53 | .acc40 => 32
  | .acc80 => 69

/-- Exponent field bits (R109, R78). -/
def FloatFmt.ebits : FloatFmt → Nat
  | .e2m1 => 2 | .e4m3 => 4 | .e5m2 => 5 | .fp16 => 5 | .bf16 => 8 | .fp32 => 8 | .fp64 => 11 | .acc40 => 8
  | .acc80 => 11

/-- Exponent of the smallest normal value (R109, R78). -/
def FloatFmt.emin : FloatFmt → Int
  | .e2m1 => 0 | .e4m3 => -6 | .e5m2 => -14 | .fp16 => -14 | .bf16 => -126 | .fp32 => -126 | .fp64 => -1022
  | .acc40 => -126 | .acc80 => -1022

/-- Encoding width in bits. -/
def FloatFmt.width (f : FloatFmt) : Nat := f.p + f.ebits

/-- Encoding of the largest finite magnitude (R109). -/
def FloatFmt.maxEnc (f : FloatFmt) : Nat :=
  match f with
  | .e2m1 => 7
  | .e4m3 => 0x7E
  | f => (pow2 f.ebits - 1) * pow2 (f.p - 1) - 1

/-- Encoding of +infinity where the format has one (R109). -/
def FloatFmt.infEnc (f : FloatFmt) : Nat := (pow2 f.ebits - 1) * pow2 (f.p - 1)

/-- Encoding of the canonical NaN (R109, R111); FP4 E2M1 has none and R117 gives +0. -/
def FloatFmt.nanEnc (f : FloatFmt) : Nat :=
  match f with
  | .e2m1 => 0
  | .e4m3 => 0x7F
  | f => f.infEnc + pow2 (f.p - 2)

/-- The sign bit of an encoding. -/
def FloatFmt.signBit (f : FloatFmt) (neg : Bool) : Nat := if neg then pow2 (f.width - 1) else 0

/-- The value of an encoding (R78, R109, R111). -/
def FloatFmt.value (f : FloatFmt) (w : Nat) : Num :=
  let neg := w.testBit (f.width - 1)
  let mag := w % pow2 (f.width - 1)
  let e := mag / pow2 (f.p - 1)
  let fr := mag % pow2 (f.p - 1)
  if f = .e4m3 ∧ mag = 0x7F then .nan
  else if f ≠ .e2m1 ∧ f ≠ .e4m3 ∧ e = pow2 f.ebits - 1 then (if fr = 0 then .inf neg else .nan)
  else if e = 0 then .fin ⟨neg, fr, f.emin - (f.p - 1 : Nat)⟩
  else .fin ⟨neg, pow2 (f.p - 1) + fr, f.emin + (e : Int) - f.p⟩

/-- What an element type is to Round (R109). -/
inductive Kind
  | float (f : FloatFmt)
  | int (bits : Nat) (signed : Bool)
  | codebook
  | raw
deriving DecidableEq, Repr

def elemKind : ElemType → Kind
  | .int8 => .int 8 true | .uint8 => .int 8 false | .int4 => .int 4 true
  | .e2m1 => .float .e2m1 | .e4m3 => .float .e4m3 | .e5m2 => .float .e5m2
  | .fp16 => .float .fp16 | .bf16 => .float .bf16 | .fp32 => .float .fp32 | .fp64 => .float .fp64
  | .int16 => .int 16 true | .int32 => .int 32 true | .k8 => .codebook | .acc40 => .raw | .int64 => .int 64 true

/-- Bits an element takes in memory (R109, R110). -/
def elemBits : ElemType → Nat
  | .int4 => 4 | .e2m1 => 4
  | .int8 => 8 | .uint8 => 8 | .e4m3 => 8 | .e5m2 => 8
  | .fp16 => 16 | .bf16 => 16 | .int16 => 16 | .k8 => 16
  | .fp32 => 32 | .int32 => 32 | .acc40 => 40 | .fp64 => 64 | .int64 => 64

/-- Element size in whole bytes; 1 for the 4-bit types (R110). -/
def elemBytes (t : ElemType) : Nat := (elemBits t + 7) / 8

/-- How Round rounds one value: a mode that is not `dyn`, and for SR the low 32 bits of SRBits (R112, R120). -/
structure RCtx where
  rm : Rounding
  rand : Nat
deriving DecidableEq, Repr

/-- RNE, for the roundings that name no mode. -/
def RCtx.rne : RCtx := ⟨.rne, 0⟩

/-- The multiple of `2^q` to which `mant * 2^exp` rounds under the mode (R117), and whether it differs. A value far below
one unit is replaced by another far below it, so that no shift is larger than it need be. -/
def roundMant (c : RCtx) (neg : Bool) (mant : Nat) (exp q : Int) : Nat × Bool :=
  if q ≤ exp then (mant <<< (exp - q).toNat, false)
  else
    let k0 := (q - exp).toNat
    let (m, k) := if mant ≠ 0 ∧ Nat.log2 mant + 70 < k0 then (1, 70) else (mant, k0)
    let n := m >>> k
    let r := m % pow2 k
    let half := pow2 (k - 1)
    let up : Bool := match c.rm with
      | .rtz => false
      | .rdn => neg
      | .rup => !neg
      | .rna => decide (half ≤ r)
      | .sr => decide (pow2 (k + 32) ≤ r * pow2 32 + c.rand * pow2 k)
      | .rne => decide (half < r) || (decide (r = half) && decide (n % 2 = 1))
      | .dyn => decide (half < r) || (decide (r = half) && decide (n % 2 = 1))
    if r = 0 then (n, false) else (n + up.toNat, true)

/-- Whether the mode rounds away from zero at an overflow (R118). -/
def RCtx.away (c : RCtx) (neg : Bool) : Bool :=
  match c.rm with
  | .rtz => false
  | .rdn => neg
  | .rup => !neg
  | _ => true

/-- Overflow (R118): `input` marks an infinite operand value. -/
def overflow (c : RCtx) (f : FloatFmt) (sat neg input : Bool) : Nat × Flags :=
  let s := f.signBit neg
  if sat then (s + f.maxEnc, { sf := true, nx := !input })
  else match f with
    | .e2m1 => (s + f.maxEnc, { of := true, nx := !input })
    | .e4m3 =>
      if input then (f.nanEnc, { of := true })
      else if c.away neg then (f.nanEnc, { of := true, nx := true }) else (s + f.maxEnc, { of := true, nx := true })
    | f =>
      if input then (s + f.infEnc, {})
      else if c.away neg then (s + f.infEnc, { of := true, nx := true })
      else (s + f.maxEnc, { of := true, nx := true })

/-- Whether the value, rounded to the format's precision with unbounded exponent range, is nonzero and below `2^emin`
(R115's underflow test). -/
def tiny (c : RCtx) (f : FloatFmt) (d : Dy) : Bool :=
  if f.emin ≤ d.log2 then false
  else
    let q := d.log2 - (f.p - 1 : Nat)
    let n := (roundMant c d.neg d.mant d.exp q).1
    n ≠ 0 && decide (q + (Nat.log2 n : Int) < f.emin)

/-- Round of R117 for a float format: the encoding and the flags. -/
def roundFloat (c : RCtx) (f : FloatFmt) (sat : Bool) : Num → Nat × Flags
  | .nan => if f = .e2m1 then (0, { nv := true }) else (f.nanEnc, {})
  | .inf neg => overflow c f sat neg true
  | .fin d =>
    if d.mant = 0 then (f.signBit d.neg, {})
    else
      let e := if f.emin ≤ d.log2 then d.log2 else f.emin
      let (n, nx) := roundMant c d.neg d.mant d.exp (e - (f.p - 1 : Nat))
      let mag := (e - f.emin).toNat * pow2 (f.p - 1) + n
      if f.maxEnc < mag then overflow c f sat d.neg false
      else (f.signBit d.neg + mag, { nx := nx, uf := nx && tiny c f d })

/-- Lower and upper bounds of an integer type. -/
def intLo (bits : Nat) (signed : Bool) : Int := if signed then -(pow2 (bits - 1) : Int) else 0
def intHi (bits : Nat) (signed : Bool) : Int := if signed then (pow2 (bits - 1) : Int) - 1 else (pow2 bits : Int) - 1

/-- The low bits of an integer (R8). -/
def intLow (bits : Nat) (z : Int) : Nat := (z % (pow2 bits : Int)).toNat

/-- RoundInt of R119: the low `bits` bits of the result, and the flags. -/
def roundInt (c : RCtx) (bits : Nat) (signed sat : Bool) : Num → Nat × Flags
  | .nan => (0, { nv := true })
  | .inf neg => (intLow bits (if neg then intLo bits signed else intHi bits signed), { nv := true })
  | .fin d =>
    let (n, nx) := roundMant c d.neg d.mant d.exp 0
    let z : Int := if d.neg then -(n : Int) else (n : Int)
    if intLo bits signed ≤ z ∧ z ≤ intHi bits signed then (intLow bits z, { nx := nx })
    else if sat then (intLow bits (if d.neg then intLo bits signed else intHi bits signed), { sf := true, nx := nx })
    else (intLow bits z, { nx := nx })

/-- Round to an element type (R117): every conversion to an element type. K8 and raw cells are no targets and give 0. -/
def roundElem (c : RCtx) (t : ElemType) (sat : Bool) (v : Num) : Nat × Flags :=
  match elemKind t with
  | .float f => roundFloat c f sat v
  | .int b sg => roundInt c b sg sat v
  | .codebook => (0, {})
  | .raw => (0, {})

/-- SRBits (R120). -/
def srBits (seed salt index : BitVec 64) : BitVec 64 :=
  let z := seed ^^^ (salt <<< 48)
  let z := z + (index + 1) * 0x9E3779B97F4A7C15#64
  let z := (z ^^^ (z >>> 30)) * 0xBF58476D1CE4E5B9#64
  let z := (z ^^^ (z >>> 27)) * 0x94D049BB133111EB#64
  z ^^^ (z >>> 31)

/-- The mode of a field, with `dyn` resolved by ARITH.rm (R112, R113), and its draw (R120). -/
def rctx (rm : Rounding) (arith seed index : BitVec 64) : RCtx :=
  let m : Rounding := match rm with
    | .dyn => match (arith.toNat % 8) with
      | 1 => .rtz | 2 => .rdn | 3 => .rup | 4 => .rna | 5 => .sr | _ => .rne
    | m => m
  ⟨m, (srBits seed (arith >>> 16 &&& 0xFFFF#64) index).toNat % pow2 32⟩

/-! Exact results of the float operations, with the invalid and divide-by-zero flags (R105, R129, R366). -/

def Num.negate : Num → Num
  | .nan => .nan
  | .inf n => .inf (!n)
  | .fin d => .fin d.negate

def Num.isNan : Num → Bool
  | .nan => true
  | _ => false

/-- The sign of a value; a NaN counts as positive (R430). -/
def Num.neg : Num → Bool
  | .nan => false
  | .inf n => n
  | .fin d => d.neg

/-- Sum (R105): opposite infinities are invalid. -/
def numAdd (rdn : Bool) : Num → Num → Num × Flags
  | .nan, _ => (.nan, {})
  | _, .nan => (.nan, {})
  | .inf a, .inf b => if a = b then (.inf a, {}) else (.nan, { nv := true })
  | .inf a, .fin _ => (.inf a, {})
  | .fin _, .inf b => (.inf b, {})
  | .fin a, .fin b => (.fin (a.add rdn b), {})

/-- Product (R105): infinity times zero is invalid. -/
def numMul : Num → Num → Num × Flags
  | .nan, _ => (.nan, {})
  | _, .nan => (.nan, {})
  | .inf a, .inf b => (.inf (a != b), {})
  | .inf a, .fin b => if b.mant = 0 then (.nan, { nv := true }) else (.inf (a != b.neg), {})
  | .fin a, .inf b => if a.mant = 0 then (.nan, { nv := true }) else (.inf (a.neg != b), {})
  | .fin a, .fin b => (.fin (a.mul b), {})

/-- `a * b + c`, the product and the sum exact (R105): any NaN operand gives NaN and no flag. -/
def numFma (rdn : Bool) (a b c : Num) : Num × Flags :=
  if a.isNan || b.isNan || c.isNan then (.nan, {})
  else
    let (p, f) := numMul a b
    let (s, g) := numAdd rdn p c
    (s, f.or g)

/-- Quotient (R129). -/
def numDiv : Num → Num → Num × Flags
  | .nan, _ => (.nan, {})
  | _, .nan => (.nan, {})
  | .inf _, .inf _ => (.nan, { nv := true })
  | .inf a, .fin b => (.inf (a != b.neg), {})
  | .fin a, .inf b => (.fin ⟨a.neg != b, 0, 0⟩, {})
  | .fin a, .fin b =>
    if b.mant = 0 then
      if a.mant = 0 then (.nan, { nv := true }) else (.inf (a.neg != b.neg), { dz := true })
    else if a.mant = 0 then (.fin ⟨a.neg != b.neg, 0, 0⟩, {})
    else (.fin (a.div b), {})

/-- Square root (R129). -/
def numSqrt : Num → Num × Flags
  | .nan => (.nan, {})
  | .inf true => (.nan, { nv := true })
  | .inf false => (.inf false, {})
  | .fin d =>
    if d.mant = 0 then (.fin d, {})
    else if d.neg then (.nan, { nv := true })
    else (.fin d.sqrt, {})

/-- Reciprocal (R129). -/
def numRcp (a : Num) : Num × Flags := numDiv (.fin ⟨false, 1, 0⟩) a

/-- Reciprocal square root (R129). -/
def numRsqrt : Num → Num × Flags
  | .nan => (.nan, {})
  | .inf true => (.nan, { nv := true })
  | .inf false => (.fin ⟨false, 0, 0⟩, {})
  | .fin d =>
    if d.mant = 0 then (.inf d.neg, { dz := true })
    else if d.neg then (.nan, { nv := true })
    else (.fin d.rsqrt, {})

/-- Base-2 exponential (R129). -/
def numExp2 : Num → Num × Flags
  | .nan => (.nan, {})
  | .inf true => (.fin ⟨false, 0, 0⟩, {})
  | .inf false => (.inf false, {})
  | .fin d => (.fin d.exp2, {})

/-- Base-2 logarithm (R129). -/
def numLog2 : Num → Num × Flags
  | .nan => (.nan, {})
  | .inf true => (.nan, { nv := true })
  | .inf false => (.inf false, {})
  | .fin d =>
    if d.mant = 0 then (.inf true, { dz := true })
    else if d.neg then (.nan, { nv := true })
    else (.fin d.log2Real, {})

/-- Hyperbolic tangent (R129). -/
def numTanh : Num → Num × Flags
  | .nan => (.nan, {})
  | .inf n => (.fin ⟨n, 1, 0⟩, {})
  | .fin d => if d.mant = 0 then (.fin d, {}) else (.fin d.tanh, {})

/-- `a < b`, false when either is a NaN; +0 equals -0 (R368). -/
def numLt : Num → Num → Bool
  | .nan, _ => false
  | _, .nan => false
  | .inf a, .inf b => a && !b
  | .inf a, .fin _ => a
  | .fin _, .inf b => !b
  | .fin a, .fin b => a.lt b

/-- `a = b`, false when either is a NaN; +0 equals -0 (R368). -/
def numEq : Num → Num → Bool
  | .nan, _ => false
  | _, .nan => false
  | .inf a, .inf b => a == b
  | .inf _, .fin _ => false
  | .fin _, .inf _ => false
  | .fin a, .fin b => a.eqv b

/-- The greater; a NaN gives NaN, +0 counts above -0 (R130, R366). -/
def numMax (a b : Num) : Num :=
  if a.isNan || b.isNan then .nan
  else if numEq a b then (if a.neg then b else a)
  else if numLt a b then b else a

/-- The lesser; a NaN gives NaN, +0 counts above -0. -/
def numMin (a b : Num) : Num :=
  if a.isNan || b.isNan then .nan
  else if numEq a b then (if a.neg then a else b)
  else if numLt a b then a else b

/-- The absolute value with the given sign. -/
def Num.withSign (neg : Bool) : Num → Num
  | .nan => .nan
  | .inf _ => .inf neg
  | .fin d => .fin ⟨neg, d.mant, d.exp⟩

/-- Scales a value by `2^k` exactly (R122). -/
def Num.scale (k : Int) : Num → Num
  | .nan => .nan
  | .inf n => .inf n
  | .fin d => .fin ⟨d.neg, d.mant, d.exp + k⟩

/-- The integer of a two's complement field. -/
def sInt (bits w : Nat) : Int :=
  if w.testBit (bits - 1) then ((w % pow2 bits : Nat) : Int) - (pow2 bits : Int) else ((w % pow2 bits : Nat) : Int)

/-- An integer as an exact value; 0 is +0. -/
def Num.ofInt (z : Int) : Num := .fin (Dy.ofInt z)

/-- The value of a plain encoding of an element type (R109); K8 codewords and raw cells are decoded elsewhere. -/
def elemValue (t : ElemType) (w : Nat) : Num :=
  match elemKind t with
  | .float f => f.value w
  | .int b true => .ofInt (sInt b w)
  | .int b false => .ofInt ((w % pow2 b : Nat) : Int)
  | .codebook => .ofInt 0
  | .raw => FloatFmt.acc40.value w

/-- An element under an E8M0 scale byte (R122); a NaN element stays NaN, an infinite one infinite. Under a NaN scale every element of the
block is NaN; that an infinite E5M2 element is so too is the model's choice, since R122 also has it decode as such whatever its scale
(DESIGN CHOICE, log entry 72). -/
def scaled (e : Option Nat) (v : Num) : Num :=
  match e with
  | none => v
  | some 255 => .nan
  | some b => v.scale ((b : Int) - 127)

/-- FCLASS (R368). -/
def classBit (f : FloatFmt) (w : Nat) : Nat :=
  match f.value w with
  | .nan => 8
  | .inf n => if n then 0 else 7
  | .fin d =>
    if d.mant = 0 then (if d.neg then 3 else 4)
    else if d.mant < pow2 (f.p - 1) then (if d.neg then 2 else 5)
    else (if d.neg then 1 else 6)

/-- The scale byte of an MX block whose active elements are `vs` (R124). -/
def mxScale (emax : Int) (vs : List Num) : Nat :=
  if vs.any (fun v => match v with | .nan => true | .inf _ => true | .fin _ => false) then 255
  else
    let lg : Option Int := vs.foldl (fun m v => match v with
      | .fin d => if d.mant = 0 then m else match m with
        | none => some d.log2
        | some x => some (if x < d.log2 then d.log2 else x)
      | _ => m) none
    match lg with
    | none => 127
    | some l =>
      let x := l - emax
      let x := if x < -127 then -127 else if 127 < x then 127 else x
      (127 + x).toNat

/-- emax of R124. -/
def mxEmax : ElemType → Int
  | .e2m1 => 2 | .e4m3 => 8 | .e5m2 => 15 | _ => 6

/-- One element of a scaled conversion (R125): under a NaN scale the canonical NaN, or +0 for FP4 E2M1 and INT8, and invalid for every element: R125
can be read as raising it only where the result is +0 (DESIGN CHOICE, log entry 80). -/
def mxConvert (c : RCtx) (t : ElemType) (scale : Nat) (v : Num) : Nat × Flags :=
  if scale = 255 then ((roundElem c t true .nan).1, { nv := true })
  else roundElem c t true (v.scale (127 - (scale : Int)))

end Sys2Proof.Machine
end

