-- ==== Sys2Proof/Machine/Maps.lean ====
section
/-!
DEFINITION. Sparse tables as plain data: a list of key and value pairs with strictly rising keys, and a value that an unlisted
key has. Where the table is canonical (memory, the grid) no entry holds that value.
-/
namespace Sys2Proof.Machine

/-- The value of key `k`, `d` where it is not listed. -/
def mget {α : Type} (d : α) (k : Nat) : List (Nat × α) → α
  | [] => d
  | (j, v) :: t => if j = k then v else if k < j then d else mget d k t

/-- Lists `k` with value `v`. -/
def mput {α : Type} (k : Nat) (v : α) : List (Nat × α) → List (Nat × α)
  | [] => [(k, v)]
  | (j, w) :: t => if j = k then (k, v) :: t else if k < j then (k, v) :: (j, w) :: t else (j, w) :: mput k v t

/-- Takes `k` off the list. -/
def mdel {α : Type} (k : Nat) : List (Nat × α) → List (Nat × α)
  | [] => []
  | (j, w) :: t => if j = k then t else if k < j then (j, w) :: t else (j, w) :: mdel k t

/-- Gives `k` the value `v`, listed only where it differs from the default `d`: keeps the canonical form. -/
def mset {α : Type} [DecidableEq α] (d : α) (k : Nat) (v : α) (l : List (Nat × α)) : List (Nat × α) :=
  if v = d then mdel k l else mput k v l

/-- The keys of a table rise strictly. -/
def mrising {α : Type} : List (Nat × α) → Bool
  | [] => true
  | [_] => true
  | (i, _) :: (j, w) :: t => decide (i < j) && mrising ((j, w) :: t)

/-- The canonical form: rising keys, no entry with the default value. -/
def mcanon {α : Type} [DecidableEq α] (d : α) (l : List (Nat × α)) : Bool :=
  mrising l && l.all (fun e => decide (e.2 ≠ d))

/-- Applies `f` to the value of `k`. -/
def mupd {α : Type} (d : α) (k : Nat) (f : α → α) (l : List (Nat × α)) : List (Nat × α) := mput k (f (mget d k l)) l

/-- Whether `k` is listed. -/
def mhas {α : Type} (k : Nat) : List (Nat × α) → Bool
  | [] => false
  | (j, _) :: t => j == k || mhas k t

/-- The entry of `k`, if listed. -/
def mfind {α : Type} (k : Nat) : List (Nat × α) → Option α
  | [] => none
  | (j, v) :: t => if j = k then some v else mfind k t

/-- The numbers from `a` on, `n` of them. -/
def span (a n : Nat) : List Nat := (List.range n).map (a + ·)

/-- Bit `i` of a number. -/
def bitAt (w i : Nat) : Bool := w / 2 ^ i % 2 == 1

/-- Bits `hi:lo` of a number. -/
def bitsOf (w hi lo : Nat) : Nat := w / 2 ^ lo % 2 ^ (hi + 1 - lo)

/-- Bits `hi:lo` of a word. -/
def fld (w : Word) (hi lo : Nat) : Nat := bitsOf w.toNat hi lo

/-- A word with bits `hi:lo` replaced by the low bits of `v`. -/
def setFld (w : Word) (hi lo v : Nat) : Word :=
  let k := 2 ^ (hi + 1 - lo)
  let n := w.toNat
  BitVec.ofNat 64 (n / (2 ^ lo * k) * (2 ^ lo * k) + v % k * 2 ^ lo + n % 2 ^ lo)

end Sys2Proof.Machine
end

