-- ==== Sys2Proof/Machine/State.lean ====
section
/-!
DEFINITION. The state of the package (one structure for each unit that the spec gives state), the fault and refusal names,
and the state after module reset.
-/
namespace Sys2Proof.Machine

/-- Why the machine stops with a fault: for no reason. Every instruction and event comes to a next state, as every exception of the
spec is taken (R234). -/
inductive Fault
deriving DecidableEq, Repr

/-- Why an instruction has no meaning. -/
inductive Refusal
  /-- raised by `exec`'s arm of an instruction whose meaning is not written yet. Safe: nothing is claimed of it. -/
  | notModelled (mnemonic : String)
deriving DecidableEq, Repr

/-- Cause codes 0x01 to 0x13, in code order (R233). -/
inductive Cause
  | illegal | priv | align | notPresent | protect | form | window | gridOwn | fmtEmpty | fmtBad | stream | race | arith
  | poison | brk | swTrap | gang | linkDown | targetFull
deriving DecidableEq, Repr, Inhabited

/-- A vector clock: agent number to the count of that agent's epochs that happen before (R191). -/
abbrev Clock := List (Nat × Nat)

/-- Where an agent is, for scopes (R188). -/
inductive Loc
  | core (n : Nat)
  | cluster (n : Nat)
  | die (n : Nat)
  | host (n : Nat)
  | remote
deriving DecidableEq, Repr

/-- A release: by whom, from where, at what scope, with what it releases (R191). -/
structure Rel where
  loc : Loc
  scope : Scope
  clock : Clock
deriving DecidableEq, Repr

/-- Reasons a track waits in an instruction; `retry` reasons are tried again at each issue slot, the others end by an
event of their own. -/
inductive WaitKind
  | busyRow | heldByte | refill | gridRoom | gwait | exit | release | overlap | link | stop | remote | graphSlot | tlb
  | copyRoom | milestone | band | crossTake | crossPost | junction | barrier | barrierNext | meetSlot | meetArrive | meetWait
  | vwait | yield | xfload | cflush | frozenCore | freeze | abort
deriving DecidableEq, Repr

/-- An element that a VWAIT watches: its number, its virtual address, the value it is compared with, as read at issue, whether it has been
read, and the releases that its last read read (R214). -/
structure Watched where
  elem : Nat
  addr : Nat
  expected : Nat
  known : Bool := false
  rels : List Rel := []
deriving DecidableEq, Repr

/-- A waiting instruction: its reason, its place in the order of waits, the object or queue, cycles counted, the other tracks a YIELD
still waits for or the elements a VWAIT last found satisfied, the elements a VWAIT watches, the result that an event at its object has
given it already (R220, R228), the meeting it waits in where its object has been opened afresh since, and whether it has issued: its own
part has begun, so the strip before it has closed and its issue is charged (R279, R463). -/
structure Wait where
  kind : WaitKind
  seq : Nat
  obj : Nat := 0
  cycles : Nat := 0
  others : List Nat := []
  watch : List Watched := []
  verdict : Option Nat := none
  meeting : Option Nat := none
  issued : Bool := false
  /-- the physical addresses by element of a VATOM whose atomics at other nodes have gone out: its checks are passed (R212) -/
  sent : List (Nat × Nat) := []
  /-- every element of a VWAIT is to be evaluated again, after a thaw or a restore (R214) -/
  again : Bool := false
  /-- the record that a CPY has read and checked, while its channel's queue is full (R357) -/
  record : List Byte := []
  instr : Instr
deriving DecidableEq, Repr

/-- One frame of the trap save area (R232). -/
structure Frame where
  tcause : Word := 0
  taddr : Word := 0
  tepc : Word := 0
  tfpc : Word := 0
  telem : Word := 0
  x2 : Word := 0
  acked : Bool := false
  pmode : Bool := false
  engine : Option Nat := none
deriving DecidableEq, Repr

/-- An engine fault record held for a track (R237): its command or stream, whether the command has ended, and the TIME of the fault. -/
structure EngRec where
  cause : Cause
  addr : Word
  elem : Word
  fpc : Word
  engine : Nat
  unit : Nat
  cmd : Nat
  ended : Bool
  time : Nat := 0
deriving DecidableEq, Repr

/-- A granule of the strip store buffer: its physical address, its data and which bits are written (R66). -/
structure Granule where
  pa : Nat
  data : Word
  mask : Word
deriving DecidableEq, Repr

/-- A remote-map entry (R278): its node, the address on that node, and whether it is writable. -/
structure RemoteEntry where
  node : Nat
  base : Nat
  writable : Bool
deriving DecidableEq, Repr

/-- A cached translation (R243): the leaf entry, its level, the page it covers, and whether it covers the run of 16 pages about it (R240). -/
structure TlbEntry where
  ctx : Nat
  va : Nat
  level : Nat
  entry : Word
  run : Bool := false
deriving DecidableEq, Repr

/-- What the stores to a granule of the buffer have used, from their checks to the strip's close: the remote map's entry as the first of
them read it (R278), whether one came through the core window (R179), the cached translations (R423), and the tracks whose TLBINV waits for
one of those. -/
structure StoreNote where
  slot : Option (Nat × RemoteEntry) := none
  window : Bool := false
  uses : List TlbEntry := []
  removals : List Nat := []
deriving DecidableEq, Repr

/-- The cells of a row that are not zero (R78). -/
abbrev Row := List (Nat × Cell40)

/-- The strip checkpoint (R65). -/
structure Checkpoint where
  pc : Word := 0
  x : Vector Word 32 := Vector.replicate 32 0
  m : Vector Mask128 8 := Vector.replicate 8 0
  vl : Nat := 0
  vlmax : Nat := 0
  sbase : Word := 0
  arith : Word := 0
  fq : List (BitVec 32) := []
  pops : List (Nat × Nat) := []
  rows : List (Nat × Row) := []
  /-- loads made before the strip whose data was still to come -/
  loads : List Nat := []
deriving DecidableEq, Repr

/-- The strip in progress: its checkpoint, its buffered stores and pushes, the flags its instructions raised, the flags
engines delivered since its start, and the first enabled flag's TFPC and TELEM (R64 to R70, R116). -/
structure Strip where
  isOpen : Bool := false
  start : Checkpoint := {}
  buf : List Granule := []
  pushes : List Granule := []
  raised : Flags := {}
  engine : Flags := {}
  arith : Option (Word × Word) := none
  alone : Bool := false
  closing : Bool := false
  /-- instructions completed in the strip -/
  count : Nat := 0
  /-- by granule, what the stores that wait in the buffer have used -/
  notes : List (Nat × StoreNote) := []
deriving DecidableEq, Repr

/-- An access of the instruction in progress, for the watchpoint units and the energy count: virtual address, bytes matched,
element, whether it writes and reads, and the bits it moves. -/
structure Touch where
  addr : Word
  size : Nat
  elem : Nat
  reads : Bool
  writes : Bool
  bits : Nat
deriving DecidableEq, Repr

/-- Whose completion counter a completion decrements (R35, R38, R42). -/
inductive Parent
  | root
  | node (level index : Nat)
  | cont (id : Nat)
deriving DecidableEq, Repr

/-- A ready or running trip (R34, R35, R47): its launch, its record, its parent, the leaf it descends from, its gang
(launch serial and parent index), the domain instance it is bound to, and what its start acquires. -/
structure Trip where
  serial : Nat
  ctx : Nat
  tag : Nat
  code : Word
  frame : Word
  levelidx : Nat
  level : Nat
  prio : Nat
  super : Bool
  epilogue : Bool := false
  leaf : Option Nat := none
  gang : Option (Nat × Nat) := none
  parent : Parent
  inst : Inst
  acquires : List Rel := []
  scope : Scope := .track
deriving DecidableEq, Repr

/-- A trip in a queue (R48, R49, R51): its order of readiness, cycles waited, classes risen, whether a core's spawn pool holds its
record, and whether it is in the instance's own store (0), its cluster's queue (1), the spill area (2, with its slot), or still in the
continuation store for want of room (3). -/
structure Ready where
  seq : Nat
  trip : Trip
  waited : Nat := 0
  raised : Nat := 0
  spawnCore : Option Nat := none
  place : Nat := 0
  slot : Nat := 0
deriving DecidableEq, Repr

/-- A continuation in the home die's store (R35, R42). -/
structure Cont where
  join : Nat
  code : Word := 0
  frame : Word := 0
  trip : Trip
  rels : List Rel := []
deriving DecidableEq, Repr

/-- A load whose data has not been written back (R245): its number, register, value, PC and trap level, whether its write-back is
cancelled, and whether the data has landed in a frozen core's arrival buffer (R250). -/
structure PendingLoad where
  id : Nat
  reg : Reg
  value : Word
  pc : Word
  level : Nat
  cancelled : Bool := false
  landed : Bool := false
deriving DecidableEq, Repr

/-- A graph node as loaded (R162). -/
structure GNode where
  op : Nat
  in0 : Nat
  in1 : Nat
  itype : ElemType
  otype : ElemType
  rm : Rounding
  sat : Bool
  salt : Word
  param0 : Nat
  param1 : Nat
  addr : Word
deriving DecidableEq, Repr

/-- A graph slot: the loaded graph and its context (R159, R161). -/
structure Graph where
  ctx : Nat
  out : Nat
  nodes : List GNode
deriving DecidableEq, Repr

/-- A context descriptor (R272). -/
structure CtxDesc where
  root : Word := 0
  handler : Word := 0
  tstack : Word := 0
  tsize : Nat := 0
  flags : Nat := 0
  spill : Word := 0
  spillSize : Word := 0
deriving DecidableEq, Repr

/-- A track (R53, R231, R285). -/
structure Track where
  pc : Word := 0
  x : Vector Word 32 := Vector.replicate 32 0
  m : Vector Mask128 8 := Vector.replicate 8 0
  fq : List (BitVec 32) := []
  vl : Nat := 0
  vlmax : Nat := 0
  sbase : Word := 0
  held : Nat := 0
  srseed : Word := 0
  arith : Word := 0
  prio : Nat := 0
  /-- first band held and how many (R82, R83) -/
  band : Nat := 0
  bands : Nat := 0
  super : Bool := false
  tcause : Word := 0
  taddr : Word := 0
  tepc : Word := 0
  tfpc : Word := 0
  telem : Word := 0
  level : Nat := 0
  acked : Bool := false
  pmode : Bool := false
  tvec : Word := 0
  tstack : Word := 0
  tsave : List Word := [0, 0, 0, 0, 0, 0, 0, 0]
  frames : List (Nat × Frame) := []
  /-- the frames as they were at their levels' entries (R238) -/
  entries : List (Nat × Frame) := []
  /-- the command of the engine whose record the current level took (R235 step 3) -/
  resume : Option Nat := none
  strip : Strip := {}
  trip : Option Trip := none
  tripid : Nat := 0
  levelidx : Word := 0
  ctxid : Nat := 0
  /-- the trip's context descriptor, as its start has read it (R272) -/
  desc : CtxDesc := {}
  cont : Option Nat := none
  wait : Option Wait := none
  pending : List PendingLoad := []
  records : List EngRec := []
  /-- ARITH traps of OPAs and drains that have completed, oldest first: TFPC and TELEM (R106, R377) -/
  opaTraps : List (Word × Word) := []
  /-- barrier records of R218: object address, last phase arrived -/
  barriers : List (Nat × Option Nat) := []
  /-- earlier launches issued by this trip (R44, after-all) -/
  launches : List Nat := []
  escalated : Bool := false
  clock : Clock := []
  /-- the region that its data accesses belong to: the epoch that the last sync access has begun (R193) -/
  region : Nat := 0
  /-- what the release fences so far release to later sync writes, widest scope last (R369) -/
  fenceRel : List (Scope × Clock) := []
  pendAcq : List Rel := []
  /-- what the trip's engine commands that have ended release to its EXIT (R192) -/
  ended : Clock := []
  /-- inline children (R41), innermost first: the record's address and SPAWN's xd -/
  inline : List (Word × Reg) := []
  bytes5 : Nat := 0
  /-- the scratchpad offset that a held byte's wait awaits (R297) -/
  awaited : Nat := 0
  /-- stores of a strip whose close an engine's record has interrupted (R237), oldest first: they are performed when the trap's return
  has opened a strip again -/
  left : List Granule := []
  leftNotes : List (Nat × StoreNote) := []
  /-- the graph that a waiting XF.LOAD has read and checked (R160) -/
  graph : Option Graph := none
  /-- the element whose access waits, where the instruction has elements (R300) -/
  awaitedElem : Option Nat := none
  /-- TIME of its last issue, for the limits of R275 -/
  issuedAt : Option Nat := none
  halted : Bool := false
  haltReq : Bool := false
  haltWhy : Nat := 0
  why : Nat := 0
  unit : Nat := 0
  cancelled : Bool := false
  exempt : Bool := false
  hitPc : Word := 0
  refused : Bool := false
  stepping : Bool := false
  stepsync : Bool := false
  stepRows : List Nat := []
  /-- a watchpoint action owed after the instruction: 0 none, else action code + 1, TFPC, TADDR, TELEM, unit (R292) -/
  owed : Option (Nat × Word × Word × Word × Nat) := none
  touched : List Touch := []
deriving DecidableEq, Repr

/-- What a grid command does (R88 to R90, R104, R153, R154, R376, R378). -/
inductive GridOp
  | opa (na nb z : Bool) (qa qb : Q8) (k m n col0 : Nat) (fmt : BitVec 32)
  | zero
  | park (slot : Nat)
  | unpark (slot : Nat)
  | fill (et : ElemType) (addr : Word)
  | drain (va : View) (base : Word) (stride : Word) (scale : Option Word) (index : Option View) (cv : VConv)
  | save (addr : Word)
  | load (addr : Word)
  | send (core row : Nat)
deriving DecidableEq, Repr

/-- A command of the grid engine (R461): its number (also its agent number), issuer, what it was issued with, the rows it
targets, its progress, and how it stands. -/
structure GridCmd where
  id : Nat
  track : Nat
  ctx : Nat
  super : Bool
  fpc : Word
  op : GridOp
  rows : List Nat
  jct : Option Word := none
  entered : Bool := false
  done : Nat := 0
  bytes : Nat := 0
  faulted : Bool := false
  vl : Nat := 0
  mask : Mask128 := 0
  sbase : Word := 0
  salt : Word := 0
  seed : Word := 0
  rowbase : Nat := 0
  rowCount : Nat := 0
  trapElem : Option Nat := none
  /-- an OPA's first elements in its two streams and their scale side streams -/
  posA : Nat := 0
  posB : Nat := 0
  sideA : Nat := 0
  sideB : Nat := 0
  clock : Clock := []
deriving DecidableEq, Repr

/-- Rows of a core's grid into which a ROWSEND of another (or this) core is delivering (R154). -/
structure Incoming where
  src : Nat
  cmd : Nat
  /-- its place in the order of the target's own commands -/
  stamp : Nat
  rows : List Nat
deriving DecidableEq, Repr

/-- A codebook load in progress (R143, R127). -/
structure CbkCmd where
  id : Nat
  track : Nat
  ctx : Nat
  super : Bool
  fpc : Word
  slot : Nat
  addr : Word
  done : Nat := 0
  faulted : Bool := false
  clock : Clock := []
deriving DecidableEq, Repr

/-- The pattern record of a stream (R133). -/
structure Pattern where
  base : Word
  counts : List Nat
  strides : List Word
  pop : Nat
  et : ElemType
  scale : Nat
  sparse : Bool
  n : Nat
  sideScale : Nat
  sideMeta : Nat
  slot : Nat
  dir : Nat
deriving DecidableEq, Repr

/-- A decoded stream element (R137, R462): an exact value, or a raw cell. -/
inductive SElem
  | val (v : Num)
  | cell (c : Cell40)
deriving DecidableEq, Repr

/-- A stream register (R132 to R143): its owner, its pattern, elements popped or pushed, the refill buffer, the fault met by
the refill, the index list, and the link. -/
structure Stream where
  /-- its register -/
  num : Nat := 0
  owner : Nat
  id : Nat
  ctx : Nat
  super : Bool
  fpc : Word
  record : List Byte
  pat : Pattern
  pos : Nat := 0
  /-- popped elements released at a strip close (R70) -/
  freed : Nat := 0
  buffer : List SElem := []
  /-- where its scale and metadata side streams stood when it was configured (R136) -/
  side : Nat := 0
  sideBits : Nat := 0
  fault : Option (Nat × Cause × Word) := none
  told : Bool := false
  index : Option (Word × List Nat) := none
  partner : Option (Nat × Nat) := none
  linked : Bool := false
  cut : Bool := false
  credits : Nat := 0
  flits : List SElem := []
  inFlight : List SElem := []
  held : Bool := false
  heldAck : Bool := false
  /-- elements that a waiting STRM.SKIP of a link-in stream has passed over (R416) -/
  skipped : Nat := 0
  clock : Clock := []
deriving DecidableEq, Repr

/-- A copy record (R145). -/
structure CopyRec where
  dst : Word
  src : Word
  length : Nat
  rows : Nat
  dstride : Word
  sstride : Word
  junction : Word
  slot : Nat
  graph : Bool
deriving DecidableEq, Repr

/-- A graph node in a running command: elements it has taken, its inputs not yet used, in units (`unitsOf`), and what its
operator keeps (R165 to R174). -/
structure NodeRun where
  taken : Nat := 0
  in0 : List Nat := []
  in1 : List Nat := []
  side : Nat := 0
  crc : Nat := 0
  turn : Bool := false
  ended : Bool := false
deriving DecidableEq, Repr

/-- A copy command (R144 to R152): progress in bytes written, source bytes taken, what a graph has made, and the remote map as it stood
at the command's start. -/
structure CopyCmd where
  id : Nat
  chan : Nat := 0
  track : Nat
  ctx : Nat
  super : Bool
  fpc : Word
  record : List Byte
  cr : CopyRec
  started : Bool := false
  done : Nat := 0
  taken : Nat := 0
  faulted : Bool := false
  /-- the record of the fault at which it is suspended: cause word, address, element (R255) -/
  record3 : Option (Word × Word × Word) := none
  ending : Bool := false
  rm : Rounding := .rne
  seed : Word := 0
  flags : Flags := {}
  nodes : List NodeRun := []
  /-- the graph that a started command runs through (R444) -/
  graph : Option Graph := none
  out : List Byte := []
  orig : List Host.Cell := []
  map : List (Nat × RemoteEntry) := []
  clock : Clock := []
deriving DecidableEq, Repr

/-- A copy channel: the active command first, then its queue; MILE of the last command that ended (R144, R147). -/
structure Chan where
  queue : List CopyCmd := []
  mile : Word := 0
  /-- the commands that have ended: a MILE.WAIT acquires their writes below the milestone that it observes (R149, R359) -/
  ended : List CopyCmd := []
deriving DecidableEq, Repr

/-- One entry of a conflict directory (R197): the bytes of a line that a region has read, written, or reached by sync accesses. -/
structure DirEntry where
  ctx : Nat
  line : Nat
  agent : Nat
  epoch : Nat
  rmask : Nat
  wmask : Nat
  smask : Nat
  /-- for an engine's region: its core and unit (`engineWho`) -/
  engine : Option (Nat × Nat) := none
  /-- the region that the accesses belong to (R193): those of one region have one entry, however many epochs it spans -/
  region : Nat := 0
  /-- what an engine's command knew, which happens before its accesses -/
  clock : Clock := []
deriving DecidableEq, Repr

/-- A lag table entry (R297). -/
structure LagEntry where
  producer : Word
  consumer : Word
  cycles : Nat
  lag : Nat
  reason : Nat
deriving DecidableEq, Repr

/-- A debugger's access to DREGDATA that waits (R245): cycles waited, the selection it was made with, the value of a write, and the host core
whose load it is, with the byte it begins at and the bytes it reads. -/
structure DbgAcc where
  cycles : Nat := 0
  sel : Word
  write : Option Word := none
  host : Option (Nat × Nat × Nat) := none
deriving DecidableEq, Repr

/-- A core (R12, R55 to R77, R132, R144, R248 to R253, R262, R283 to R298). -/
structure Core where
  tracks : List (Nat × Track) := []
  lane : Nat := 0
  pool : Nat := 0
  ctx : Option Nat := none
  lastCtx : Option Nat := none
  cross : List (Nat × Nat) := []
  crossRels : List (Nat × List Rel) := []
  grid : List (Nat × Row) := []
  gq : List GridCmd := []
  incoming : List Incoming := []
  cbk : List (Nat × Byte) := []
  cbkCmds : List CbkCmd := []
  streams : List (Nat × Stream) := []
  chans : List (Nat × Chan) := []
  energy : Nat := 0
  /-- bytes that each engine has moved, in halves (R463) -/
  bytes6 : List (Nat × Nat) := []
  evc : List (Nat × Word) := []
  /-- cycles since reset in which its clock stood still -/
  stopped : Nat := 0
  frozen : Bool := false
  departed : Bool := false
  freezeNo : Nat := 0
  freezeTime : Nat := 0
  freezeImages : List Nat := []
  sealed : Bool := false
  /-- an image has been loaded on it since its freeze, and how many have been ever (R252, R266) -/
  restored : Bool := false
  loadNo : Nat := 0
  holds : List Nat := []
  dirtyBlocks : List Nat := []
  dirtyRows : List Nat := []
  reference : Option (Nat × Nat × Nat) := none
  tlb : List TlbEntry := []
  dir : List DirEntry := []
  dbg : List (Nat × Word) := []
  smphead : Nat := 0
  lag : List (Nat × LagEntry) := []
  lagLost : Nat := 0
  banksFailed : List Nat := []
  issued : List (Nat × Word) := []
  anchors : List (Nat × Word) := []
  removed : Bool := false
  /-- accesses of debuggers that wait, oldest first -/
  debugWait : List DbgAcc := []
  /-- wrong symbols of the pool's code, by codeword (4 × stripe + byte lane): banks, and what is added to the symbol (R183) -/
  upsets : List (Nat × List (Nat × Nat)) := []
deriving DecidableEq, Repr

/-- A record on its way to the trace port (R301). -/
structure PortRec where
  time : Nat
  kind : Nat
  detail : Nat
  source : Nat
  ctx : Nat
  payload : Word
deriving DecidableEq, Repr

/-- A die: the steward's register block by offset (R271, R299), marked lines (R206), the walk cache (R243), its conflict
directory (R197), the watchdog (R274), the hardware cap (R275), the trace window (R299) and the port buffer (R301). -/
structure Die where
  stew : List (Nat × Word) := []
  marked : List Nat := []
  walks : List TlbEntry := []
  dir : List DirEntry := []
  watchdog : Nat := 0
  cap : Nat := 8
  /-- the junction temperature last sensed, and the TIMEs since which it is sensed below 90 and below 95 degrees (R275) -/
  degrees : Nat := 0
  warmAt : Nat := 0
  hotAt : Nat := 0
  twcycle : Nat := 0
  anchorsWritten : Nat := 0
  twtriggered : Bool := false
  twstopped : Bool := false
  twleft : Nat := 0
  port : List PortRec := []
  dropped : Nat := 0
  held : Bool := false
deriving DecidableEq, Repr

/-- A level entry of a launch record (R24). -/
structure LevelRec where
  domain : Nat
  scope : Nat
  gang : Bool
  epilogue : Bool
  count : Nat
  code : Word
deriving DecidableEq, Repr

/-- A launch record (R21). -/
structure LaunchRec where
  version : Nat
  flags : Nat
  frameSize : Nat
  entry : Word
  frameBase : Word
  pool : Nat
  lane : Nat
  trigger : Nat
  tag : Nat
  ctx : Nat
  junction : Word
  status : Word
  stackBase : Word
  stackSize : Nat
  nlevels : Nat
  npreds : Nat
  preds : List Word
  levels : List LevelRec
  reservedOk : Bool
deriving DecidableEq, Repr

/-- Where a launch stands (R26, R32). -/
inductive LaunchPhase
  | pending | started | finishing | waitingWrite | done | rejected
deriving DecidableEq, Repr

/-- A launch (R21 to R39): its record, its slot in the home die's pool, its resolved predecessors with `early`, the launches it comes
after, its root counter, the counters of its nodes with what their children release, the expanders' next LEVELIDX by instance, the
leaf trips that have triggered, package-bound trips dealt, what its start, its completion and its triggers release, and a write of
its completion that faulted: address, cause, and whether it is the junction's; and the step of its completion that waits (R27). -/
structure Launch where
  rec_ : LaunchRec
  slot : Nat := 0
  ctx : Nat
  queue : Option Nat
  phase : LaunchPhase
  code : Nat := 0
  preds : List (Nat × Bool) := []
  after : List Nat := []
  root : Nat := 0
  nodes : List (Nat × Nat) := []
  nodeRels : List (Nat × List Rel) := []
  cursor : List (Nat × Nat) := []
  completed : Nat := 0
  triggers : Nat := 0
  killed : Nat := 0
  triggered : List Nat := []
  dealt : Nat := 0
  rels : List Rel := []
  doneClock : Clock := []
  trigRels : List Rel := []
  held : Option (Word × Cause × Bool) := none
  todo : Option Nat := none
deriving DecidableEq, Repr

/-- A gang waiting for its tracks, with the TIME at which it became ready (R36). -/
structure Gang where
  serial : Nat
  parent : Nat
  inst : Inst
  time : Nat
deriving DecidableEq, Repr

/-- What the engine keeps of a junction (R195): additions since the last flip, and those up to it; of a junction at another node, the
additions of this package's agents with the flips that pass them. -/
structure JctObj where
  current : List Rel := []
  flipped : List Rel := []
  far : List (Nat × Rel) := []
deriving DecidableEq, Repr

/-- What the engine keeps of a barrier (R219): arrivals of the phase in progress, and of completed phases. -/
structure BarObj where
  current : List Rel := []
  past : List Rel := []
deriving DecidableEq, Repr

/-- A contribution to a meeting (R224): the slot's bytes where a proxy has forwarded them (R230). -/
structure Contrib where
  member : Nat
  tag : Nat
  lag : Nat
  rel : Rel
  data : Option (List Byte) := none
deriving DecidableEq, Repr

/-- A closed round not yet combined (R225). -/
structure Round where
  round : Nat
  ontime : List Contrib
  late : List Contrib
deriving DecidableEq, Repr

/-- An arrival that a proxy has forwarded and that waits for its round (R224, R230): node, request tag, the proxy's offset, and its
place in the order of waits. -/
structure FarArrival where
  node : Nat
  req : Nat
  proxy : Nat
  seq : Nat
  member : Nat
  tag : Nat
  data : List Byte
deriving DecidableEq, Repr

/-- What the engine keeps of a meeting (R222 to R230): its record and state, who opened it, the combiner's agent number and clock,
members' next tags, contributions, closed rounds and written results, first statuses and proxies of forwarded arrivals; for a proxy,
the round that each forwarded arrival went to, and once it is closed the round below which results may still come. -/
structure MeetObj where
  record : Nat := 0
  round : Nat := 0
  status : Nat := 0
  lapsed : List Nat := []
  core : Nat := 0
  ctx : Nat := 0
  super : Bool := false
  desc : CtxDesc := {}
  agent : Nat := 0
  /-- the die of its synchronisation engine -/
  die : Nat := 0
  clock : Clock := []
  expected : List (Nat × Nat) := []
  ontime : List Contrib := []
  late : List Contrib := []
  rounds : List Round := []
  written : List (Nat × List Rel) := []
  /-- the rounds whose result was written when it closed (R228) -/
  atClose : List Nat := []
  statuses : List (Nat × Nat) := []
  waiting : List FarArrival := []
  proxies : List (Nat × Nat) := []
  sent : List (Nat × Nat × Nat) := []
  due : Nat := 0
deriving DecidableEq, Repr

/-- A request over Lesan that waits for its answer: who asked (units 0 to 3 are tracks, 8 to 15 channels, 16 to 23 streams,
24 and up other units), the packet kind, its payload's length, and the answer once it has come. -/
structure Request where
  core : Nat
  unit : Nat
  node : Nat
  addr : Nat
  kind : Nat
  /-- bytes of its payload -/
  len : Nat := 0
  /-- the physical address of an access to the remote range, and the map's entry that it uses (R278) -/
  pa : Nat := 0
  entry : Option (Nat × RemoteEntry) := none
  /-- what an addition to a junction releases, once its home has answered (R195) -/
  rels : List Rel := []
  answer : Option (List Byte) := none
deriving DecidableEq, Repr

/-- An image the device has made (R254 to R258): the core as it stood, its requests, and by offset in its pool the bytes, poisoned lines,
releases and junctions; RACESTAT of its context, MILE of its channels, its own sequence number, the base's and its tag, and its own tag. -/
structure Image where
  seq : Nat
  core : Core
  requests : List (Nat × Request)
  pool : List Host.Cell
  poison : List (Nat × Bool)
  rels : List (Nat × List Rel)
  jcts : List (Nat × JctObj)
  race : Word
  miles : List Word
  origin : Nat
  sealed : Bool
  depth : Nat
  base : Nat
  baseTag : Nat
  tag : Nat
deriving DecidableEq, Repr

/-- A save or load command of an image engine (R259 to R265): its target, its record's address and the copy read at issue, its issuer,
its bytes written or read, the images of its chain that the target holds, the image's sequence number, the target's freeze, cycles
streamed, whether a steward issued it, the status of a command that does not begin (R261), and the image of a save that has written part
of it. -/
structure ImgCmd where
  id : Nat
  core : Nat
  load : Bool
  record : Word
  data : Nat
  ctx : Nat
  super : Bool
  issuer : Nat
  desc : CtxDesc
  running : Bool := false
  done : Nat := 0
  applied : Nat := 0
  seqNo : Nat := 0
  freezeNo : Nat := 0
  cycles : Nat := 0
  timedOut : Bool := false
  steward : Bool := false
  refused : Option Nat := none
  image : Option Image := none
  clock : Clock := []
deriving DecidableEq, Repr

/-- A cluster (R159, R243, R260). -/
structure Cluster where
  slots : List (Nat × Graph) := []
  tlb : List TlbEntry := []
  images : List ImgCmd := []
  paused : List ImgCmd := []
deriving DecidableEq, Repr

/-- A Lesan connection to a node (R277). -/
structure Conn where
  sent : Nat := 0
  acked : Nat := 0
  received : Nat := 0
  tries : Nat := 0
  down : Bool := false
  unacked : List (Nat × Nat × Nat × Nat × List Byte) := []
deriving DecidableEq, Repr

/-- What hardware reports to a steward or to the host (R27, R49, R227, R238, R261, R274, R280). -/
inductive Report
  /-- with both sets of causes, as TSAVE0 to TSAVE7 hold them -/
  | escalation (core t : Nat) (saved : List Word)
  | launchWrite (serial tag : Nat) (addr : Word) (cause : Cause)
  | spillFull (ctx : Nat)
  | meeting (obj : Nat) (cause : Cause)
  | image (core status record : Nat)
  | watchdog (die : Nat)
  | thermal (die : Nat)
  | error (u : UnitName) (corrected : Bool)
  | answer (core status : Nat)
  | outOfService
  /-- an access of a host core that was not performed (R177, R464) -/
  | accessFault (host pa : Nat)
deriving DecidableEq, Repr

/-- Which agent moves next; the schedule is data, so that every order of moves is some schedule. -/
inductive Act
  /-- the track tries to issue -/
  | issue (core t : Nat)
  /-- the track issues, and the data of its load comes back later (LOAD_RESPONSE) -/
  | issueSlow (core t : Nat)
  | event (i : Instr)
  /-- a steward's own THAW (or THAW.V) of a core, and its own IMG.SAVE or IMG.LOAD of a core with a record in a context (R247) -/
  | stewardThaw (core : Nat) (vacate : Bool)
  | stewardImage (load : Bool) (core ctx : Nat) (record : Word)
  /-- a translation cache drops an entry for lack of room (R243): a core's, a cluster's, a die's -/
  | dropCore (core index : Nat)
  | dropCluster (cluster index : Nat)
  | dropDie (die index : Nat)
  /-- the steward has completed its bring-up, and begins the test of a unit (R273 step 4, R281) -/
  | stewardReady (die : Nat)
  | stewardTest (u : UnitName)
  /-- the boot ROM copies bytes of the flash to LPDDR6, from an address on, and starts host core 0 (R273 step 2) -/
  | bootCopy (pa len : Nat)
  /-- symbols of a codeword of a pool have changed (R183): core, stripe, byte lane, banks and what is added to each -/
  | poolUpset (core stripe lane : Nat) (wrong : List (Nat × Nat))
deriving DecidableEq, Repr

/-- The package. `cur`, `schedule`, `tick` and `nextId` are the model's own. -/
structure State where
  /-- core and track of the instruction that `exec` performs -/
  cur : Nat × Nat := (0, 0)
  schedule : List Act := []
  /-- whether the load in progress gets its data later -/
  slow : Bool := false
  /-- numbers free choices (log entry 2) -/
  tick : Nat := 0
  /-- numbers commands, waits, trips, launches -/
  nextId : Nat := 4096
  mem : List Host.Cell := []
  poison : List (Nat × Bool) := []
  cores : List (Nat × Core) := []
  clusters : List (Nat × Cluster) := []
  dies : List (Nat × Die) := []
  time : Nat := 0
  lq : List (Nat × Word) := []
  launches : List (Nat × Launch) := []
  ready : List Ready := []
  gangs : List Gang := []
  conts : List (Nat × Cont) := []
  /-- per context: trips started, and RACESTAT's lost, gap, races -/
  tripCount : List (Nat × Nat) := []
  racestat : List (Nat × Word) := []
  /-- slots of each context's spill area in use -/
  spilled : List (Nat × List Nat) := []
  rels : List (Nat × List Rel) := []
  jcts : List (Nat × JctObj) := []
  bars : List (Nat × BarObj) := []
  meets : List (Nat × MeetObj) := []
  /-- closed meetings whose object has been opened afresh, and of which a round is not written yet or a MEET.WAIT waits still (R228, R397) -/
  oldMeets : List (Nat × MeetObj) := []
  /-- proxies known at an object that has no open meeting: the object, their node and their offset (R230) -/
  farProxies : List (Nat × Nat × Nat) := []
  hostClocks : List (Nat × Clock) := []
  hostValues : List (Nat × Word) := []
  /-- per host core: releases that its loads have seen, and what its last release fence released (R188, R369) -/
  hostPend : List (Nat × List Rel) := []
  hostFence : List (Nat × Clock) := []
  images : List (Nat × Image) := []
  imageSeq : Nat := 0
  reloc : List (Nat × Nat) := []
  rmbase : Word := 0
  rmnode : Word := 0
  conns : List (Nat × Conn) := []
  requests : List (Nat × Request) := []
  /-- packets sent: kind and packet -/
  outbox : List (Nat × LesanPkt) := []
  ethDropped : Nat := 0
  portctl : Word := 0
  portctx : Word := 0
  portOut : List PortRec := []
  powerHigh : Bool := false
  /-- TIME of the sample that raised it (R20) -/
  powerFrom : Nat := 0
  /-- power samples in a row below 3,100 W (R275) -/
  powerLow : Nat := 0
  tripped : Bool := false
  cxlDown : List Nat := []
  ethDown : List Nat := []
  testing : List UnitName := []
  /-- errors that a unit's test has found transient (R281) -/
  transients : Nat := 0
  /-- the boot ROM has started host core 0 (R273) -/
  booted : Bool := false
  /-- cores that a band's test has frozen (R281) -/
  testFroze : List Nat := []
  /-- gang halt requests on their way (R293): core and track -/
  gangHalts : List (Nat × Nat) := []
  hostMap : List (Nat × Nat) := []
  /-- images of host cores that wait for a core to fall vacant (R282) -/
  displaced : List Nat := []
  reports : List Report := []
deriving DecidableEq, Repr

/-- The package right after module reset (R273 step 1): every core vacant; grids, pools, codebooks and crossings zero; every
register at the value its table gives, which the offset-indexed blocks have as the value of an unlisted offset. -/
def State.reset : State := {}

end Sys2Proof.Machine
end

