-- ==== Sys2Proof/Machine/Space.lean ====
section
/-!
DEFINITION. Units and places: access to the parts of the state, the physical address map (R177), the bytes behind it, poison
(R182), windows (R179) and Translate (R239 to R244).
-/
namespace Sys2Proof.Machine

/-! Parts of the state. -/

def State.core (s : State) (c : Nat) : Core := mget {} c s.cores
def State.setCore (s : State) (c : Nat) (k : Core) : State := { s with cores := mput c k s.cores }
def State.modCore (s : State) (c : Nat) (f : Core → Core) : State := s.setCore c (f (s.core c))
def Core.track (k : Core) (t : Nat) : Track := mget {} t k.tracks
def Core.setTrack (k : Core) (t : Nat) (tr : Track) : Core := { k with tracks := mput t tr k.tracks }
def State.track (s : State) (c t : Nat) : Track := (s.core c).track t
def State.setTrack (s : State) (c t : Nat) (tr : Track) : State := s.modCore c (·.setTrack t tr)
def State.modTrack (s : State) (c t : Nat) (f : Track → Track) : State := s.setTrack c t (f (s.track c t))
def State.cluster (s : State) (n : Nat) : Cluster := mget {} n s.clusters
def State.modCluster (s : State) (n : Nat) (f : Cluster → Cluster) : State :=
  { s with clusters := mput n (f (s.cluster n)) s.clusters }
def State.die (s : State) (n : Nat) : Die := mget {} n s.dies
def State.modDie (s : State) (n : Nat) (f : Die → Die) : State := { s with dies := mput n (f (s.die n)) s.dies }

/-- The core and track of the instruction in progress, and a change to that track. -/
def State.me (s : State) : Track := s.track s.cur.1 s.cur.2
def State.modMe (s : State) (f : Track → Track) : State := s.modTrack s.cur.1 s.cur.2 f
def State.myCore (s : State) : Core := s.core s.cur.1
def State.modMyCore (s : State) (f : Core → Core) : State := s.modCore s.cur.1 f

/-- Die and cluster of a core (R12). -/
def dieOf (core : Nat) : Nat := core / 128
def clusterOf (core : Nat) : Nat := core / 16

/-- A number no other command, wait, trip or launch has. -/
def State.fresh (s : State) : Nat × State := (s.nextId, { s with nextId := s.nextId + 1 })

/-- A steward register of a die by offset (R271, R299): SAGE resets to 2^20, SLCAP to 1, the rest to 0. -/
def stewReset (off : Nat) : Word := if off = 0x28 then 0x100000#64 else if 0x100 ≤ off ∧ off < 0x500 then 1#64 else 0#64
def Die.reg (d : Die) (off : Nat) : Word := mget (stewReset off) off d.stew
def State.stew (s : State) (die off : Nat) : Word := (s.die die).reg off
def State.setStew (s : State) (die off : Nat) (v : Word) : State := s.modDie die fun d => { d with stew := mput off v d.stew }

/-! The physical map. -/

/-- What a physical address names (R177). -/
inductive Area
  | scratch (core off : Nat)
  | sync (die off : Nat)
  | device (off : Nat)
  | hbm (die off : Nat)
  | lpddr (off : Nat)
  | cxl (port off : Nat)
  | remote (slot off : Nat)
  | reserved
deriving DecidableEq, Repr

def hbmSize : Nat := 0x2400000000
def hbmBase (die : Nat) : Nat := 0x1000000000 + die * hbmSize
def scratchPa (core off : Nat) : Nat := 0x400000000 + core * 0x100000 + off
def syncPa (die off : Nat) : Nat := 0x800000000 + die * 0x10000000 + off

/-- The ranges of R177. -/
def area (pa : Nat) : Area :=
  if pa < 0x400000000 then .reserved
  else if pa < 0x420000000 then .scratch ((pa - 0x400000000) / 0x100000) ((pa - 0x400000000) % 0x100000)
  else if pa < 0x800000000 then .reserved
  else if pa < 0x840000000 then .sync ((pa - 0x800000000) / 0x10000000) ((pa - 0x800000000) % 0x10000000)
  else if pa < 0xF00000000 then .reserved
  else if pa < 0x1000000000 then .device (pa - 0xF00000000)
  else if pa < 0xA000000000 then .hbm ((pa - 0x1000000000) / hbmSize) ((pa - 0x1000000000) % hbmSize)
  else if pa < 0x10000000000 then .reserved
  else if pa < 0x20000000000 then .lpddr (pa - 0x10000000000)
  else if pa < 0x1000000000000 then .reserved
  else if pa < 0x5000000000000 then .cxl (pa / 0x1000000000000 - 1) (pa % 0x1000000000000)
  else if pa < 0x8000000000000 then .reserved
  else if pa < 0x10000000000000 then .remote ((pa - 0x8000000000000) / 0x10000000000) (pa % 0x10000000000)
  else .reserved

/-- S of the pool word in force on a core; 0 where it has no current context (R177, R179). -/
def Core.scratch (k : Core) : Nat := if k.ctx.isSome && !k.departed then k.pool % 16 * 0x10000 else 0
/-- P of the pool word in force (R73). -/
def Core.parks (k : Core) : Nat := k.pool / 16 % 64

/-- The overflow area of a die's sync memory: its size in bytes and its physical base (R459). -/
def State.syncArea (s : State) (die : Nat) : Nat × Nat :=
  let r := s.stew die 0x40
  (fld r 6 0 * 0x200000, fld r 51 21 * 0x200000)

/-- Whether an offset of a die's sync memory is backed (R459). -/
def State.syncBacked (s : State) (die off : Nat) : Bool := off < 0x400000 + (s.syncArea die).1

/-! Bytes. -/

/-- Where a byte's contents stand: sync memory beyond the SRAM stands in the overflow area's HBM4 (R459). -/
def State.loc (s : State) (pa : Nat) : Nat :=
  match area pa with
  | .sync d o => if o < 0x400000 then pa else (s.syncArea d).2 + (o - 0x400000)
  | _ => pa

/-- A byte; one that nothing has written reads 0 (R180 for the pools; log entry 5 for the rest). -/
def State.byte (s : State) (pa : Nat) : Byte := mget 0 (s.loc pa) s.mem

/-- `n` bytes from `pa` up, little-endian (R1). -/
def State.bytes (s : State) (pa : Nat) : Nat → Nat
  | 0 => 0
  | n + 1 => (s.byte pa).toNat + 256 * s.bytes (pa + 1) n

/-- Puts a number in a rising list of numbers. -/
def insertNat (n : Nat) : List Nat → List Nat
  | [] => [n]
  | a :: t => if n < a then n :: a :: t else if n = a then a :: t else a :: insertNat n t

/-- Writes a byte; a pool byte sets its block's dirty bit (R262). -/
def State.setByte (s : State) (pa : Nat) (b : Byte) : State :=
  let s := { s with mem := mset 0 (s.loc pa) b s.mem }
  match area pa with
  | .scratch c o => s.modCore c fun k => { k with dirtyBlocks := insertNat (o / 4096) k.dirtyBlocks }
  | _ => s

/-- Writes the `n` low bytes of `v`. -/
def State.setBytes (s : State) (pa : Nat) : Nat → Nat → State
  | 0, _ => s
  | n + 1, v => (s.setByte pa (BitVec.ofNat 8 v)).setBytes (pa + 1) n (v / 256)

/-- Writes the masked bits of a granule: whole bytes, or the nibble of a 4-bit element (R110, R175). -/
def State.setMasked (s : State) (pa : Nat) : Nat → Nat → Nat → State
  | 0, _, _ => s
  | n + 1, v, m =>
    let mb := m % 256
    let old := (s.byte pa).toNat
    let s := if mb = 0 then s else s.setByte pa (BitVec.ofNat 8 (Nat.lor (Nat.land old (255 - mb)) (Nat.land v mb % 256)))
    s.setMasked (pa + 1) n (v / 256) (m / 256)

/-- Whether the 64-byte line of a byte is poisoned (R181, R182). -/
def State.poisoned (s : State) (pa : Nat) : Bool := mget false (s.loc pa / 64) s.poison
def State.setPoison (s : State) (pa : Nat) (b : Bool) : State :=
  { s with poison := mset false (s.loc pa / 64) b s.poison }

/-- The remote-map entry of a slot, where it is valid (R278). -/
def State.remoteEntry (s : State) (slot : Nat) : Option RemoteEntry :=
  if fld s.rmnode 32 32 = 0 then none
  else
    let e := fld s.rmbase 51 15 * 0x8000 + slot * 16
    let flags := s.bytes (e + 4) 4
    let base := s.bytes (e + 8) 8
    if flags / 4 ≠ 0 ∨ flags % 2 = 0 ∨ base % 4096 ≠ 0 ∨ 2 ^ 52 ≤ base then none
    else some ⟨s.bytes e 4, base, flags / 2 % 2 == 1⟩

/-- The valid entries of the remote map, as a copy reads them at its start. -/
def State.remoteMap (s : State) : List (Nat × RemoteEntry) :=
  if fld s.rmnode 32 32 = 0 then []
  else (span 0 2048).filterMap fun i => (s.remoteEntry i).map fun e => (i, e)

/-- The entry that an access uses: one that it has read before, in `read`; else that of the map its command has read, else of the map as it
stands. -/
def State.entryFor (s : State) (map : Option (List (Nat × RemoteEntry))) (slot : Nat) (read : List (Nat × RemoteEntry) := []) :
    Option RemoteEntry :=
  match read.find? (·.1 == slot) with
  | some e => some e.2
  | none => match map with
    | some m => mfind slot m
    | none => s.remoteEntry slot

/-- Whether a physical address may be accessed at all (R177, R278, R459). -/
def State.backed (s : State) (pa : Nat) (write : Bool) (map : Option (List (Nat × RemoteEntry)) := none)
    (read : List (Nat × RemoteEntry) := []) : Bool :=
  match area pa with
  | .scratch c o => o < (s.core c).scratch
  | .sync d o => s.syncBacked d o
  | .device _ => false
  | .hbm d _ =>
    let (n, b) := s.syncArea d
    !(b ≤ pa && pa < b + n)
  | .lpddr _ => true
  | .cxl p o => o < Config.cxlBytes p
  | .remote slot _ => match s.entryFor map slot read with
    | some e => e.writable || !write
    | none => false
  | .reserved => false

/-! The Causeway (R11). Die 4 is the system die; link `l` below 4 joins compute dies `l` and `(l + 1) % 4`, link `4 + d` joins compute die
`d` and the system die. -/

/-- The links that traffic between two dies takes. -/
def linkRoute (a b : Nat) : List Nat :=
  if a = b then []
  else if a = 4 then [4 + b]
  else if b = 4 then [4 + a]
  else if (a + 2) % 4 = b then (if a % 2 = 0 then [0, 1] else [3, 0])
  else if (a + 1) % 4 = b then [a]
  else [b]

/-- Whether traffic between two dies waits: a link of its route is under test (R281). -/
def State.routeTested (s : State) (a b : Nat) : Bool := (linkRoute a b).any fun l => s.testing.contains (.causeway l)

/-- The die at which a physical address is served (R181, R205). -/
def homeDie (pa : Nat) : Nat :=
  match area pa with
  | .scratch c _ => dieOf c
  | .sync d _ => d
  | .hbm d _ => d
  | .device _ => 4 | .lpddr _ => 4 | .cxl _ _ => 4 | .remote _ _ => 4 | .reserved => 4

/-- Whether an access from a die waits for a test (R281): of its CXL port, or of a link on its way. -/
def State.underTest (s : State) (die pa : Nat) : Bool :=
  (match area pa with
    | .cxl p _ => s.testing.contains (.cxl p)
    | _ => false)
  || s.routeTested die (homeDie pa)

/-! Who makes an access, and the windows. -/

/-- An accessing agent: its core (its die's registers and caches serve it), context, privilege, the context's descriptor, its
agent number and clock, its region (R193), its core and unit if it is an engine, whether it is a unit of the die, which no core's window or translation
cache serves, the remote map it uses where that is not the present one, and the map's entries that its requests under way use (R278). -/
structure Who where
  core : Nat
  ctx : Nat
  super : Bool
  desc : CtxDesc
  agent : Nat
  clock : Clock
  region : Nat := 0
  engine : Option (Nat × Nat) := none
  fromDie : Bool := false
  /-- it acts for a core's context from outside the core, so the windows serve it but the core's engines do not hold its bytes (R259) -/
  outside : Bool := false
  map : Option (List (Nat × RemoteEntry)) := none
  slots : List (Nat × RemoteEntry) := []
  /-- it belongs to no context, so its accesses enter no region -/
  plain : Bool := false
deriving DecidableEq, Repr

/-- It is no unit of its core: the core's translation cache and its requests are not its own. -/
def Who.apart (w : Who) : Bool := w.fromDie || w.outside

/-- The result of finding the physical address of an access. -/
inductive Found
  | ok (pa : Nat) (s : State)
  | fault (c : Cause) (s : State)

/-- R176: bits 63:57 equal bit 56. -/
def canonical (va : Nat) : Bool := va / 2 ^ 56 % 2 ^ 8 == 0 || va / 2 ^ 56 % 2 ^ 8 == 255

/-- The window an address lies in: 0 sync, 1 core, 2 local (R176). -/
def windowOf (va : Nat) : Option Nat :=
  if va / 2 ^ 48 = 0xFD then some 0 else if va / 2 ^ 48 = 0xFE then some 1 else if va / 2 ^ 48 = 0xFF then some 2 else none

/-- A window address (R179); none is WINDOW. -/
def windowPa (w : Who) (s : State) (win va : Nat) : Option Nat :=
  let o := va % 2 ^ 48
  let enabled := bitAt w.desc.flags (3 - win)
  if !enabled then none
  else match win with
  | 0 => if o / 2 ^ 28 < 4 ∧ s.syncBacked (o / 2 ^ 28) (o % 2 ^ 28) then some (syncPa (o / 2 ^ 28) (o % 2 ^ 28)) else none
  | 1 =>
    let c := o / 2 ^ 20
    if !w.fromDie ∧ c < 512 ∧ o % 2 ^ 20 < (s.core c).scratch ∧ (s.core c).ctx = some w.ctx then some (scratchPa c (o % 2 ^ 20))
    else none
  | _ => if !w.fromDie ∧ o < (s.core w.core).scratch then some (scratchPa w.core o) else none

/-! Translation. -/

inductive AccKind | read | write | fetch | rmw
deriving DecidableEq, Repr

def AccKind.writes : AccKind → Bool
  | .read => false | .write => true | .fetch => false | .rmw => true
def AccKind.reads : AccKind → Bool
  | .read => true | .write => false | .fetch => false | .rmw => true

/-- log2 of the page that a leaf at a level maps (R239). -/
def pageShift (level : Nat) : Nat := 48 - 9 * level

/-- log2 of what a cached translation covers (R239, R240). -/
def TlbEntry.shift (e : TlbEntry) : Nat := if e.run then 16 else pageShift e.level

/-- Whether a cached leaf serves a context's address: its context, or any when the entry is global (R243). -/
def TlbEntry.serves (e : TlbEntry) (ctx va : Nat) : Bool :=
  (e.ctx == ctx || bitAt e.entry.toNat 5) && e.va / 2 ^ e.shift == va / 2 ^ e.shift

/-- The leaf entry that a cached translation gives for an address: of a run, the one of the address's page. -/
def TlbEntry.leafAt (e : TlbEntry) (va : Nat) : Word :=
  if e.run then setFld e.entry 51 12 (fld e.entry 51 12 / 16 * 16 + va / 4096 % 16) else e.entry

/-- Whether a cached leaf serves an agent's access. -/
def Who.hits (w : Who) (va : Nat) (write : Bool) (e : TlbEntry) : Bool :=
  e.serves w.ctx va && (!write || bitAt e.entry.toNat 7) && !w.apart

/-- The cached leaf for an access: the core's cache, then the cluster's; one without dirty set serves no write (R242). A unit of the
die uses neither. -/
def State.cached (s : State) (w : Who) (va : Nat) (write : Bool) : Option TlbEntry :=
  match (s.core w.core).tlb.find? (w.hits va write) with
  | some e => some e
  | none => (s.cluster (clusterOf w.core)).tlb.find? (w.hits va write)

/-- What a walk ends in. -/
inductive Walk
  | leaf (e : Word) (level pa : Nat) (seen : List TlbEntry)
  | fault (c : Cause) (seen : List TlbEntry)

/-- The walk from level `l` on, `n` levels left (R239, R241). A pointer that the die's walk cache holds is taken from there. -/
def walkFrom (s : State) (w : Who) (va : Nat) : Nat → Nat → Nat → List TlbEntry → Walk
  | 0, _, _, seen => .fault .protect seen
  | n + 1, l, table, seen =>
    let at_ := table + va / 2 ^ (48 - 9 * l) % 512 * 8
    let known := (s.die (dieOf w.core)).walks.find? fun e =>
      e.ctx == w.ctx && e.level == l && e.va / 2 ^ pageShift l == va / 2 ^ pageShift l
    let inMem : Bool := match area at_ with
      | .hbm _ _ => true | .lpddr _ => true
      | _ => false
    match known with
    | some e => walkFrom s w va n (l + 1) (fld e.entry 51 12 * 4096) seen
    | none =>
      if !inMem then .fault .protect seen
      else if s.poisoned at_ then .fault .poison seen
      else
        let e := BitVec.ofNat 64 (s.bytes at_ 8)
        if fld e 0 0 = 0 then .fault .notPresent seen
        else if fld e 63 52 ≠ 0 then .fault .protect seen
        else if fld e 3 1 = 0 then
          if fld e 11 4 ≠ 0 ∨ l = 4 then .fault .protect seen
          else walkFrom s w va n (l + 1) (fld e 51 12 * 4096) (⟨w.ctx, va, l, e, false⟩ :: seen)
        else if l < 2 ∨ (fld e 51 12 * 4096) % 2 ^ pageShift l ≠ 0 then .fault .protect seen
        else .leaf e l at_ seen

/-- The addresses of the table entries that a walk reads in memory, from level `l` on. -/
def walkReads (s : State) (w : Who) (va : Nat) : Nat → Nat → Nat → List Nat
  | 0, _, _ => []
  | n + 1, l, table =>
    let at_ := table + va / 2 ^ (48 - 9 * l) % 512 * 8
    match (s.die (dieOf w.core)).walks.find? fun e => e.ctx == w.ctx && e.level == l && e.va / 2 ^ pageShift l == va / 2 ^ pageShift l with
    | some e => walkReads s w va n (l + 1) (fld e.entry 51 12 * 4096)
    | none =>
      let e := BitVec.ofNat 64 (s.bytes at_ 8)
      at_ :: (if fld e 3 0 = 1 then walkReads s w va n (l + 1) (fld e 51 12 * 4096) else [])

/-- The permissions of a leaf (R241), and R185's rule for raw mappings. -/
def leafAllows (w : Who) (k : AccKind) (e : Word) : Bool :=
  let b := fun i => bitAt e.toNat i
  (!b 2 || b 1) && (w.super || b 4) && !(w.super && k == .fetch && b 4) && (!k.reads || b 1)
    && (!k.writes || (b 2 && !b 8)) && (k != .fetch || b 3) && !(fld e 11 9 == 7 && !w.super)

/-- Byte placement within a page under a form (R184). -/
def formPlace (form off : Nat) : Nat :=
  if form = 5 then off / 128 * 128 + Nat.xor (off % 128) (off / 128 % 8 * 16)
  else if form = 6 then off / 64 * 64 + Nat.xor (off % 64) (off / 64 % 4 * 16)
  else off

/-- A frame's form in the frame table of a die; plain while SFTAB is 0 (R185). -/
def State.frameForm (s : State) (die pa : Nat) : Nat :=
  let b := fld (s.stew die 0x20) 51 12
  if b = 0 then 0 else (s.byte (b * 4096 + pa / 4096)).toNat

/-- The checks of a leaf after the walk, and the placement (R241). -/
def placeLeaf (w : Who) (k : AccKind) (va : Nat) (e : Word) (level : Nat) (s : State) : Cause ⊕ Nat :=
  if !leafAllows w k e then .inl .protect
  else
    let off := va % 2 ^ pageShift level
    let flat := fld e 51 12 * 4096 + off
    let form := fld e 11 9
    if form ≠ 7 ∧ s.frameForm (dieOf w.core) flat ≠ form then .inl .form
    else
      .inr (flat / 4096 * 4096 + (if form = 7 then flat % 4096 else formPlace form (flat % 4096)))

/-- Uses a leaf whose accessed and dirty bits stand as the access needs them. -/
def useLeaf (w : Who) (k : AccKind) (va : Nat) (e : Word) (level : Nat) (s : State) : Cause ⊕ Nat :=
  match placeLeaf w k va e level s with
  | .inl c => .inl c
  | .inr pa => if !s.backed pa k.writes w.map w.slots then .inl .protect else .inr pa

/-- Counts an event of a core's event counters (R298), `n` times. -/
def Core.count (k : Core) (code n : Nat) : Core :=
  if k.frozen then k
  else
    { k with evc := k.evc.map fun (i, r) =>
        if fld r 55 48 = code ∧ code ≠ 0 then
          let c := fld r 47 0 + n
          (i, setFld (if 2 ^ 48 ≤ c then setFld r 56 56 1 else r) 47 0 c)
        else (i, r) }

/-- Whether a level-4 entry stands in a run of 16 that form a 64 KiB page (R240). -/
def State.isRun (s : State) (e : Word) (at_ : Nat) : Bool :=
  let first := at_ / 128 * 128
  (span 0 16).all fun i => BitVec.ofNat 64 (s.bytes (first + 8 * i) 8) == setFld e 51 12 (fld e 51 12 / 16 * 16 + i)

/-- Caches a leaf in the core's and the cluster's caches, with its run where the device does so (R240), and the walk's pointers in the
die's. -/
def State.cacheLeaf (s : State) (w : Who) (va : Nat) (e : Word) (level at_ : Nat) (seen : List TlbEntry) : State :=
  let ent : TlbEntry := ⟨w.ctx, va, level, e, level == 4 && Config.cacheRun (va / 65536) && s.isRun e at_⟩
  let keep := fun (l : List TlbEntry) => l.filter fun x => !(x.serves w.ctx va)
  let s := if w.apart then s else s.modCore w.core fun k => { k with tlb := (ent :: keep k.tlb).take 256 }
  let s := if w.apart then s else s.modCluster (clusterOf w.core) fun c => { c with tlb := (ent :: keep c.tlb).take 4096 }
  s.modDie (dieOf w.core) fun d => { d with walks := seen ++ d.walks }

/-- A walk with everything it does: accessed and dirty are set in the entry (R242), before a reserved range raises PROTECT (R241). -/
def State.walk (s : State) (w : Who) (va : Nat) (k : AccKind) : Found :=
  let s := if w.apart then s else s.modCore w.core (·.count 0x21 1)
  match walkFrom s w va 5 0 w.desc.root.toNat [] with
  | .fault c seen => .fault c (s.modDie (dieOf w.core) fun d => { d with walks := seen ++ d.walks })
  | .leaf e level at_ seen =>
    match placeLeaf w k va e level s with
    | .inl c => .fault c s
    | .inr pa =>
      let e' := setFld (if k.writes then setFld e 7 7 1 else e) 6 6 1
      let s := (if e' = e then s else s.setBytes at_ 8 e'.toNat).cacheLeaf w va e' level at_ seen
      if !s.backed pa k.writes w.map w.slots then .fault .protect s else .ok pa s

/-- A translation that the core's own cache does not hold is counted as its miss (R298); one that the cluster's cache serves is put into
the core's. -/
def State.missed (s : State) (w : Who) (va : Nat) (write : Bool) : State :=
  if w.apart || (s.core w.core).tlb.any (w.hits va write) then s
  else
    let new := match s.cached w va write with
      | some e => [e]
      | none => []
    s.modCore w.core fun k => { k with tlb := (new ++ k.tlb).take 256 }.count 0x20 1

/-- Translate (R241). -/
def State.translate (s : State) (w : Who) (va : Nat) (k : AccKind) : Found :=
  if !canonical va then .fault .protect s
  else
    let s := s.missed w va k.writes
    match s.cached w va k.writes with
    | some e =>
      match useLeaf w k va (e.leafAt va) e.level s with
      | .inl c => .fault c s
      | .inr pa => .ok pa s
    | none => s.walk w va k

/-- Whether a translation waits: it needs a walk, and an entry that the walk reads lies behind a link under test (R281). -/
def State.walkHeld (s : State) (w : Who) (va : Nat) (k : AccKind) : Bool :=
  !s.testing.isEmpty && canonical va && (windowOf va).isNone && (s.cached w va k.writes).isNone
    && (walkReads s w va 5 0 w.desc.root.toNat).any (s.underTest (dieOf w.core))

/-- The physical address of an access: a window's (R179), or Translate's. A fetch from a window raises WINDOW. -/
def State.find (s : State) (w : Who) (va : Nat) (k : AccKind) : Found :=
  if !canonical va then .fault .protect s
  else match windowOf va with
    | none => s.translate w va k
    | some win =>
      if k = .fetch then .fault .window s
      else match windowPa w s win va with
        | some pa => .ok pa s
        | none => .fault .window s

end Sys2Proof.Machine
end

