-- ==== Sys2Proof/Machine/Order.lean ====
section
/-!
DEFINITION. Happens-before as vector clocks (R187 to R196), and the conflict directories with the race check (R193 to R199).
-/
namespace Sys2Proof.Machine

/-- The later of two clocks, agent by agent. -/
def Clock.join (a b : Clock) : Clock := b.foldl (fun c e => mput e.1 (max e.2 (mget 0 e.1 c)) c) a

/-- The die and cluster of a location. -/
def Loc.die? : Loc → Option Nat
  | .core n => some (dieOf n) | .cluster n => some (n / 8) | .die n => some n
  | .host _ => none | .remote => none
def Loc.cluster? : Loc → Option Nat
  | .core n => some (clusterOf n) | .cluster n => some n
  | .die _ => none | .host _ => none | .remote => none
def Loc.core? : Loc → Option Nat
  | .core n => some n
  | .cluster _ => none | .die _ => none | .host _ => none | .remote => none

/-- Whether B lies in A's instance of a scope (R188); a track's own accesses need no edge. -/
def scopeHolds (sc : Scope) (a b : Loc) : Bool :=
  match sc with
  | .track => false
  | .core => a.core?.isSome && a.core? == b.core?
  | .cluster => a.cluster?.isSome && a.cluster? == b.cluster?
  | .die => a.die?.isSome && a.die? == b.die?
  | .package => a.die?.isSome && b.die?.isSome
  | .system => true

/-- What an acquire at a scope takes from releases (R191). -/
def acquired (me : Loc) (sc : Scope) (rels : List Rel) : Clock :=
  rels.foldl (fun c r => if scopeHolds r.scope r.loc me && scopeHolds sc me r.loc then Clock.join c r.clock else c) []

/-- The epoch in which an agent's accesses now fall. A release, and the issue of a command, a launch or a child, ends one: what comes after is
not part of what is passed on. -/
def Who.epoch (w : Who) : Nat := mget 0 w.agent w.clock + 1

/-- What an agent releases now: everything it knows, and its own accesses up to here. -/
def Who.released (w : Who) : Clock := mput w.agent w.epoch w.clock

/-! Directories. -/

/-- Where the entries of a byte are kept (R181, R197): a core for its scratchpad, else a die. -/
inductive Home | core (n : Nat) | die (n : Nat)
deriving DecidableEq, Repr

def homeOf (pa : Nat) : Home :=
  match area pa with
  | .scratch c _ => .core c
  | .sync d _ => .die d
  | .hbm d _ => .die d
  | _ => .die (pa / 64 % 4)

def State.dirAt (s : State) : Home → List DirEntry
  | .core n => (s.core n).dir
  | .die n => (s.die n).dir

def State.setDir (s : State) (h : Home) (l : List DirEntry) : State :=
  match h with
  | .core n => s.modCore n fun k => { k with dir := l }
  | .die n => s.modDie n fun d => { d with dir := l }

def Home.room : Home → Nat
  | .core _ => 16384
  | .die _ => 2000000

/-- The bytes of an access as bits of its line's masks. -/
def byteMask (pa size : Nat) : Nat := (2 ^ size - 1) * 2 ^ (pa % 64) % 2 ^ 64

/-- A mask of bytes, widened to the whole granules that it touches (R193). -/
def granuleMask (m : Nat) : Nat := (span 0 8).foldl (fun a i => if m / 2 ^ (8 * i) % 256 = 0 then a else a + 255 * 2 ^ (8 * i)) 0

/-- The unit of the grid engine under which GSAVE and GLOAD act: R151 does not compare their ranges. -/
def rawUnit : Nat := 24

/-- Two units are one engine (R187). -/
def sameEngine (a b : Option (Nat × Nat)) : Bool :=
  let one := fun (e : Nat × Nat) => (e.1, if e.2 = rawUnit then 16 else e.2)
  a.isSome && a.map one == b.map one

/-- Pairs of accesses that R196, R151 or R152 orders, in the scratchpad of the engine's core, byte by byte: an access by the core's own
agents after a channel's write, as the channel's milestone has passed what it has written; one engine command after another; and a track's
store after an engine's read. -/
def passed (w : Who) (pa size : Nat) (write : Bool) (e : DirEntry) (asWrite : Bool) : Bool :=
  match area pa, e.engine with
  | .scratch c _, some (k, unit) =>
    c == k && c == w.core && !w.apart && Nat.land (byteMask pa size) (if asWrite then e.wmask else e.rmask) != 0
      && ((asWrite && decide (8 ≤ unit ∧ unit < 16))
        || (unit != rawUnit && ((!asWrite && write) || (match w.engine with
          | some u => u.2 != rawUnit
          | none => false))))
  | _, _ => false

/-- Pairs of accesses that another rule orders: one engine after itself (R187), and what R196, R151 and R152 order. -/
def ordered (w : Who) (pa size : Nat) (write : Bool) (e : DirEntry) (asWrite : Bool) : Bool :=
  sameEngine w.engine e.engine || passed w pa size write e asWrite

/-- An entry that an agent's access does not come after by what the agent knows. -/
def unknownTo (w : Who) (pa : Nat) (e : DirEntry) : Bool :=
  e.ctx == w.ctx && e.line == pa / 64 && e.agent != w.agent && decide (mget 0 e.agent w.clock < e.epoch)

/-- Whether an access races with an entry (R194): a concurrent region touched the granule, and one of the two writes; or a sync access that
R210 or R195 makes conflict touched it. -/
def conflicts (w : Who) (pa size : Nat) (write : Bool) (e : DirEntry) : Bool :=
  let g := granuleMask (byteMask pa size)
  unknownTo w pa e
    && ((Nat.land e.wmask g != 0 && !ordered w pa size write e true)
      || Nat.land e.smask g != 0
      || (write && Nat.land e.rmask g != 0 && !ordered w pa size write e false))

/-- What an access learns from the pairs that R196, R151 and R152 order: those are happens-before edges, and so transitive (R191). -/
def State.passedClock (s : State) (w : Who) (pa size : Nat) (write : Bool) : Clock :=
  (s.dirAt (homeOf pa)).foldl (fun c e =>
    if unknownTo w pa e && !sameEngine w.engine e.engine && (passed w pa size write e true || (write && passed w pa size write e false)) then
      Clock.join (Clock.join c e.clock) [(e.agent, e.epoch)]
    else c) []

/-- A track, or an engine's command, learns what happens before a point of it. -/
def State.informs (s : State) (w : Who) (c : Clock) : State :=
  if c.isEmpty || w.apart then s
  else match w.engine with
  | none => s.modTrack (w.agent / 4) (w.agent % 4) fun t => { t with clock := t.clock.join c }
  | some _ => s.modCore w.core fun k =>
    { k with
        streams := k.streams.map fun e => if e.2.id = w.agent then (e.1, { e.2 with clock := e.2.clock.join c }) else e
        gq := k.gq.map fun g => if g.id = w.agent then { g with clock := g.clock.join c } else g
        cbkCmds := k.cbkCmds.map fun g => if g.id = w.agent then { g with clock := g.clock.join c } else g
        chans := k.chans.map fun e => (e.1, { e.2 with queue := e.2.queue.map fun g =>
          if g.id = w.agent then { g with clock := g.clock.join c } else g }) }

def State.races (s : State) (w : Who) (pa size : Nat) (write : Bool) : Bool :=
  (s.dirAt (homeOf pa)).any (conflicts w pa size write)

/-- RACESTAT's fields (R198). -/
def State.raceReg (s : State) (ctx : Nat) : Word := mget 0 ctx s.racestat
def bump (w : Word) (hi lo n : Nat) : Word := setFld w hi lo (min (fld w hi lo + n) (2 ^ (hi + 1 - lo) - 1))

/-- A RACE trap has been raised in a context (R198). -/
def State.countRace (s : State) (ctx : Nat) : State := { s with racestat := mput ctx (bump (s.raceReg ctx) 63 48 1) s.racestat }

/-- The clocks of every agent that may still access in a context, and of all that may start one there: tracks with what their trips have
started, the engines' commands, trips that are ready with what they acquire, the launches of the context, the objects' combiners, and
the host's cores, which may launch. -/
def State.liveClocks (s : State) (ctx : Nat) : List Clock :=
  let relsOf := fun (l : List Rel) => l.map (·.clock)
  (s.cores.flatMap fun (_, k) =>
    (k.tracks.filterMap fun (_, t) => if t.trip.isSome && t.ctxid == ctx then some t.clock else none)
      ++ (k.gq.filterMap fun g => if g.ctx = ctx then some g.clock else none)
      ++ (k.cbkCmds.filterMap fun g => if g.ctx = ctx then some g.clock else none)
      ++ (k.streams.filterMap fun (_, g) => if g.ctx = ctx then some g.clock else none)
      ++ (k.chans.flatMap fun (_, ch) => ch.queue.filterMap fun g => if g.ctx = ctx then some g.clock else none))
    ++ (s.clusters.flatMap fun (_, k) => k.images.filterMap fun c => if c.ctx = ctx then some c.clock else none)
    ++ (s.ready.flatMap fun r => if r.trip.ctx = ctx then [(relsOf r.trip.acquires).foldl Clock.join []] else [])
    ++ (s.launches.flatMap fun (_, l) => if l.ctx = ctx ∧ l.phase ≠ .done ∧ l.phase ≠ .rejected then [(relsOf l.rels).foldl Clock.join []] else [])
    ++ (s.conts.flatMap fun (_, c) => if c.trip.ctx = ctx then [(relsOf c.rels).foldl Clock.join []] else [])
    ++ ((s.meets ++ s.oldMeets).filterMap fun (_, m) => if m.ctx = ctx ∧ m.status ≠ 0 then some m.clock else none)
    ++ (s.images.flatMap fun (_, i) => i.core.tracks.filterMap fun (_, t) => if t.trip.isSome && t.ctxid == ctx then some t.clock else none)
    ++ [s.hostClocks.foldl (fun c h => Clock.join c h.2) []]

/-- Whether two entries are those of one region and line: together they are one entry of the rule (R197). -/
def DirEntry.same (a b : DirEntry) : Bool := a.ctx == b.ctx && a.line == b.line && a.agent == b.agent && a.region == b.region

/-- A track's region that no sync access has closed. -/
def State.openRegion (s : State) (e : DirEntry) : Bool :=
  e.engine.isNone && (s.track (e.agent / 4) (e.agent % 4)).trip.isSome && (s.track (e.agent / 4) (e.agent % 4)).region == e.region

/-- Whether an entry is free (R197): its region has closed, and every agent that may still access in its context comes after it. -/
def State.entryFree (s : State) (l : List DirEntry) (e : DirEntry) : Bool :=
  !s.openRegion e && (l.filter e.same).all fun x => (s.liveClocks x.ctx).all fun c => decide (x.epoch ≤ mget 0 x.agent c)

/-- Entries that a directory holds: one for each region and line. -/
def dirCount : List DirEntry → Nat
  | [] => 0
  | e :: t => (if t.any e.same then 0 else 1) + dirCount t

/-- Makes room in a full directory (R197): entries that are free go; if there is none, an open entry of the directory's choice, whose
context loses coverage and whose cores count it (R298). -/
def State.evict (s : State) (h : Home) : State :=
  let l := s.dirAt h
  let live := l.filter fun e => !s.entryFree l e
  if live.length < l.length then s.setDir h live
  else
    let i := Config.evict s.tick % l.length
    let s := { s with tick := s.tick + 1 }
    match l[i]? with
    | none => s
    | some v =>
      let s := s.setDir h (l.filter fun e => !v.same e)
      { s with
          cores := s.cores.map fun (c, k) => (c, if k.ctx = some v.ctx then k.count 0x26 1 else k)
          racestat := mput v.ctx (setFld (bump (s.raceReg v.ctx) 31 0 1) 32 32 1) s.racestat }

/-- Adds bytes to the entry of an agent's region for a line, making one where there is none. -/
def State.enter (s : State) (w : Who) (pa size : Nat) (r wr sy : Bool) : State :=
  let h := homeOf pa
  let g := byteMask pa size
  let or1 := fun (m : Nat) (b : Bool) => if b then Nat.lor m g else m
  let new : DirEntry := ⟨w.ctx, pa / 64, w.agent, w.epoch, or1 0 r, or1 0 wr, or1 0 sy, w.engine, w.region, if w.engine.isSome then w.clock else []⟩
  let hit := fun (e : DirEntry) => e.same new && e.epoch == w.epoch
  if w.plain then s
  else if (s.dirAt h).any hit then
    s.setDir h ((s.dirAt h).map fun e => if hit e then
      { e with rmask := or1 e.rmask r, wmask := or1 e.wmask wr, smask := or1 e.smask sy } else e)
  else
    let s := if (s.dirAt h).length < h.room || (s.dirAt h).any new.same || dirCount (s.dirAt h) < h.room then s else s.evict h
    s.setDir h (new :: s.dirAt h)

/-- Enters a data access of at most eight bytes in its region: none is RACE (R194). -/
def State.region (s : State) (w : Who) (pa size : Nat) (write : Bool) : State × Bool :=
  if w.plain then (s, true)
  else if s.races w pa size write then (s, false)
  else ((s.informs w (s.passedClock w pa size write)).enter w pa size (!write) write false, true)

/-! Releases at bytes (R191). -/

/-- The releases that an acquire reading `n` bytes at `pa` may synchronise with. -/
def State.relsAt (s : State) (pa : Nat) : Nat → List Rel
  | 0 => []
  | n + 1 => mget [] (s.loc pa) s.rels ++ s.relsAt (pa + 1) n

/-- A write that is no atomic read-modify-write ends the releases at its bytes. -/
def State.endRels (s : State) (pa : Nat) : Nat → State
  | 0 => s
  | n + 1 => { s with rels := mset [] (s.loc pa) [] s.rels }.endRels (pa + 1) n

/-- A releasing read-modify-write adds its release at each of its bytes. -/
def State.addRel (s : State) (pa : Nat) (r : Rel) : Nat → State
  | 0 => s
  | n + 1 => { s with rels := mset [] (s.loc pa) (r :: mget [] (s.loc pa) s.rels) s.rels }.addRel (pa + 1) r n

end Sys2Proof.Machine
end

