-- ==== Sys2Proof/Machine/PoolCode.lean ====
section
/-!
DEFINITION. The pool's symbol code (R183): each byte lane of a 64-byte stripe is a codeword of 16 data symbols and two check symbols over
GF(2^8). Memory holds the symbols as they were written, `Core.upsets` what has since been added to them.
-/
namespace Sys2Proof.Machine

/-- Twice an element of GF(2^8) under 0x11D. -/
def gfDouble (a : Nat) : Nat := if a < 128 then 2 * a else Nat.xor (2 * a) 0x11D

/-- A product in GF(2^8), by the low `n` bits of the second factor. -/
def gfMulBits (a b : Nat) : Nat → Nat
  | 0 => 0
  | n + 1 => Nat.xor (if b % 2 = 1 then a else 0) (gfMulBits (gfDouble a) (b / 2) n)
def gfMul (a b : Nat) : Nat := gfMulBits a b 8

/-- The inverse of an element other than 0. -/
def gfInv (a : Nat) : Nat := ((span 1 255).find? fun b => gfMul a b == 1).getD 0

/-- The locator of a bank's symbol: 2 to its degree. Bank 0 has the highest degree, 17, and the check banks 16 and 17 have degrees 1 and
0 (log entry 56). -/
def bankLocator (bank : Nat) : Nat := (span 0 (17 - bank)).foldl (fun a _ => gfDouble a) 1

/-- The wrong symbols of a codeword, one value for each of the 18 banks. -/
def symbolErrors (l : List (Nat × Nat)) : List Nat :=
  (span 0 18).map fun b => l.foldl (fun a e => if e.1 = b then Nat.xor a (e.2 % 256) else a) 0

/-- The two syndromes of the generator (x − 1)(x − 2). -/
def syndromes (errs : List Nat) : Nat × Nat :=
  (errs.foldl Nat.xor 0, (errs.zipIdx.map fun e => gfMul e.1 (bankLocator e.2)).foldl Nat.xor 0)

/-- What a decode adds to the symbols, bank by bank, given the banks known to have failed: none where it cannot correct the codeword. -/
def decodeSymbols (known : List Nat) (s : Nat × Nat) : Option (List (Nat × Nat)) :=
  if s = (0, 0) then some []
  else match known with
    | [a, b] =>
      let (la, lb) := (bankLocator a, bankLocator b)
      let ea := gfMul (Nat.xor s.2 (gfMul s.1 lb)) (gfInv (Nat.xor la lb))
      some [(a, ea), (b, Nat.xor s.1 ea)]
    | _ => ((span 0 18).find? fun b => s.1 != 0 && gfMul s.1 (bankLocator b) == s.2).map fun b => [(b, s.1)]

/-- The banks of a core's pool that are served from their code: those that have failed, and those under test (R281). -/
def State.codedBanks (s : State) (core : Nat) : List Nat :=
  (span 0 18).filter fun b => (s.core core).banksFailed.contains b || s.testing.contains (.poolBank core b)

/-- A unit's error is reported to the steward. -/
def State.reportError (s : State) (u : UnitName) (corrected : Bool) : State := { s with reports := s.reports ++ [.error u corrected] }

/-- Decodes the codeword of a pool byte, where symbols of it have changed: the data it then holds, a report for each symbol corrected, or
a poisoned stripe. -/
def State.settleByte (s : State) (core off : Nat) : State :=
  let key := off / 64 * 4 + off % 4
  match mfind key (s.core core).upsets with
  | none => s
  | some l =>
    let errs := symbolErrors l
    let s1 := s.modCore core fun k => { k with upsets := mdel key k.upsets }
    match decodeSymbols (s.codedBanks core) (syndromes errs) with
    | none => (s1.setPoison (scratchPa core off) true).reportError (.poolBank core ((errs.findIdx? (· ≠ 0)).getD 0)) false
    | some fix =>
      let left := (span 0 16).filterMap fun b =>
        let e := fix.foldl (fun a f => if f.1 = b then Nat.xor a f.2 else a) (errs.getD b 0)
        if e = 0 then none else some (scratchPa core (off / 64 * 64 + 4 * b + off % 4), e)
      let s2 := left.foldl (fun (s : State) e => s.setByte e.1 (s.byte e.1 ^^^ BitVec.ofNat 8 e.2)) s1
      fix.foldl (fun s f => s.reportError (.poolBank core f.1) true) s2

/-- Decodes what an access of `size` bytes at a physical address reads. -/
def State.settle (s : State) (pa size : Nat) : State :=
  match area pa with
  | .scratch c o => if (s.core c).upsets.isEmpty then s else (span o size).foldl (fun s o => s.settleByte c o) s
  | _ => s

/-- Whole stripes are written anew: what had changed of their codewords is gone. -/
def Core.rewritten (k : Core) (off size : Nat) : Core :=
  { k with upsets := k.upsets.filter fun e => !(decide (off / 64 ≤ e.1 / 4) && decide (e.1 / 4 < (off + size) / 64)) }

/-- Decodes every codeword of a core's pool. -/
def State.settleAll (s : State) (core : Nat) : State :=
  (s.core core).upsets.foldl (fun s e => s.settleByte core (e.1 / 4 * 64 + e.1 % 4)) s

/-- Symbols of a codeword change. -/
def State.upset (s : State) (core stripe lane : Nat) (wrong : List (Nat × Nat)) : State :=
  s.modCore core fun k => { k with upsets := mupd [] (4 * stripe + lane % 4) (· ++ wrong) k.upsets }

end Sys2Proof.Machine
end

