-- ==== Sys2Proof/Machine/Ranges.lean ====
section
/-!
DEFINITION. Which scratchpad bytes the engines of a core still have to read or write: the held bytes of copies (R148), the ranges
of the overlap checker (R151, R152), and the busy rows of the grid (R96).
-/
namespace Sys2Proof.Machine

/-- A signed 64-bit word. -/
def sw (w : Word) : Int := w.toInt

/-- The low 64 bits of an integer, as an address. -/
def wrap (z : Int) : Nat := (z % (2 ^ 64 : Int)).toNat

/-- A physical address without any effect on the caches. -/
def State.peek (s : State) (w : Who) (va : Nat) (k : AccKind) : Option Nat :=
  match s.find w va k with
  | .ok pa _ => some pa
  | .fault _ _ => none

/-- The virtual addresses in `[lo, hi)` that name scratchpad byte `o` of core `c`: its window addresses, and addresses of
translated pages of that range (R148). -/
def State.names (s : State) (w : Who) (c o lo hi : Nat) : List Nat :=
  let win := [0xFF000000000000 + o, 0xFE000000000000 + c * 0x100000 + o]
  let pages := if (windowOf lo).isSome || hi ≤ lo then [] else
    (span (lo / 4096) ((hi - 1) / 4096 + 1 - lo / 4096)).flatMap fun p =>
      ([o % 4096, formPlace 5 (o % 4096), formPlace 6 (o % 4096)].map (p * 4096 + ·)).filter fun v =>
        s.peek w v .read == some (scratchPa c o)
  (win ++ pages).filter fun v => lo ≤ v && v < hi

/-! Copies. -/

def CopyCmd.total (c : CopyCmd) : Nat := c.cr.length * c.cr.rows

/-- Destination and source address of byte `i` of a copy (R146). -/
def CopyCmd.dstAddr (c : CopyCmd) (i : Nat) : Nat :=
  if c.cr.graph then wrap (c.cr.dst.toNat + i)
  else wrap (c.cr.dst.toNat + (i / c.cr.length) * sw c.cr.dstride + (i % c.cr.length))
def CopyCmd.srcAddr (c : CopyCmd) (i : Nat) : Nat :=
  wrap (c.cr.src.toNat + (i / c.cr.length) * sw c.cr.sstride + (i % c.cr.length))

/-- The index of the last row whose bytes hold the offset `rel` from the base, given the stride. -/
def lastRow (length rows : Nat) (stride rel : Int) : Option Nat :=
  let r : Int :=
    if stride = 0 then (rows : Int) - 1
    else if 0 < stride then min ((rows : Int) - 1) (rel / stride)
    else min ((rows : Int) - 1) ((length - 1 - rel) / (-stride))
  let d := rel - r * stride
  if 0 ≤ r ∧ 0 ≤ d ∧ d < length then some r.toNat else none

/-- The highest byte index at which a copy reaches address `v`. -/
def indexAt (base : Word) (stride : Word) (length rows v : Nat) : Option Nat :=
  let rel : Int := (v : Int) - base.toNat
  match lastRow length rows (if rows ≤ 1 then 0 else sw stride) rel with
  | some r => some (r * length + (rel - r * (if rows ≤ 1 then 0 else sw stride)).toNat)
  | none => none

/-- The agent of an engine's command on a core, in the context of the trip that issued it. The core's units are its stream registers 0 to 7, its channels 8 to 15, the grid engine 16, with 24 for its GSAVE and GLOAD,
and codebook slots from 17 on (R187). -/
def engineWho (k : Core) (track core ctx : Nat) (super : Bool) (id : Nat) (clock : Clock) (unit : Nat) : Who :=
  { core := core, ctx := ctx, super := super, desc := (k.track track).desc, agent := id, clock := clock, engine := some (core, unit) }

/-- The agent of a copy. Its accesses are told apart by the bytes it has written before them (`done`), so that a MILE.WAIT can acquire those
below a milestone alone (R149, R196). -/
def CopyCmd.who (c : CopyCmd) (k : Core) (core : Nat) : Who :=
  { engineWho k c.track core c.ctx c.super c.id (mput c.id c.done c.clock) (8 + c.chan) with map := if c.started then some c.map else none }

/-- The bytes that a copy has written below an address. -/
def CopyCmd.below (c : CopyCmd) (va : Nat) : Nat :=
  let rel := va - c.cr.dst.toNat
  if c.cr.graph then min c.done rel
  else if c.cr.rows ≤ 1 then min c.done (min rel c.cr.length)
  else min c.done (if c.cr.rows ≤ rel / c.cr.dstride.toNat then c.total
    else rel / c.cr.dstride.toNat * c.cr.length + min c.cr.length (rel % c.cr.dstride.toNat))

/-- Output bytes of a graph command, by the function of its node operators (R168): see Interchange. A command whose graph's
output length is `n` has the limit dst + n (R164). -/
def CopyCmd.dstLength (c : CopyCmd) (outLen : Nat) : Nat := if c.cr.graph then outLen else c.total

/-- Lowest and highest destination address, one past (R147, R148). -/
def CopyCmd.limit (c : CopyCmd) (outLen : Nat) : Nat :=
  if c.cr.graph then c.cr.dst.toNat + outLen
  else c.cr.dst.toNat + (c.cr.rows - 1) * c.cr.dstride.toNat + c.cr.length

/-- The milestone (R147): the address below which the destination is completely written. -/
def CopyCmd.milestone (c : CopyCmd) (outLen : Nat) : Nat :=
  if c.dstLength outLen ≤ c.done then c.limit outLen else c.dstAddr c.done

/-- Whether a copy still has to write scratchpad byte `o` of its core. -/
def State.copyWrites (s : State) (k : Core) (core : Nat) (c : CopyCmd) (outLen o : Nat) : Bool :=
  (s.names (c.who k core) core o c.cr.dst.toNat (c.limit outLen)).any fun v =>
    if c.cr.graph then decide (c.done ≤ v - c.cr.dst.toNat)
    else match indexAt c.cr.dst c.cr.dstride c.cr.length c.cr.rows v with
      | some i => decide (c.done ≤ i)
      | none => false

/-- The lowest and one past the highest source address. -/
def CopyCmd.srcSpan (c : CopyCmd) : Nat × Nat :=
  let a : Int := c.cr.src.toNat
  let b : Int := a + ((c.cr.rows : Int) - 1) * sw c.cr.sstride
  ((min a b).toNat, (max a b + c.cr.length).toNat)

/-- Whether a copy still has to read scratchpad byte `o` of its core. -/
def State.copyReads (s : State) (k : Core) (core : Nat) (c : CopyCmd) (o : Nat) : Bool :=
  (s.names (c.who k core) core o c.srcSpan.1 c.srcSpan.2).any fun v =>
    match indexAt c.cr.src c.cr.sstride c.cr.length c.cr.rows v with
    | some i => decide (c.taken ≤ i)
    | none => false

/-! What passes between the nodes of a graph is counted in units: the elements of a 4-bit type, else bytes. QUANT and SPARSE give bytes, in
group layouts that no node reads (R158). -/

/-- Units of one element of a type. -/
def unitsOf (t : ElemType) : Nat := if elemBits t = 4 then 1 else elemBytes t

/-- Whether a node's output is counted in 4-bit elements. -/
def GNode.halves (g : GNode) : Bool := elemBits g.otype == 4 && g.op != 3

/-- Units that an element of a node's input takes: the pairs of TOPK are SCATTERADD's (R168). -/
def GNode.inUnits (g : GNode) : Nat := if g.op = 5 then 4 + elemBytes g.itype else unitsOf g.itype

/-- Units of a node's output for `n` elements at its first input and `n1` at its second: R168 to R172. -/
def nodeOutUnits (g : GNode) (n n1 : Nat) : Nat :=
  if g.op = 3 then
    (n * elemBits g.otype + 7) / 8 + n / 32
  else if g.op = 4 then
    let b := g.param0
    (n / b * min g.param1 b + (if n % b = 0 then 0 else min g.param1 (n % b))) * (4 + elemBytes g.otype)
  else if g.op = 5 then n * g.inUnits
  else if g.op = 6 then
    let grp := n / 8
    let run := fun (c : Nat) => c * g.param0 * elemBytes g.otype + (c * g.param0 * 3 + 7) / 8
    grp / 32 * run 32 + (if grp % 32 = 0 then 0 else run (grp % 32))
  else if g.op = 13 then (n + n1) * unitsOf g.otype
  else n * unitsOf g.otype

/-- For each node of a graph in order: the elements of its two inputs, and its output in units, from the source's bytes. A node with no
second input has as many elements there as at its first. -/
def graphSizes (src : Nat) : List GNode → List (Nat × Nat × Nat) → List (Nat × Nat × Nat)
  | [], acc => acc
  | g :: t, acc =>
    let units := fun (j : Nat) => (acc.getD j (0, 0, 0)).2.2
    let n := (if g.in0 = 16 then (if elemBits g.itype = 4 then 2 * src else src) else units g.in0) / g.inUnits
    let n1 := if g.in1 < 16 then units g.in1 / unitsOf g.itype else n
    graphSizes src t (acc ++ [(n, n1, nodeOutUnits g n n1)])

/-- The output length in bytes of a command through a graph (R164). -/
def graphLength (gr : Graph) (src : Nat) : Nat :=
  let units := ((graphSizes src gr.nodes []).getD gr.out (0, 0, 0)).2.2
  match gr.nodes[gr.out]? with
  | some g => if g.halves then (units + 1) / 2 else units
  | none => 0

/-- The graph in a core's slot. -/
def State.slotGraph (s : State) (core slot : Nat) : Option Graph := mfind slot (s.cluster (clusterOf core)).slots

/-- The graph of a command: once it has started its own, whatever the slot holds meanwhile (R444). -/
def State.runGraph (s : State) (core : Nat) (c : CopyCmd) : Option Graph := if c.started then c.graph else s.slotGraph core c.cr.slot

/-- The output length of a copy; 0 for a command through an empty slot. -/
def State.outLen (s : State) (core : Nat) (c : CopyCmd) : Nat :=
  if c.cr.graph then match s.runGraph core c with
    | some g => graphLength g c.total
    | none => 0
  else c.total

/-- Addresses that a graph's nodes read (`write = false`) or write at their addr fields (R164, R168): base and length. -/
def nodeRanges (g : GNode) (n : Nat) (write : Bool) : List (Nat × Nat) :=
  let a := g.addr.toNat
  if g.op = 2 ∧ g.param0 = 1 then (if write then [] else [(a, (n + 31) / 32)])
  else if g.op = 4 then [(a, 4 * g.param0)]
  else if g.op = 5 then [(a, 4 * g.param0)]
  else if g.op = 9 then (if write then [(a, (n + 4095) / 4096 * 8)] else [])
  else if (g.op = 10 ∨ g.op = 11) ∧ g.in1 = 17 then (if write then [] else [(a, (n * elemBits g.itype + 7) / 8)])
  else []

/-- Whether a graph command's nodes read or write scratchpad byte `o` at their addr fields. -/
def State.nodesTouch (s : State) (k : Core) (core : Nat) (c : CopyCmd) (write : Bool) (o : Nat) : Bool :=
  c.cr.graph && match s.runGraph core c with
    | none => false
    | some gr => (gr.nodes.zip (graphSizes c.total gr.nodes [])).any fun (g, n) => (nodeRanges g n.1 write).any fun (a, n) =>
      !(s.names (c.who k core) core o a (a + n)).isEmpty

/-- The unit under which a core's stores ask: their acknowledgement is all that they wait for (R250). -/
def storeUnit : Nat := 48

/-- Writes that a core has sent to other nodes have all been performed. -/
def State.sentLanded (s : State) (core : Nat) : Bool := s.requests.all fun r => r.2.core != core || r.2.unit != storeUnit

/-- Whether a byte lies behind a CXL port that is down (R281), or a Lesan connection that is down (R277). -/
def State.linkDown (s : State) (pa : Nat) (map : Option (List (Nat × RemoteEntry)) := none) : Bool :=
  match area pa with
  | .cxl p _ => s.cxlDown.contains p
  | .remote slot _ => match s.entryFor map slot with
    | some e => (mget {} e.node s.conns).down
    | none => false
  | _ => false

/-- The unit under which a copy's write to another node waits for its acknowledgement; its reads wait under its number. -/
def writeUnit (id : Nat) : Nat := id + 2 ^ 40

/-- The write of a copy that another node has yet to acknowledge, or has acknowledged while the copy has not gone on. -/
def State.pieceSent (s : State) (core id : Nat) : Option Request :=
  (s.requests.find? fun r => r.2.core == core && r.2.unit == writeUnit id).map (·.2)

/-- Whether a channel's active command, a track's, has writes in flight (R150): a piece that is not
acknowledged, or a graph's blocks. -/
def State.writeInFlight (s : State) (core n c : Nat) : Bool :=
  match (mget {} c (s.core core).chans).queue with
  | [] => false
  | g :: _ => g.track == n && g.started && !g.faulted && ((match s.pieceSent core g.id with
      | some r => r.answer.isNone
      | none => false)
    || (g.cr.graph && !s.sentLanded core))

/-- Whether any channel's active command of a track has writes in flight. -/
def State.killHeld (s : State) (core n : Nat) : Bool := (span 0 8).any (s.writeInFlight core n)

/-- MILE of a channel (R147). -/
def State.mile (s : State) (core q : Nat) : Word :=
  let ch := mget {} q (s.core core).chans
  match ch.queue with
  | c :: _ => if c.started then BitVec.ofNat 64 (c.milestone (s.outLen core c)) else ch.mile
  | [] => ch.mile

/-! Streams. -/

def Pattern.total (p : Pattern) : Nat := p.counts.foldl (· * ·) 1

/-- Bytes between stored elements of dimension 0 (R134). -/
def Pattern.s0 (p : Pattern) : Int :=
  let w := p.strides.headD 0
  if w = 0 then elemBytes p.et else sw w

/-- Coordinates of an element, dimension 0 first (R134). -/
def Pattern.coords (p : Pattern) (e : Nat) : List Nat :=
  (p.counts.foldl (fun (acc : List Nat × Nat) c => (acc.1 ++ [acc.2 % c], acc.2 / c)) ([], e)).1

/-- The bytes, as address and length, that hold the stored form of the element at some coordinates (R134), with the index list
in force (R141). -/
def Stream.addrAt (st : Stream) (c : List Nat) : Int × Nat :=
  let p := st.pat
  let i0 := c.getD 0 0
  let i1 := match st.index with
    | some (_, l) => l.getD (c.getD 1 0) 0
    | none => c.getD 1 0
  let b : Int := p.base.toNat + (i1 : Int) * sw (p.strides.getD 1 0) + (c.getD 2 0 : Int) * sw (p.strides.getD 2 0)
    + (c.getD 3 0 : Int) * sw (p.strides.getD 3 0)
  if p.et = .k8 then (b + 2 * (i0 / 8), 2)
  else if p.sparse then
    let j := i0 / 8 * p.n
    (b + (j * elemBits p.et / 8), (j * elemBits p.et % 8 + p.n * elemBits p.et + 7) / 8)
  else if elemBits p.et = 4 then (b + i0 / 2, 1)
  else (b + i0 * p.s0, elemBytes p.et)

/-- The bytes that hold the stored form of element `e`. -/
def Stream.elemAt (st : Stream) (e : Nat) : Nat × Nat :=
  let (a, n) := st.addrAt (st.pat.coords e)
  (wrap a, n)

/-- The elements from `e` on as boxes of coordinates, one for each dimension that still moves: lowest and highest corner. -/
def Pattern.boxes (p : Pattern) (e : Nat) : List (List Nat × List Nat) :=
  let c := p.coords e
  (span 0 4).filterMap fun d =>
    let lo := c.getD d 0 + (if d = 0 then 0 else 1)
    let n := p.counts.getD d 1
    if n ≤ lo then none
    else some ((span 0 4).map (fun k => if k < d then 0 else if k = d then lo else c.getD k 0),
      (span 0 4).map (fun k => if k < d then p.counts.getD k 1 - 1 else if k = d then n - 1 else c.getD k 0))

/-- The smallest interval that holds every element from `e` on (R151). -/
def Stream.range (st : Stream) (e : Nat) : Int × Int :=
  let down := fun (d : Nat) => if d = 0 then decide (st.pat.s0 < 0) else decide (sw (st.pat.strides.getD d 0) < 0)
  let pick := fun (b : List Nat × List Nat) (low : Bool) =>
    st.addrAt ((span 0 4).map fun d => if down d == low then b.2.getD d 0 else b.1.getD d 0)
  match st.pat.boxes e with
  | [] => (0, 0)
  | b :: t => t.foldl (fun r x => (min r.1 (pick x true).1, max r.2 ((pick x false).1 + (pick x false).2)))
      ((pick b true).1, (pick b false).1 + (pick b false).2)

def Stream.who (st : Stream) (k : Core) (core : Nat) : Who := engineWho k st.owner core st.ctx st.super st.id st.clock st.num

/-- Whether byte `o` lies in an input stream's range; a gather's range is the whole scratchpad (R151). -/
def State.streamReads (s : State) (k : Core) (core : Nat) (st : Stream) (o : Nat) : Bool :=
  let next := st.freed + st.buffer.length
  if st.pat.dir = 1 ∨ st.pat.dir = 3 ∨ st.pat.dir = 4 ∨ st.pat.total ≤ next then false
  else if st.index.isSome then true
  else
    let (lo, hi) := st.range next
    !(s.names (st.who k core) core o lo.toNat hi.toNat).isEmpty

/-! Grid-engine commands and codebook loads. -/

def GridCmd.who (g : GridCmd) (k : Core) (core : Nat) : Who := engineWho k g.track core g.ctx g.super g.id g.clock (match g.op with
  | .save _ => rawUnit | .load _ => rawUnit
  | .opa _ _ _ _ _ _ _ _ _ _ => 16 | .zero => 16 | .park _ => 16 | .unpark _ => 16 | .fill _ _ => 16 | .drain _ _ _ _ _ _ => 16 | .send _ _ => 16)

/-- Elements that a ROWFILL reads: 128 a row, 64 under FP64 (R153). -/
def fillCount (et : ElemType) (rows : Nat) : Nat := rows * (if et = .fp64 then 64 else 128)

/-- Whether a grid command still has to read scratchpad byte `o`: the unread source of a fill (R151). -/
def State.gridReads (s : State) (k : Core) (core : Nat) (g : GridCmd) (o : Nat) : Bool :=
  match g.op with
  | .fill et a =>
    let sz := elemBytes et
    !(s.names (g.who k core) core o (a.toNat + g.done * sz) (a.toNat + fillCount et g.rows.length * sz)).isEmpty
  | _ => false

/-- The address and the bytes of element `i` of a drain; none of an indexed drain, whose addresses are looked up. -/
def drainElem (base stride : Word) (et : ElemType) (i : Nat) : Nat × Nat :=
  if elemBits et = 4 then (wrap (base.toNat + (i / 2 : Nat)), 1)
  else (wrap (base.toNat + (i : Int) * (if stride = 0 then (elemBytes et : Int) else sw stride)), elemBytes et)

/-- The offset that an indexed drain reads for element `i`: the INT40 value of a cell (R376). -/
def Core.drainIndex (k : Core) (g : GridCmd) (v : View) (i : Nat) : Int :=
  let at_ := fun (r c : Nat) => ((mget 0 c (mget [] r k.grid)).toInt : Int)
  match v with
  | .row n => at_ n.val i
  | .col n => at_ (g.rowbase + i) n.val
  | .diag n => at_ (g.rowbase + i) ((i + n.val) % 128)
  | .q _ => 0 | .zero => 0 | .iota => i | .x _ => 0

/-- Whether a drain still has to write scratchpad byte `o`: what lies in memory has no range (R151). -/
def State.gridWrites (s : State) (k : Core) (core : Nat) (g : GridCmd) (o : Nat) : Bool :=
  match g.op with
  | .drain _ b st sc ix cv =>
    (span g.done (g.vl - g.done)).any (fun i =>
        let (a, n) := match ix with
          | none => drainElem b st cv.et i
          | some v => (wrap (b.toNat + k.drainIndex g v i), elemBytes cv.et)
        g.mask.getLsbD i && !(s.names (g.who k core) core o a (a + n)).isEmpty)
      || (match sc with
        | some a => !(s.names (g.who k core) core o (a.toNat + g.done / 32) (a.toNat + (g.vl + 31) / 32)).isEmpty
        | none => false)
  | _ => false

def CbkCmd.who (g : CbkCmd) (k : Core) (core : Nat) : Who := engineWho k g.track core g.ctx g.super g.id g.clock (17 + g.slot)

/-- All copy commands of a core, oldest channel first. -/
def Core.copies (k : Core) : List CopyCmd := k.chans.flatMap (·.2.queue)

/-- R148: a copy of the core holds the byte. -/
def State.held (s : State) (core o : Nat) : Bool :=
  let k := s.core core
  k.copies.any fun c => s.copyWrites k core c (s.outLen core c) o

/-- R152: the byte lies in the source range of an active engine of the core. -/
def State.sourced (s : State) (core o : Nat) : Bool :=
  let k := s.core core
  k.copies.any (fun c => s.copyReads k core c o || s.nodesTouch k core c false o)
    || k.streams.any (fun st => s.streamReads k core st.2 o)
    || k.gq.any (fun g => s.gridReads k core g o)
    || k.cbkCmds.any (fun g => !(s.names (g.who k core) core o g.addr.toNat (g.addr.toNat + 2048)).isEmpty)

/-- R151: a command of the core with a lower number (issued earlier) still has to write the byte, or to read it where the
later one writes. -/
def State.earlier (s : State) (core id o : Nat) (write : Bool) : Bool :=
  let k := s.core core
  k.copies.any (fun c => c.id < id && (s.copyWrites k core c (s.outLen core c) o || s.nodesTouch k core c true o
      || (write && (s.copyReads k core c o || s.nodesTouch k core c false o))))
    || k.gq.any (fun g => g.id < id && (s.gridWrites k core g o || (write && s.gridReads k core g o)))
    || (write && k.streams.any (fun st => st.2.id < id && s.streamReads k core st.2 o))
    || (write && k.cbkCmds.any (fun g => g.id < id
      && !(s.names (g.who k core) core o g.addr.toNat (g.addr.toNat + 2048)).isEmpty))

/-! The grid. -/

/-- Whether a command has made its last write to a row, or of rows that it only reads its last read (R96). A drain leaves its rows together,
when its last element has been read (R460). -/
def GridCmd.leftRow (g : GridCmd) (row : Nat) : Bool :=
  let i := g.rows.idxOf row
  match g.op with
  | .opa _ _ _ _ _ k _ _ _ _ => decide (k ≤ g.done)
  | .zero => decide (i < 4 * g.done)
  | .park _ => decide (i < g.done)
  | .unpark _ => decide (i < g.done)
  | .send _ _ => decide (i < g.done)
  | .fill et _ => decide (fillCount et (i + 1) ≤ g.done)
  | .save _ => decide (128 * (i + 1) ≤ g.done)
  | .load _ => decide (128 * (i + 1) ≤ g.done)
  | .drain _ _ _ _ _ _ => decide (g.vl ≤ g.done)

/-- Whether a command keeps a row busy. -/
def GridCmd.keeps (g : GridCmd) (row : Nat) : Bool := g.rows.contains row && !g.leftRow row

/-- R96: a command that targets the row has not left it. -/
def Core.busy (k : Core) (row : Nat) : Bool :=
  k.gq.any (fun g => g.keeps row) || k.incoming.any (fun i => i.rows.contains row)

/-- Whether an OPA of the core still has to take elements of a stream. -/
def Core.opaUses (k : Core) (q : Nat) : Bool :=
  k.gq.any fun g => match g.op with
    | .opa _ _ _ qa qb _ _ _ _ _ => qa.val == q || qb.val == q
    | _ => false

def Core.row (k : Core) (r : Nat) : Row := mget [] r k.grid
def Core.cell (k : Core) (r c : Nat) : Cell40 := mget 0 c (k.row r)

/-- Writes a cell, keeping the grid canonical; the row's dirty bit is set (R262). -/
def Core.setCell (k : Core) (r c : Nat) (v : Cell40) : Core :=
  { k with grid := mset [] r (mset 0 c v (k.row r)) k.grid, dirtyRows := insertNat r k.dirtyRows }

/-- Rows a track holds (R82). -/
def Track.rowbase (t : Track) : Nat := t.band * 32
def Track.rows (t : Track) : Nat := t.bands * 32
def Track.holds (t : Track) (r : Nat) : Bool := t.rowbase ≤ r && r < t.rowbase + t.rows

end Sys2Proof.Machine
end

