-- ==== Sys2Proof/Machine/Remote.lean ====
section
/-!
DEFINITION. Packets of the Lesan transport (R277), sending them, and the accesses to the remote range that go through it (R278).
-/
namespace Sys2Proof.Machine

/-- The low `n` bytes of a number, lowest first (R1). -/
def toBytes : Nat → Nat → List Byte
  | 0, _ => []
  | n + 1, v => BitVec.ofNat 8 v :: toBytes n (v / 256)

/-- The number that bytes hold, lowest first. -/
def ofBytes : List Byte → Nat
  | [] => 0
  | b :: t => b.toNat + 256 * ofBytes t

/-! Packets. -/

/-- CRC-32C: `n` bits of its register shifted out. -/
def crcBits (c : Nat) : Nat → Nat
  | 0 => c
  | n + 1 => crcBits (if c % 2 = 1 then Nat.xor (c / 2) 0x82F63B78 else c / 2) n

/-- CRC-32C of a byte string (log entry 57). -/
def crc32c (l : List Byte) : Nat :=
  Nat.xor (l.foldl (fun c b => crcBits (Nat.xor c b.toNat) 8) 0xFFFFFFFF) 0xFFFFFFFF

/-- The 32-byte header of a packet of a kind (R277). -/
def packetHeader (p : LesanPkt) (kind : Nat) : List Byte :=
  toBytes 1 p.version ++ toBytes 1 kind ++ toBytes 2 p.length ++ toBytes 4 p.src ++ toBytes 4 p.dst ++ toBytes 4 p.seq
    ++ toBytes 4 p.ack ++ toBytes 4 p.tag ++ toBytes 8 p.addr

/-- The packet with the CRC of its header and payload. -/
def sealPacket (p : LesanPkt) (kind : Nat) : LesanPkt := { p with crc := crc32c (packetHeader p kind ++ p.payload) }

/-- A packet of this package on a connection, with its sequence number. -/
def State.packet (s : State) (node seq kind tag addr : Nat) (payload : List Byte) : LesanPkt :=
  sealPacket
    { version := 1, length := payload.length, src := fld s.rmnode 31 0, dst := node, seq := seq
      ack := (mget {} node s.conns).received, tag := tag % 2 ^ 32, addr := addr, payload := payload, crc := 0 } kind

/-- Sends a packet to a node, and keeps it until it is acknowledged; nothing goes out on a connection that is down. -/
def State.send (s : State) (node kind tag addr : Nat) (payload : List Byte) : State :=
  let c := mget {} node s.conns
  if c.down then s
  else
    { s with
        outbox := s.outbox ++ [(kind, s.packet node c.sent kind tag addr payload)]
        conns := mput node { c with sent := (c.sent + 1) % 2 ^ 32, unacked := c.unacked ++ [(c.sent, kind, tag, addr, payload)] } s.conns }

/-! Requests to other nodes. -/

/-- Node and address that a remote physical address reaches (R278), by the map given or the present one. -/
def State.remoteAddr (s : State) (pa : Nat) (write : Bool) (map : Option (List (Nat × RemoteEntry)) := none) : Option (Nat × Nat) :=
  match area pa with
  | .remote slot off => match s.entryFor map slot with
    | some e => if write && !e.writable then none else some (e.node, e.base + off)
    | none => none
  | _ => none

/-- The answers a unit was given are used up. -/
def State.asked (s : State) (core unit : Nat) : State :=
  { s with requests := s.requests.filter fun r => !(r.2.core == core && r.2.unit == unit) }

/-- Requests of a core that have no answer yet, its loads' among them (R250). -/
def State.openRequests (s : State) (core : Nat) : Nat :=
  (s.requests.filter fun r => r.2.core == core && r.2.answer.isNone).length
    + (s.core core).tracks.foldl (fun n e => n + (e.2.pending.filter fun p => !p.landed).length) 0

/-- Whether a core may have one more request outstanding (R250). -/
def State.requestRoom (s : State) (core : Nat) : Bool := decide (512 ≤ core) || decide (s.openRequests core < 512)

/-- A request of a unit goes to a node; one for an address of the remote range keeps that address and the entry it uses. -/
def State.request (s : State) (core unit node addr kind : Nat) (payload : List Byte) (pa : Nat := 0) (entry : Option (Nat × RemoteEntry) := none) :
    State :=
  let (tag, s) := s.fresh
  let r : Request := { core := core, unit := unit, node := node, addr := addr, kind := kind, len := payload.length, pa := pa, entry := entry }
  { s with requests := mput tag r s.requests }.send node kind tag addr payload

/-- Asks a node at an address of it: the answer where it has come; else the request is on its way, or waits for room. -/
def State.askNode (s : State) (core unit node addr kind : Nat) (payload : List Byte) : Option (List Byte) × State :=
  match s.requests.find? (fun r => r.2.core == core && r.2.unit == unit && r.2.addr == addr && r.2.kind == kind) with
  | some (_, r) =>
    match r.answer with
    | some b => (some b, s)
    | none => (none, s)
  | none => (none, if s.requestRoom core then s.request core unit node addr kind payload else s)

/-- The remote slot of a physical address, with the map's entry for it. -/
def State.slotOf (s : State) (pa : Nat) (map : Option (List (Nat × RemoteEntry)) := none) : Option (Nat × RemoteEntry) :=
  match area pa with
  | .remote slot _ => (s.entryFor map slot).map fun e => (slot, e)
  | _ => none

/-- Asks the node that a remote physical address reaches: the one that the map gave when the request went out (R278). -/
def State.ask (s : State) (core unit pa kind : Nat) (payload : List Byte) (map : Option (List (Nat × RemoteEntry)) := none) :
    Option (List Byte) × State :=
  match s.requests.find? (fun r => r.2.core == core && r.2.unit == unit && r.2.pa == pa && r.2.entry.isSome && r.2.kind == kind) with
  | some (_, r) => (r.answer, s)
  | none =>
    match s.remoteAddr pa (kind != 1) map with
    | none => (none, s)
    | some (node, addr) => (none, if s.requestRoom core then s.request core unit node addr kind payload pa (s.slotOf pa map) else s)

/-- What an addition of a unit's to a junction at another node releases goes with its request (R195). -/
def State.askRels (s : State) (core unit pa : Nat) (l : List Rel) : State :=
  { s with requests := s.requests.map fun r =>
      if r.2.core = core ∧ r.2.unit = unit ∧ r.2.pa = pa ∧ r.2.kind = 5 ∧ r.2.answer = none then (r.1, { r.2 with rels := l }) else r }

/-- The entries of the remote map that the outstanding requests of some units of a core use (R278). -/
def State.slotsOf (s : State) (core : Nat) (units : Nat → Bool) : List (Nat × RemoteEntry) :=
  (s.requests.filter fun r => r.2.core == core && units r.2.unit).filterMap (·.2.entry)

/-- A remote home is told of an atomic by 18 bytes: the op (15 for CAS), the size, the operand, and the value compared. A packet may hold
several, performed at once in their order. -/
def atomicWire (op size b cmp : Nat) : List Byte := toBytes 1 op ++ toBytes 1 size ++ toBytes 8 b ++ toBytes 8 cmp

/-- The bits of a byte that a mask selects, written at a remote home: an AND and an OR in one packet. -/
def nibbleWire (v m : Nat) : List Byte :=
  atomicWire AmoOp.and.code 1 (255 - m) 0 ++ atomicWire AmoOp.or.code 1 (Nat.land v m) 0

/-- A run of bytes that ends before `pa` goes out as one write. -/
def State.remoteRun (s : State) (core : Nat) (map : Option (List (Nat × RemoteEntry))) (run : List Byte) (pa : Nat) : State :=
  if run.isEmpty then s
  else match s.remoteAddr (pa - run.length) true map with
    | some (node, addr) => s.request core storeUnit node addr 3 run
    | none => s

/-- Sends what is written of a granule (R66, R277): each run of whole bytes as one write. `run` is the run before `pa`, its lowest byte
first. -/
def State.remoteRuns (s : State) (core : Nat) (map : Option (List (Nat × RemoteEntry))) (run : List Byte) (pa : Nat) :
    Nat → Nat → Nat → State
  | 0, _, _ => s.remoteRun core map run pa
  | n + 1, v, m =>
    if m % 256 = 255 then s.remoteRuns core map (run ++ [BitVec.ofNat 8 v]) (pa + 1) n (v / 256) (m / 256)
    else
      let s := s.remoteRun core map run pa
      let s := if m % 256 = 0 then s
        else match s.remoteAddr pa true map with
          | some (node, addr) => s.request core storeUnit node addr 5 (nibbleWire (v % 256) (m % 256))
          | none => s
      s.remoteRuns core map [] (pa + 1) n (v / 256) (m / 256)

/-- Sends the bits of `n` bytes from `pa` up that are written. -/
def State.remoteMasked (s : State) (core pa n v m : Nat) (map : Option (List (Nat × RemoteEntry)) := none) : State :=
  s.remoteRuns core map [] pa n v m

end Sys2Proof.Machine
end

