-- ==== Sys2Proof/Machine/Ops.lean ====
section
/-!
DEFINITION. The operations every meaning is made of: registers, the strip (R64 to R70), taking an exception and returning from one
(R234 to R238), what an instruction that completes, faults or waits leaves, and a track's memory accesses (R186).
-/
namespace Sys2Proof.Machine

/-! Registers (R53). -/

def Track.getX (t : Track) (r : Reg) : Word := if r = 0 then 0 else t.x[r]
def Track.setX (t : Track) (r : Reg) (v : Word) : Track := if r = 0 then t else { t with x := t.x.set r v }
def Track.getM (t : Track) (r : MReg) : Mask128 := if r = 0 then BitVec.allOnes 128 else t.m[r]
def Track.setM (t : Track) (r : MReg) (v : Mask128) : Track := if r = 0 then t else { t with m := t.m.set r v }

def State.x (s : State) (r : Reg) : Word := s.me.getX r
def State.setX (s : State) (r : Reg) (v : Word) : State := s.modMe (·.setX r v)
def State.mreg (s : State) (r : MReg) : Mask128 := s.me.getM r
def State.setMreg (s : State) (r : MReg) (v : Mask128) : State := s.modMe (·.setM r v)

/-- Mask (R54). -/
def Track.active (t : Track) (mk : MReg) (i : Nat) : Bool := i < t.vl && (mk == 0 || (t.getM mk).getLsbD i)

/-- The units under which a track's instructions ask other nodes: the track, and one for each element of a vector form. -/
def askUnits (n unit : Nat) : Bool := unit == n || (64 + 128 * n ≤ unit && unit < 64 + 128 * n + 128)

/-- The issuing track as an accessing agent (R187). -/
def State.who (s : State) : Who :=
  let k := s.core s.cur.1
  let t := k.track s.cur.2
  { core := s.cur.1, ctx := t.ctxid, super := t.super, desc := t.desc, agent := s.cur.1 * 4 + s.cur.2, clock := t.clock, region := t.region
    slots := s.slotsOf s.cur.1 fun u => askUnits s.cur.2 u || u == 24 + s.cur.2 }

/-- Raises flags in the issuing track's ARITH as its strip's (R116). -/
def Track.raise (t : Track) (f : Flags) : Track :=
  { t with arith := t.arith ||| f.toArith, strip := { t.strip with raised := t.strip.raised.or f } }

/-- Flags an engine delivers to a track (R116). -/
def Track.deliver (t : Track) (f : Flags) : Track :=
  { t with arith := t.arith ||| f.toArith, strip := { t.strip with engine := t.strip.engine.or f } }

/-- R113: a flag whose trap-enable bit is set. -/
def Track.enabled (t : Track) (f : Flags) : Bool := (f.nv && t.arith.getLsbD 12) || (f.of && t.arith.getLsbD 13)

/-- Notes the first instruction and element that raised an enabled flag (R69). -/
def Track.noteArith (t : Track) (f : Flags) (elem : Nat) : Track :=
  if t.enabled f && t.strip.arith.isNone then
    { t with strip := { t.strip with arith := some (t.pc, BitVec.ofNat 64 elem) } }
  else t

/-! The trace port (R301, R302) and energy (R279). -/

/-- Whether PORTCTL lets a record of a kind and context out (R302). -/
def State.portSends (s : State) (kind ctx : Nat) : Bool :=
  bitAt s.portctl.toNat kind && (!bitAt s.portctl.toNat 32 || fld s.portctx 31 0 == ctx)

/-- Offers a record to the trace port. -/
def State.emit (s : State) (die kind detail source ctx : Nat) (payload : Word) : State :=
  if s.portSends kind ctx then
    s.modDie die fun d =>
      if d.port.length < 256 then { d with port := d.port ++ [⟨s.time, kind, detail, source, ctx, payload⟩] }
      else { d with dropped := d.dropped + 1 }
  else s

def State.emitCore (s : State) (core kind detail ctx : Nat) (payload : Word) : State :=
  s.emit (dieOf core) kind detail core ctx payload

/-- Offers a record of an agent at a location (log entry 33). -/
def State.emitAt (s : State) (at_ : Loc) (kind detail ctx : Nat) (payload : Word) : State :=
  match at_ with
  | .core c => s.emitCore c kind detail ctx payload
  | .cluster n => s.emit (n / 8) kind detail (0x8000 + n) ctx payload
  | .die d => s.emit d kind detail (0x8000 + 8 * d) ctx payload
  | .host _ => s.emit 0 kind detail 0x8000 ctx payload
  | .remote => s.emit 0 kind detail 0x8000 ctx payload

/-- The weight of an energy class on a core's die (R271). -/
def State.weight (s : State) (core cls : Nat) : Nat :=
  let r := s.stew (dieOf core) (if cls < 4 then 0x30 else 0x38)
  fld r (cls % 4 * 16 + 15) (cls % 4 * 16)

/-- Charges picojoules to a core's ENERGY, saturating (R279). -/
def State.charge (s : State) (core pj : Nat) : State :=
  s.modCore core fun k => { k with energy := min (k.energy + pj) (2 ^ 48 - 1) }

/-- Class 6: an engine has moved `n` halves of a byte; one charge each 64 bytes of its running count (R463). Engines are numbered 0 to 7
for streams, 8 to 15 for channels, 16 for the grid engine. -/
def State.movedHalves (s : State) (core engine n : Nat) : State :=
  let c := mget 0 engine (s.core core).bytes6
  let q := (c + n) / 128 - c / 128
  (s.modCore core fun k => ({ k with bytes6 := mput engine (c + n) k.bytes6 }).count 0x24 q).charge core (q * s.weight core 6)

/-- An engine has moved `n` bytes. -/
def State.moved (s : State) (core engine n : Nat) : State := s.movedHalves core engine (2 * n)

/-! Results of an instruction's own part. -/

/-- A trap to take: TFPC and TEPC where they are not the instruction and the strip's start, and whether the strip is rolled
back (R68). -/
structure TrapInfo where
  cause : Cause
  addr : Word := 0
  elem : Word := 0
  fpc : Option Word := none
  epc : Option Word := none
  rollback : Bool := true
deriving DecidableEq, Repr

/-- What the own part of an instruction gives: done, with the next instruction following; done, with the pc set; a trap; a
wait of the strip's close before it; a wait of its own; that the strip must close just before it (R67); or that something else took its
place at the strip's boundary. -/
inductive Out
  | done (s : State)
  | ends (s : State)
  | goes (s : State)
  | trap (f : TrapInfo) (s : State)
  | held (k : WaitKind) (obj : Nat) (s : State)
  | wait (k : WaitKind) (obj : Nat) (s : State)
  | closeFirst

/-- A synchronous fault of the instruction. -/
def faulty (c : Cause) (s : State) (addr : Word := 0) (elem : Nat := 0) : Out :=
  .trap { cause := c, addr := addr, elem := BitVec.ofNat 64 elem } s

/-! The strip. -/

/-- The checkpoint of a track now (R65). -/
def checkpointOf (k : Core) (n : Nat) (t : Track) : Checkpoint :=
  let own := k.streams.filter fun (e : Nat × Stream) => e.2.owner == n
  { pc := t.pc, x := t.x, m := t.m, vl := t.vl, vlmax := t.vlmax, sbase := t.sbase, arith := t.arith, fq := t.fq,
    loads := t.pending.map (·.id), pops := own.map fun (e : Nat × Stream) => (e.1, e.2.pos) }

/-- Opens a strip at the next instruction where none is open. -/
def State.openStrip (s : State) : State :=
  let t := s.me
  if t.strip.isOpen then s
  else s.modMe fun t => { t with strip := { isOpen := true, start := checkpointOf s.myCore s.cur.2 t } }

/-- Whether another core does not run the context of a core (any more), so that its scratchpad is not there for it (R179, R251). -/
def State.strayCore (s : State) (core c : Nat) : Bool := (s.core c).departed || (s.core c).ctx != (s.core core).ctx

/-- A granule's write waits: for a link or a port under test (R281), because its bytes are held (R148) or an engine's source (R152), for a
frozen core (R251), or for room for one more request (R250). -/
def State.storeWaits (s : State) (core pa : Nat) (mask : Nat) : Option WaitKind :=
  if s.underTest (dieOf core) pa then some .remote
  else match area pa with
  | .scratch c o =>
    if c ≠ core then if (s.core c).frozen then some .frozenCore else none
    else if (span 0 8).any fun i => mask / 2 ^ (8 * i) % 256 ≠ 0 && (s.held c (o + i) || s.sourced c (o + i)) then some .overlap
    else none
  | .remote _ _ => if s.requestRoom core then none else some .remote
  | _ => none

/-- Performs buffered granules in order (R70): what is left when one waits. A performed write ends releases at its bytes; one to another
node goes where the map said as its first store issued (log entry 73). -/
def performGranules (core : Nat) (notes : List (Nat × StoreNote)) : List Granule → State → State × List Granule × Option WaitKind
  | [], s => (s, [], none)
  | g :: t, s =>
    match s.storeWaits core g.pa g.mask.toNat with
    | some k => (s, g :: t, some k)
    | none =>
      let s := (span 0 8).foldl (fun s i => if g.mask.toNat / 2 ^ (8 * i) % 256 = 0 then s else s.endRels (g.pa + i) 1) s
      performGranules core notes t (match area g.pa with
        | .remote _ _ => s.remoteMasked core g.pa 8 g.data.toNat g.mask.toNat ((mget {} g.pa notes).slot.map fun e => [e])
        | _ => s.setMasked g.pa 8 g.data.toNat g.mask.toNat)

/-- The lowest element of a stream that an OPA of the core has still to take, `n` where there is none. -/
def Core.opaFloor (k : Core) (q n : Nat) : Nat :=
  k.gq.foldl (fun a g => match g.op with
    | .opa _ _ _ qa qb _ m n' _ _ =>
      let a := if qa.val = q then min a (g.posA + g.done * m) else a
      if qb.val = q then min a (g.posB + g.done * n') else a
    | _ => a) n

/-- The lowest scale byte of a side stream that an OPA of the core still uses. -/
def Core.sideFloor (k : Core) (q n : Nat) : Nat :=
  k.gq.foldl (fun a g => match g.op with
    | .opa _ _ _ qa qb _ _ _ _ _ =>
      let uses := fun (r : Nat) => match mfind r k.streams with
        | some st => st.pat.scale == 2 && st.pat.sideScale == q
        | none => false
      let a := if uses qa.val then min a g.sideA else a
      if uses qb.val then min a g.sideB else a
    | _ => a) n

/-- Lets go of the buffered elements of a stream below `start` that no OPA still needs (R65, R70, R402). -/
def Core.freeTo (k : Core) (q start : Nat) : Core :=
  match mfind q k.streams with
  | none => k
  | some st =>
    let f := max st.freed (k.sideFloor q (k.opaFloor q start))
    { k with streams := mput q { st with freed := f, buffer := st.buffer.drop (f - st.freed) } k.streams }

/-- Releases the stream data that the strip popped (R65, R70), and sends what it pushed on links (R142). -/
def Core.freePops (k : Core) (n : Nat) : Core :=
  let k := (k.streams.filter fun e => e.2.owner == n).foldl (fun k e => k.freeTo e.1 e.2.pos) k
  { k with streams := k.streams.map fun (q, st) =>
      if st.owner = n then
        (q, { st with inFlight := st.inFlight ++ st.flits, credits := st.credits - st.flits.length, flits := [] })
      else (q, st) }

/-- A store that has waited for another core's thaw takes the fault of R179 once that core no longer runs the context (R251): its address in
the core window (log entry 60). One through a translated mapping takes it where the core runs no context any more; one that has not waited
raises nothing at the strip's close (R186). -/
def State.strayStore (s : State) (core : Nat) (notes : List (Nat × StoreNote)) : List Granule → Option Word
  | [] => none
  | g :: _ => match area g.pa with
    | .scratch c o =>
      let gone := s.strayCore core c && ((mget {} g.pa notes).window || (s.core c).departed || (s.core c).ctx.isNone)
      if c ≠ core ∧ gone then some (BitVec.ofNat 64 (0xFE000000000000 + c * 0x100000 + o)) else none
    | _ => none

/-- A link-out stream of a track that its partner holds, with pushes of the strip still to go out: they wait as for credits (R252). -/
def Core.heldLink (k : Core) (n : Nat) : Option Nat :=
  (k.streams.find? fun e => e.2.owner == n && e.2.held && !e.2.flits.isEmpty).map (·.1)

/-- StripClose (R70). An ARITH trap of a strip of one instruction that wrote more than eight rows leaves its writes and
goes on after it (R67). -/
def State.stripClose (s : State) : Out :=
  let t := s.me
  let st := t.strip
  if !st.isOpen then .done s
  else match (if st.alone then none else st.arith) with
    | some (fpc, elem) => .trap { cause := .arith, elem := elem, fpc := some fpc } s
    | none => match (if st.closing then s.strayStore s.cur.1 st.notes st.buf else none) with
    | some a => .trap { cause := .window, addr := a } s
    | none =>
      let (s, rest, w) := performGranules s.cur.1 st.notes (st.buf ++ st.pushes) s
      match w with
      | some k => .wait k 0 (s.modMe fun t => { t with strip := { t.strip with buf := rest, pushes := [], closing := true } })
      | none =>
        match s.myCore.heldLink s.cur.2 with
        | some q => .wait .link q (s.modMe fun t => { t with strip := { t.strip with buf := [], pushes := [], closing := true } })
        | none =>
        let s := s.modMyCore fun k => (k.freePops s.cur.2).count 0x22 1
        let s := s.modMe fun t => { t with strip := {} }
        match (if st.alone then st.arith else none) with
        | some (fpc, elem) =>
          .trap { cause := .arith, elem := elem, fpc := some fpc, epc := some t.pc, rollback := false } s
        | none => .done s

/-- Puts back a track's pop positions and the rows it has written, a write of them (R262). -/
def Core.unpop (k : Core) (n : Nat) (c : Checkpoint) : Core :=
  { k with
      streams := k.streams.map (fun (q, st) =>
        if st.owner = n then (q, { st with pos := (mfind q c.pops).getD st.pos, flits := [] }) else (q, st)),
      grid := c.rows.foldl (fun g e => mset [] e.1 e.2 g) k.grid
      dirtyRows := c.rows.foldl (fun l e => insertNat e.1 l) k.dirtyRows }

/-- Restores a track to its checkpoint (R68): the engine flags delivered since stay in ARITH (R116), and `keep` too. Loads that the
strip made write nothing back: it makes them again. -/
def State.rollback (s : State) (keep : Flags) : State :=
  let t := s.me
  let c := t.strip.start
  if !t.strip.isOpen then s
  else
    let s := s.modMyCore fun k => (k.unpop s.cur.2 c).count 0x23 1
    s.modMe fun t =>
      { t with
          pc := c.pc, x := c.x, m := c.m, vl := c.vl, vlmax := c.vlmax, sbase := c.sbase, fq := c.fq
          pending := t.pending.filter fun p => c.loads.contains p.id
          arith := c.arith ||| (t.strip.engine.or keep).toArith
          strip := {} }

/-- Takes a row's shadow before its first write (R65): none when a ninth would be needed (R67). -/
def State.shadow (s : State) (row : Nat) : Option State :=
  let st := s.me.strip
  if st.alone || mhas row st.start.rows then some s
  else if st.start.rows.length < 8 then
    some (s.modMe fun t =>
      { t with strip := { t.strip with start := { t.strip.start with rows := mput row (s.myCore.row row) t.strip.start.rows } } })
  else none

/-! Taking an exception, and returning from one. -/

/-- The cause code (R233). -/
def Cause.code : Cause → Nat
  | .illegal => 1 | .priv => 2 | .align => 3 | .notPresent => 4 | .protect => 5 | .form => 6 | .window => 7 | .gridOwn => 8
  | .fmtEmpty => 9 | .fmtBad => 10 | .stream => 11 | .race => 12 | .arith => 13 | .poison => 14 | .brk => 15 | .swTrap => 16
  | .gang => 17 | .linkDown => 18 | .targetFull => 19

/-- TCAUSE (R231): the cause, bit 8 when an engine reported it, and the engine. -/
def causeWord (c : Cause) (engine : Option Nat) : Word :=
  match engine with
  | none => BitVec.ofNat 64 c.code
  | some e => BitVec.ofNat 64 (c.code + 256 + 512 * e)

/-- Escalate (R238): the causes go to TSAVE, the track freezes alone, and the steward is told. -/
def State.escalate (s : State) (cause : Word) (addr fpc elem : Word) : State :=
  let s := s.modMe fun t =>
    { t with tsave := [t.tcause, t.taddr, t.tfpc, t.telem, cause, addr, fpc, elem], escalated := true }
  { s with reports := s.reports ++ [.escalation s.cur.1 s.cur.2 s.me.tsave] }

/-- Enters the handler with the saved values given (the second half of R234): the strip is already restored or closed. -/
def State.enterHandler (s : State) (cause : Word) (addr epc fpc elem : Word) (resume : Option Nat) : State :=
  s.modMe fun t =>
    let l := t.level + 1
    let f : Frame := ⟨cause, addr, epc, fpc, elem, t.getX 2, false, t.super, resume⟩
    let t := { t with
      frames := mput l f t.frames, entries := mput l f t.entries
      tcause := cause, taddr := addr, tepc := epc, tfpc := fpc, telem := elem
      level := l, acked := false, pmode := t.super, resume := resume, super := true
      pc := t.tvec &&& ~~~3#64, strip := {} }
    if l = 1 then t.setX 2 (t.tstack &&& ~~~63#64) else t

/-- Whether a fault now escalates (R234). -/
def Track.escalates (t : Track) : Bool := 1 ≤ t.level && (!t.acked || t.level == 31)

/-- Fault of R234 for a track's own instruction. -/
def State.syncFault (s : State) (f : TrapInfo) : State :=
  let s := if f.cause = .race then s.countRace s.me.ctxid else s
  let t := s.me
  let fpc := f.fpc.getD t.pc
  if t.escalates then s.escalate (causeWord f.cause none) f.addr fpc f.elem
  else
    let start := if t.strip.isOpen then t.strip.start.pc else t.pc
    let s := if f.rollback then s.rollback (if f.cause = .arith then t.strip.raised else {}) else s
    s.enterHandler (causeWord f.cause none) f.addr (f.epc.getD start) fpc f.elem none

/-- Fault of R234 for an engine's record, or an OPA's ARITH trap, at the boundary the track stands at (R106, R237). -/
def State.asyncFault (s : State) (cause : Cause) (engine : Nat) (addr fpc elem : Word) (resume : Option Nat) : State :=
  let s := if cause = .race then s.countRace s.me.ctxid else s
  s.enterHandler (causeWord cause (some engine)) addr s.me.pc fpc elem resume

/-- What is taken at a strip boundary at trap level 0: the ARITH trap of a command that has completed (R106), else the oldest
engine record (R237). -/
def State.boundary (s : State) : Option State :=
  let t := s.me
  if t.level ≠ 0 then none
  else match t.opaTraps with
    | (fpc, elem) :: rest => some ((s.modMe fun t => { t with opaTraps := rest }).asyncFault .arith 0 0 fpc elem none)
    | [] =>
      match t.records with
      | [] => none
      | r :: rest =>
        some ((s.modMe fun t => { t with records := rest }).asyncFault r.cause r.engine r.addr r.fpc r.elem (some r.cmd))

/-- A command that has ended, as far as a MILE.WAIT asks for it. -/
def CopyCmd.spent (g : CopyCmd) : CopyCmd := { g with nodes := [], out := [], orig := [], record3 := none }

/-- The active command of a channel leaves it: MILE stays at its end or at the point it reached (R147), and what it has written is released to
later MILE.WAITs (R149) and to its trip's completion (R43, R192). -/
def State.endHead (s : State) (core c : Nat) (g : CopyCmd) (mile : Word) : State :=
  (s.modCore core fun k => { k with chans := mupd {} c (fun ch =>
    { ch with queue := ch.queue.drop 1, mile := mile, ended := ch.ended ++ [g.spent] }) k.chans }).modTrack core g.track fun t =>
      { t with ended := t.ended.join (g.who (s.core core) core).released }

/-- The engine whose command or stream has the number goes on from where it stopped (R235, R237). Link ends that do not match stay so: the
next pop or push reaches the fault again (R142). -/
def Core.resumeEngine (k : Core) (id : Nat) : Core :=
  let sides := (k.streams.filter fun e => e.2.id == id).flatMap fun e =>
    (if e.2.pat.scale = 0 then [] else [e.2.pat.sideScale]) ++ (if e.2.pat.sparse then [e.2.pat.sideMeta] else [])
  { k with
      gq := k.gq.map (fun g => if g.id = id then { g with faulted := false } else g),
      cbkCmds := k.cbkCmds.map (fun g => if g.id = id then { g with faulted := false } else g),
      chans := k.chans.map (fun (c, ch) => (c, { ch with queue := (ch.queue.map fun g => if g.id = id then { g with faulted := false } else g) })),
      streams := k.streams.map (fun (q, st) =>
        if st.id = id then (q, { st with fault := if st.pat.dir = 3 ∨ st.pat.dir = 4 then st.fault else none, told := false })
        else if sides.contains q then (q, { st with fault := none }) else (q, st)) }

/-- The same, and a copy that had ended is discarded (R155). -/
def State.resumeEngine (s : State) (core id : Nat) : State :=
  let s := (span 0 8).foldl (fun (s : State) c => match (mget {} c (s.core core).chans).queue with
    | g :: _ => if g.id = id ∧ g.ending then s.endHead core c g (s.mile core c) else s
    | [] => s) s
  s.modCore core (·.resumeEngine id)

/-- The strip that a trap's return opens: stores that the trap's entry has left are performed first (R237). -/
def Track.leftStrip (t : Track) : Strip :=
  if t.left.isEmpty then {}
  else
    { isOpen := true, closing := true, buf := t.left, notes := t.leftNotes
      start := { pc := t.pc, x := t.x, m := t.m, vl := t.vl, vlmax := t.vlmax, sbase := t.sbase, arith := t.arith, fq := t.fq
                 loads := t.pending.map (·.id) } }

/-- TRAP.RET's steps 2, 4 and 5 (R235): at level 0 the trap registers, with acked and pmode, stay as they were. A load into x2 that the
handler made writes nothing back, as x2 is restored. -/
def Track.trapReturn (t : Track) : Track :=
  let f := mget {} t.level t.frames
  let l := t.level - 1
  let g := mget {} l t.frames
  let late := t.pending.filter fun p => !(p.reg == 2 && decide (l < p.level))
  let t := { t with super := f.pmode, pc := t.tepc, level := l, acked := true, strip := {}, pending := late }.setX 2 f.x2
  if 1 ≤ l then
    { t with tcause := g.tcause, taddr := g.taddr, tepc := g.tepc, tfpc := g.tfpc, telem := g.telem
             acked := g.acked, pmode := g.pmode, resume := g.engine }
  else { t with resume := none, strip := t.leftStrip, left := [], leftNotes := [] }

/-! Loads whose data comes back later (R245, R391). -/

/-- A load's data is written back, unless a debugger's write has cancelled that: to the register, and to the checkpoint of a strip that
began after the load. Data for x2 of a level below the current one goes where that level's x2 is kept (R232). -/
def Track.landLoad (t : Track) (p : PendingLoad) : Track :=
  let t := { t with pending := t.pending.filter fun x => x.id != p.id }
  if p.cancelled || p.reg = 0 then t
  else
    let deep := p.reg == 2 && decide (p.level < t.level)
    let t := if deep then { t with frames := (span (p.level + 1) (t.level - p.level)).foldl (fun m l =>
        if l = p.level + 1 ∨ 1 ≤ p.level then mupd {} l (fun (f : Frame) => { f with x2 := p.value }) m else m) t.frames } else t
    if deep && p.level == 0 then t
    else
      let c := t.strip.start
      { (t.setX p.reg p.value) with
          strip := if c.loads.contains p.id then { t.strip with start := { c with x := c.x.set p.reg p.value } } else t.strip }

/-- The value of a load or an atomic reaches its register: at once, or when LOAD_RESPONSE brings it, where one more request may be outstanding
(R250). -/
def State.writeBack (s : State) (d : Reg) (v : Word) : State :=
  if s.slow && s.requestRoom s.cur.1 then
    ({ s with nextId := s.nextId + 1 } : State).modMe fun t =>
      { t with pending := t.pending ++ [{ id := s.nextId, reg := d, value := v, pc := t.pc, level := t.level }] }
  else s.setX d v

/-! Which instructions close the strip, their energy classes, and their length. -/

/-- The strip-closing instructions of R64, and SETVL, before which the strip closes (R59) and which forms a strip by itself (R411; log entry
74). -/
def instrCloses : Instr → Bool
  | .cpy _ _ => true | .cpyAbort _ _ => true | .xfLoad _ _ => true | .opa _ _ _ _ _ _ => true | .strmCfg _ _ => true
  | .strmIdx _ _ _ => true | .strmLink _ _ => true | .strmStop _ => true | .strmSkip _ _ => true | .cbkLoad _ _ => true
  | .rowfill _ _ _ _ => true | .rowsend _ _ _ _ => true | .gdrain _ _ _ _ _ => true | .gsave _ _ _ _ => true
  | .gload _ _ _ _ => true | .gpark _ _ => true | .gunpark _ _ => true | .gzero _ => true
  | .amoSwap _ _ _ _ _ _ => true | .amoAdd _ _ _ _ _ _ => true | .amoAnd _ _ _ _ _ _ => true | .amoOr _ _ _ _ _ _ => true
  | .amoXor _ _ _ _ _ _ => true | .amoMin _ _ _ _ _ _ => true | .amoMax _ _ _ _ _ _ => true
  | .amoMinn _ _ _ _ _ _ => true | .amoMaxn _ _ _ _ _ _ => true | .amoFadd _ _ _ _ _ _ => true
  | .cas _ _ _ _ _ _ => true | .fence _ _ => true
  | .jctInit _ _ => true | .jctAdd _ _ _ => true | .jctWait _ _ _ _ => true | .jctTest _ _ _ => true
  | .barJoin _ => true | .barArrive _ _ => true | .barWait _ _ _ => true | .barLeave _ => true | .barReset _ _ => true
  | .barResetI _ _ _ => true | .meetOpen _ _ _ => true | .meetSlot _ _ _ => true | .meetArrive _ _ _ => true
  | .meetWait _ _ _ => true | .meetRejoin _ _ _ => true | .meetClose _ => true
  | .crossPost _ _ => true | .crossTake _ _ => true
  | .vatom _ _ _ _ _ _ _ _ _ => true | .vwait _ _ _ _ _ _ _ _ _ _ => true
  | .spawn _ _ _ _ => true | .cont _ _ => true | .exit => true | .launch _ _ => true | .trigger => true
  | .lanes _ _ => true | .gclaim _ _ _ => true | .gclaimT _ _ _ => true | .grelease => true | .syswr _ _ => true
  | .trap _ _ => true | .trapRet => true | .brk => true | .cflush _ => true | .tlbinv _ _ _ => true
  | .freeze _ _ => true | .thaw _ _ => true | .thawV _ _ => true | .imgSave _ _ _ => true | .imgLoad _ _ _ => true
  | .traceMark _ => true
  | .setvl _ _ => true | .setvlAdv _ _ => true
  | _ => false

/-- The number of ENERGY (R331). -/
def energyReg : Nat := 0x31

/-- Whether R463 charges a class at issue: 1 with class 5, 5 alone, 7, none here (OPA charges itself, PREF nothing, and SYSWR of ENERGY
replaces its own charge, R456), else 0. -/
inductive EnergyClass | zero | vector | bytes | sync | own
deriving DecidableEq, Repr

def energyClassOf : Instr → EnergyClass
  | .ld _ _ _ _ => .bytes | .st _ _ _ _ => .bytes
  | .syswr n _ => if n.val = energyReg then .own else .zero
  | .pref _ _ _ => .own | .opa _ _ _ _ _ _ => .own
  | .amoSwap _ _ _ _ _ _ => .sync | .amoAdd _ _ _ _ _ _ => .sync | .amoAnd _ _ _ _ _ _ => .sync
  | .amoOr _ _ _ _ _ _ => .sync | .amoXor _ _ _ _ _ _ => .sync | .amoMin _ _ _ _ _ _ => .sync
  | .amoMax _ _ _ _ _ _ => .sync | .amoMinn _ _ _ _ _ _ => .sync | .amoMaxn _ _ _ _ _ _ => .sync
  | .amoFadd _ _ _ _ _ _ => .sync | .cas _ _ _ _ _ _ => .sync | .fence _ _ => .sync
  | .vatom _ _ _ _ _ _ _ _ _ => .sync | .vwait _ _ _ _ _ _ _ _ _ _ => .sync
  | .jctInit _ _ => .sync | .jctAdd _ _ _ => .sync | .jctWait _ _ _ _ => .sync | .jctTest _ _ _ => .sync
  | .barJoin _ => .sync | .barArrive _ _ => .sync | .barWait _ _ _ => .sync | .barLeave _ => .sync
  | .barReset _ _ => .sync | .barResetI _ _ _ => .sync | .meetOpen _ _ _ => .sync | .meetSlot _ _ _ => .sync
  | .meetArrive _ _ _ => .sync | .meetWait _ _ _ => .sync | .meetRejoin _ _ _ => .sync | .meetClose _ => .sync
  | .crossPost _ _ => .sync | .crossTake _ _ => .sync
  | .mlogic _ _ _ _ _ => .zero | .mfirst _ _ _ => .zero | .mpopc _ _ _ => .zero | .mfind _ _ _ => .zero
  | .mtox _ _ _ => .zero | .mfromx _ _ _ => .zero
  | .rowfill _ _ _ _ => .zero | .rowsend _ _ _ _ => .zero | .gdrain _ _ _ _ _ => .zero | .gsave _ _ _ _ => .zero
  | .gload _ _ _ _ => .zero
  | .vadd _ _ _ _ _ => .vector | .vsub _ _ _ _ _ => .vector | .vmul _ _ _ _ _ => .vector
  | .vfma _ _ _ _ _ _ _ => .vector | .vdiv _ _ _ _ _ => .vector | .vsqrt _ _ _ _ => .vector | .vrcp _ _ _ => .vector
  | .vrsqrt _ _ _ => .vector | .vexp2 _ _ _ => .vector | .vlog2 _ _ _ => .vector | .vtanh _ _ _ => .vector
  | .vmin _ _ _ _ _ => .vector | .vmax _ _ _ _ _ => .vector | .vsgn _ _ _ _ _ _ => .vector | .vcvt _ _ _ _ _ => .vector
  | .viadd _ _ _ _ _ => .vector | .visub _ _ _ _ _ => .vector | .vimul _ _ _ _ _ => .vector | .vshl _ _ _ _ => .vector
  | .vshr _ _ _ _ => .vector | .vsra _ _ _ _ => .vector | .vand _ _ _ _ => .vector | .vor _ _ _ _ => .vector
  | .vxor _ _ _ _ => .vector | .vimin _ _ _ _ => .vector | .vimax _ _ _ _ => .vector | .vmv _ _ _ _ => .vector
  | .vsel _ _ _ _ _ _ => .vector | .vbcast _ _ _ _ _ => .vector | .vext _ _ _ _ => .vector | .vins _ _ _ _ => .vector
  | .vslide _ _ _ _ _ _ => .vector | .vperm _ _ _ _ _ => .vector | .vred _ _ _ _ _ _ _ => .vector
  | .vscan _ _ _ _ _ => .vector | .vfcmp _ _ _ _ _ _ => .vector | .vicmp _ _ _ _ _ => .vector
  | .vld _ _ _ _ _ => .vector | .vldx _ _ _ _ _ => .vector | .vldff _ _ _ _ _ => .vector
  | .vst _ _ _ _ => .vector | .vstx _ _ _ _ => .vector
  | _ => .zero

/-- The scalar registers that an address operand or a view names. -/
def viewRegs : View → List Reg
  | .x r => [r]
  | .row _ => [] | .col _ => [] | .diag _ => [] | .q _ => [] | .zero => [] | .iota => []
def storeRegs : StoreAddr → List Reg
  | .stride r => [r] | .scale r => [r]
def drainRegs : DrainAddr → List Reg
  | .stride r => [r] | .scale r => [r] | .index v => viewRegs v

/-- The scalar registers that an instruction's operands name, sources and destinations. -/
def instrRegs : Instr → List Reg
  | .add d a b => [d, a, b] | .sub d a b => [d, a, b] | .and d a b => [d, a, b] | .or d a b => [d, a, b] | .xor d a b => [d, a, b]
  | .shl d a b => [d, a, b] | .shr d a b => [d, a, b] | .sra d a b => [d, a, b] | .slt d a b => [d, a, b] | .sltn d a b => [d, a, b]
  | .min d a b => [d, a, b] | .max d a b => [d, a, b] | .minn d a b => [d, a, b] | .maxn d a b => [d, a, b] | .mul d a b => [d, a, b]
  | .mulh d a b => [d, a, b] | .mulhn d a b => [d, a, b] | .div d a b => [d, a, b] | .divn d a b => [d, a, b] | .rem d a b => [d, a, b]
  | .remn d a b => [d, a, b] | .clz d a => [d, a] | .ctz d a => [d, a] | .popc d a => [d, a] | .sel d a b c => [d, a, b, c]
  | .ext d a b => [d, a, b] | .ins d a b => [d, a, b] | .addi d a _ => [d, a] | .andi d a _ => [d, a] | .ori d a _ => [d, a]
  | .xori d a _ => [d, a] | .slti d a _ => [d, a] | .sltni d a _ => [d, a] | .shli d a _ => [d, a] | .shri d a _ => [d, a]
  | .srai d a _ => [d, a] | .lui d _ => [d] | .adpc d _ => [d] | .fadd _ d a b _ => [d, a, b] | .fsub _ d a b _ => [d, a, b]
  | .fmul _ d a b _ => [d, a, b] | .fma _ d a b _ => [d, a, b] | .fdiv _ d a b _ => [d, a, b] | .fsqrt _ d a _ => [d, a]
  | .fmin _ d a b => [d, a, b] | .fmax _ d a b => [d, a, b] | .fcmp _ _ d a b => [d, a, b] | .fcvt _ _ d a _ => [d, a]
  | .fclass _ d a => [d, a] | .ld _ d a _ => [d, a] | .st _ src a _ => [src, a] | .pref _ a _ => [a] | .amoSwap d a b _ _ _ => [d, a, b]
  | .amoAdd d a b _ _ _ => [d, a, b] | .amoAnd d a b _ _ _ => [d, a, b] | .amoOr d a b _ _ _ => [d, a, b]
  | .amoXor d a b _ _ _ => [d, a, b] | .amoMin d a b _ _ _ => [d, a, b] | .amoMax d a b _ _ _ => [d, a, b]
  | .amoMinn d a b _ _ _ => [d, a, b] | .amoMaxn d a b _ _ _ => [d, a, b] | .amoFadd d a b _ _ _ => [d, a, b]
  | .cas d a b _ _ _ => [d, a, b] | .beq a b _ => [a, b] | .bne a b _ => [a, b] | .blt a b _ => [a, b] | .bge a b _ => [a, b]
  | .bltn a b _ => [a, b] | .bgen a b _ => [a, b] | .jal d _ => [d] | .jalr d a _ => [d, a] | .sysrd d _ => [d] | .syswr _ a => [a]
  | .trap a _ => [a] | .cflush a => [a] | .tlbinv a b _ => [a, b] | .traceMark a => [a] | .freeze d a => [d, a] | .thaw d a => [d, a]
  | .thawV d a => [d, a] | .imgSave d a b => [d, a, b] | .imgLoad d a b => [d, a, b] | .spawn d a b _ => [d, a, b] | .cont a b => [a, b]
  | .launch d a => [d, a] | .setvl d a => [d, a] | .setvlAdv d a => [d, a] | .lanes d a => [d, a] | .gclaim d _ _ => [d]
  | .gclaimT d _ _ => [d] | .gpark a _ => [a] | .gunpark a _ => [a] | .fmt a => [a] | .opa _ _ _ _ _ k => [k] | .strmCfg _ a => [a]
  | .strmIdx _ a b => [a, b] | .strmLink _ a => [a] | .strmSkip _ a => [a] | .cbkLoad _ a => [a] | .cpy _ a => [a] | .cpyAbort d _ => [d]
  | .mileWait _ a => [a] | .xfLoad _ a => [a] | .jctInit a b => [a, b] | .jctAdd a b _ => [a, b] | .jctWait d a b _ => [d, a, b]
  | .jctTest d a _ => [d, a] | .barJoin a => [a] | .barArrive d a => [d, a] | .barWait d a b => [d, a, b] | .barLeave a => [a]
  | .barReset d a => [d, a] | .barResetI d a _ => [d, a] | .meetOpen d a b => [d, a, b] | .meetSlot d a b => [d, a, b]
  | .meetArrive d a b => [d, a, b] | .meetWait d a b => [d, a, b] | .meetRejoin d a b => [d, a, b] | .meetClose a => [a]
  | .crossPost _ a => [a] | .crossTake d _ => [d] | .vadd _ vd va vb _ => viewRegs vd ++ viewRegs va ++ viewRegs vb
  | .vsub _ vd va vb _ => viewRegs vd ++ viewRegs va ++ viewRegs vb | .vmul _ vd va vb _ => viewRegs vd ++ viewRegs va ++ viewRegs vb
  | .vfma _ _ vd va vb vc _ => viewRegs vd ++ viewRegs va ++ viewRegs vb ++ viewRegs vc
  | .vdiv _ vd va vb _ => viewRegs vd ++ viewRegs va ++ viewRegs vb | .vsqrt _ vd va _ => viewRegs vd ++ viewRegs va
  | .vrcp vd va _ => viewRegs vd ++ viewRegs va | .vrsqrt vd va _ => viewRegs vd ++ viewRegs va
  | .vexp2 vd va _ => viewRegs vd ++ viewRegs va | .vlog2 vd va _ => viewRegs vd ++ viewRegs va
  | .vtanh vd va _ => viewRegs vd ++ viewRegs va | .vmin _ vd va vb _ => viewRegs vd ++ viewRegs va ++ viewRegs vb
  | .vmax _ vd va vb _ => viewRegs vd ++ viewRegs va ++ viewRegs vb | .vsgn _ _ vd va vb _ => viewRegs vd ++ viewRegs va ++ viewRegs vb
  | .vcvt _ _ vd va _ => viewRegs vd ++ viewRegs va | .viadd vd va vb _ _ => viewRegs vd ++ viewRegs va ++ viewRegs vb
  | .visub vd va vb _ _ => viewRegs vd ++ viewRegs va ++ viewRegs vb | .vimul vd va vb _ _ => viewRegs vd ++ viewRegs va ++ viewRegs vb
  | .vshl vd va vb _ => viewRegs vd ++ viewRegs va ++ viewRegs vb | .vshr vd va vb _ => viewRegs vd ++ viewRegs va ++ viewRegs vb
  | .vsra vd va vb _ => viewRegs vd ++ viewRegs va ++ viewRegs vb | .vand vd va vb _ => viewRegs vd ++ viewRegs va ++ viewRegs vb
  | .vor vd va vb _ => viewRegs vd ++ viewRegs va ++ viewRegs vb | .vxor vd va vb _ => viewRegs vd ++ viewRegs va ++ viewRegs vb
  | .vimin vd va vb _ => viewRegs vd ++ viewRegs va ++ viewRegs vb | .vimax vd va vb _ => viewRegs vd ++ viewRegs va ++ viewRegs vb
  | .vmv _ vd va _ => viewRegs vd ++ viewRegs va | .vsel _ vd va vb _ _ => viewRegs vd ++ viewRegs va ++ viewRegs vb
  | .vbcast _ vd va xi _ => [xi] ++ viewRegs vd ++ viewRegs va | .vext _ xd va xi => [xd, xi] ++ viewRegs va
  | .vins _ vd xs xi => [xs, xi] ++ viewRegs vd | .vslide _ _ vd va xo _ => [xo] ++ viewRegs vd ++ viewRegs va
  | .vperm _ vd va vb _ => viewRegs vd ++ viewRegs va ++ viewRegs vb | .vred _ _ vd va _ _ _ => viewRegs vd ++ viewRegs va
  | .vscan _ _ vd va _ => viewRegs vd ++ viewRegs va | .vfcmp _ _ _ va vb _ => viewRegs va ++ viewRegs vb
  | .vicmp _ _ va vb _ => viewRegs va ++ viewRegs vb | .mpopc xd _ _ => [xd] | .mfind xd _ _ => [xd] | .mtox xd _ xh => [xd, xh]
  | .mfromx _ xs xh => [xs, xh] | .vld _ vd xs xr _ => [xs, xr] ++ viewRegs vd | .vldx _ vd xs vo _ => [xs] ++ viewRegs vd ++ viewRegs vo
  | .vldff _ vd xs xr _ => [xs, xr] ++ viewRegs vd | .vst va xs ad _ => [xs] ++ viewRegs va ++ storeRegs ad
  | .vstx va xs vo _ => [xs] ++ viewRegs va ++ viewRegs vo
  | .vatom _ _ _ _ vd xs va vb _ => [xs] ++ viewRegs vd ++ viewRegs va ++ viewRegs vb
  | .vwait _ _ _ _ _ xt xs va vb _ => [xt, xs] ++ viewRegs va ++ viewRegs vb | .rowfill _ _ _ xs => [xs] | .rowsend _ _ xs xj => [xs, xj]
  | .gdrain va xs ad xj _ => [xs, xj] ++ viewRegs va ++ drainRegs ad | .gsave _ _ xs xj => [xs, xj] | .gload _ _ xs xj => [xs, xj]
  | _ => []

/-- Whether an instruction waits for a load of its track (R391): it names a register whose data is still to come, which a debugger's
write has not made up for (R245). One that only writes the register waits as well, so that its value is the later one (log entry 50). -/
def Track.awaitsLoad (t : Track) (i : Instr) : Bool :=
  t.pending.any fun p => !p.cancelled && p.reg != 0 && (instrRegs i).contains p.reg

/-- Whether data for one of some registers is still to come: those that an instruction saves or restores besides the ones it names. -/
def Track.stillLoads (t : Track) (l : List Reg) : Bool := t.pending.any fun p => !p.cancelled && p.reg != 0 && l.contains p.reg

/-- Bytes of an instruction: 8 for a long form (R315). -/
def instrSize (i : Instr) : Nat := 4 * (encode i).length

/-! What is left after an instruction. -/

/-- Class 5: the bytes that loads, stores, pops and pushes accessed, charged by the track's running count (R463). -/
def State.chargeBytes (s : State) (n : Nat) : State :=
  let c := s.me.bytes5
  let q := (c + n) / 64 - c / 64
  (s.modMe fun t => { t with bytes5 := c + n }).charge s.cur.1 (q * s.weight s.cur.1 5)

/-- Counts an event of the core `n` times (R298). -/
def State.countEvent (s : State) (core code n : Nat) : State := s.modCore core (·.count code n)

/-- The element groups that an instruction processes (R62): a vector instruction's, the mask forms among them. -/
def groupsOf (i : Instr) (vl : Nat) : Nat :=
  let vector : Bool := match i with
    | .mlogic _ _ _ _ _ => true | .mfirst _ _ _ => true | .mpopc _ _ _ => true | .mfind _ _ _ => true
    | .mtox _ _ _ => true | .mfromx _ _ _ => true
    | .vatom _ _ _ _ _ _ _ _ _ => true | .vwait _ _ _ _ _ _ _ _ _ _ => true
    | i => energyClassOf i == .vector
  if vector then (vl + 15) / 16 else 0

/-- R463's charges at issue, but for class 5. `vl` is the grant the instruction issued with. -/
def State.chargeIssue (s : State) (i : Instr) (vl : Nat) : State :=
  let c := s.cur.1
  let groups := groupsOf i vl
  let s := s.countEvent c 0x03 groups
  match energyClassOf i with
  | .zero => s.charge c (s.weight c 0)
  | .vector => s.charge c (groups * s.weight c 1)
  | .bytes => s
  | .sync => s.charge c (s.weight c 7)
  | .own => s

/-- Class 5: the bytes of the accesses that an instruction has made. -/
def State.chargeAccesses (s : State) (i : Instr) : State :=
  let bytes := (s.me.touched.foldl (fun n a => n + a.bits) 7) / 8
  match energyClassOf i with
  | .zero => s
  | .vector => s.chargeBytes bytes
  | .bytes => s.chargeBytes bytes
  | .sync => s
  | .own => s

/-- Whether a trip filter of the core selects the track's trip (R288): 0 is every trip. -/
def filterHits (k : Core) (t : Track) (f : Nat) : Bool :=
  if f = 0 then true
  else match t.trip with
    | none => false
    | some tr =>
      let r := fun (o : Nat) => mget 0 (0x140 + 32 * (f - 1) + o) k.dbg
      fld (r 0) 31 0 == tr.ctx && (bitAt (r 8).toNat 32 || fld (r 8) 31 0 == tr.tag)
        && decide ((r 16).toNat ≤ t.levelidx.toNat) && decide (t.levelidx.toNat < (r 24).toNat)

/-- The strength of an action: halt the gang, halt the track, BREAK, no halt (R290). -/
def strength (a : Nat) : Nat := if a = 1 then 3 else if a = 0 then 2 else if a = 2 then 1 else 0

/-- The strongest of the actions of units that hit, with the lowest unit it comes from. -/
def strongest (hits : List (Nat × Nat)) : Option (Nat × Nat) :=
  hits.foldl (fun best h => match best with
    | none => some h
    | some b => if strength b.2 < strength h.2 then some h else some b) none

/-- Starts the trace window's stop count of a core's die when it is armed for the core's cluster (R299). -/
def State.triggerWindow (s : State) (core : Nat) : State :=
  s.modDie (dieOf core) fun d =>
    let r := d.reg 0x800
    if bitAt r.toNat 0 && bitAt r.toNat 4 && fld r 3 1 == clusterOf core % 8 && !d.twtriggered then
      { d with twtriggered := true, twleft := fld r 31 16 }
    else d

/-- The accesses of an instruction that watchpoint unit `u` matches (R292), lowest element first. -/
def watchMatches (k : Core) (t : Track) (u : Nat) : List (Word × Nat) :=
  let ctl := mget 0 (0x100 + 16 * u) k.dbg
  let n := 2 ^ fld ctl 11 8
  let lo := (mget 0 (0x108 + 16 * u) k.dbg).toNat / n * n
  if bitAt ctl.toNat 0 && filterHits k t (fld ctl 5 3) then
    (t.touched.filter fun a => ((a.writes && bitAt ctl.toNat 7) || (a.reads && bitAt ctl.toNat 6))
      && decide (a.addr.toNat < lo + n) && decide (lo < a.addr.toNat + a.size)).map fun a => (a.addr, a.elem)
  else []

/-- Counts the hits of watchpoint units in their hit fields, and starts the trace window where one says so (R290, R292). -/
def State.countHits (s : State) (ctl : Nat → Word) (hits : List Nat) : State :=
  let s := s.modMyCore fun k => { k with dbg := hits.foldl (fun m u =>
    mput (0x100 + 16 * u) (setFld (ctl u) 31 16 (fld (ctl u) 31 16 + 1)) m) k.dbg }
  if hits.any fun u => bitAt (ctl u).toNat 12 then s.triggerWindow s.cur.1 else s

/-- The lowest element among the accesses that a unit matched. -/
def lowestMatch (l : List (Word × Nat)) : Word × Nat :=
  l.foldl (fun (b : Word × Nat) m => if m.2 < b.2 then m else b) (l.headD (0, 0))

/-- The strongest action of the units that hit is owed after the instruction; with no halt it is the strip's close alone (R292). -/
def State.owe (s : State) (pc : Word) (found : Nat → List (Word × Nat)) (acts : List (Nat × Nat)) : State :=
  match strongest acts with
  | none => s
  | some (u, a) =>
    let best := lowestMatch (found u)
    s.modMe fun t => { t with owed := some (a, pc, best.1, BitVec.ofNat 64 best.2, u) }

/-- Watchpoint hits of the instruction that has completed: the counts, the triggers, and the action owed (R292). -/
def State.watch (s : State) (pc : Word) : State :=
  let k := s.myCore
  let found := watchMatches k s.me
  let hits := (span 0 4).filter fun u => !(found u).isEmpty
  let ctl := fun (u : Nat) => mget 0 (0x100 + 16 * u) k.dbg
  if hits.isEmpty then s
  else (s.countHits ctl hits).owe pc found (hits.map fun u => (u, fld (ctl u) 2 1))

/-- Whether the track's instruction has issued already, and waits (R279). -/
def Track.hasIssued (t : Track) : Bool :=
  match t.wait with
  | some w => w.issued
  | none => false

/-- The instruction issues: its charges (R463), event 0x02, and the trace window's note of it (R298, R300); once, whether it then completes
or waits. -/
def State.noteIssued (s : State) (i : Instr) (vl : Nat) (pc : Word) : State :=
  if s.me.hasIssued then s
  else
    ((s.chargeIssue i vl).modCore s.cur.1 fun k => { k with issued := k.issued ++ [(s.cur.2, pc)] }).countEvent s.cur.1 0x02 1

/-- Answers that the track's instruction asked for over Lesan have served. -/
def State.dropAnswers (s : State) : State :=
  { s with requests := s.requests.filter fun r => !(r.2.core == s.cur.1 && askUnits s.cur.2 r.2.unit) }

/-- What an instruction that completes leaves beside its track: energy, counters, watchpoints (R463, R298, R292). -/
def State.noted (s : State) (i : Instr) (vl : Nat) (pc : Word) : State :=
  let s := (((s.noteIssued i vl pc).chargeAccesses i).watch pc).dropAnswers
  if instrCloses i then s.countEvent s.cur.1 0x22 1 else s

/-- The track after an instruction: the pc (unless the instruction set it), and the strip's end after a strip-closing one, but for stores
that TRAP.RET finds left (R237). -/
def Track.moveOn (t : Track) (i : Instr) (pc : Word) (advance : Bool) (time : Nat) : Track :=
  { t with
      pc := if advance then pc + BitVec.ofNat 64 (instrSize i) else t.pc
      strip := if instrCloses i then (if t.strip.closing then t.strip else {})
        else { t.strip with count := t.strip.count + 1 }
      wait := none, touched := [], issuedAt := some time }

/-- An instruction has completed. -/
def State.retire (s : State) (i : Instr) (vl : Nat) (pc : Word) (advance : Bool) : State :=
  let s := s.noted i vl pc
  s.modMe fun t => t.moveOn i pc advance s.time

/-- The grid commands that a step over waits for with stepsync (R287). -/
def instrTargetsRows : Instr → Bool
  | .opa _ _ _ _ _ _ => true | .rowfill _ _ _ _ => true | .rowsend _ _ _ _ => true | .gdrain _ _ _ _ _ => true | .gzero _ => true
  | .gpark _ _ => true | .gunpark _ _ => true | .gsave _ _ _ _ => true | .gload _ _ _ _ => true
  | _ => false

/-- A step is over: the track halts again before its next instruction (R287), and before that waits for the rows given. -/
def State.endStepWith (s : State) (rows : List Nat) : State :=
  if !s.me.stepping then s else s.modMe fun t => { t with stepping := false, haltReq := true, haltWhy := 4, stepRows := rows }

/-- The rows of the command that the instruction stepped over has queued, where the step waits for them. -/
def State.stepRowsOf (s : State) (i : Instr) (pc : Word) : List Nat :=
  if s.me.stepsync && instrTargetsRows i then
    match s.myCore.gq.getLast? with
    | some g => if g.track = s.cur.2 ∧ g.fpc = pc then g.rows else []
    | none => []
  else []

/-- A step over an instruction that has completed. -/
def State.endStep (s : State) (i : Instr) (pc : Word) : State := s.endStepWith (s.stepRowsOf i pc)

/-- Whether a track may issue at all (R55): the operands of its next instruction are another matter. -/
def canIssue (k : Core) (t : Track) : Bool := !k.frozen && t.trip.isSome && !t.escalated && !t.halted

/-- The instruction at a track's pc, where it can be fetched with no effect on the caches. -/
def State.nextInstr (s : State) (c n : Nat) : Option Instr :=
  let w := { s with cur := (c, n) }.who
  let word := fun (va : Nat) => (s.peek w va .fetch).map fun pa => s.bytes pa 4
  let pc := (s.track c n).pc.toNat
  (word pc).bind fun w0 => (if isLong w0 then word (wrap (pc + 4)) else some 0).bind fun w1 =>
    match decodeWords w0 w1 with
    | .ok i => some i
    | .error _ => none

/-- Whether a track's next instruction waits for a load (R55, R391). -/
def State.awaitsLoad (s : State) (c n : Nat) : Bool :=
  let t := s.track c n
  !t.pending.isEmpty && (match s.nextInstr c n with
    | some i => t.awaitsLoad i
    | none => false)

/-- The rows that a wait on rows waits for. -/
def Track.awaitedRows (t : Track) (w : Wait) : List Nat :=
  match w.instr with
  | .gwait mask => if mask = 0 then span t.rowbase t.rows else (span t.rowbase t.rows).filter fun r => mask.getLsbD (r / 32)
  | _ => if w.kind = .busyRow then [w.obj] else span t.rowbase t.rows

/-- Whether EXIT of a track waits for the trip's rows and commands (R43 steps 1 and 2). -/
def Core.exitWaits (k : Core) (n : Nat) : Bool :=
  (span (k.track n).rowbase (k.track n).rows).any k.busy || k.copies.any (fun g => g.track == n) || k.gq.any (fun g => g.track == n)
    || k.cbkCmds.any (fun g => g.track == n)

/-- Whether what a waiting track waited for has come, though it has not gone on yet: it is ready again (R55). A wait that an event of its own
ends is over with that event. -/
def State.waitOver (s : State) (c n : Nat) (w : Wait) : Bool :=
  let k := s.core c
  let t := k.track n
  match w.kind with
  | .busyRow => !k.busy w.obj | .gwait => !(t.awaitedRows w).any k.busy | .release => !(t.awaitedRows w).any k.busy
  | .exit => !k.exitWaits n
  | .gridRoom => decide ((k.gq.filter fun g => g.track == n && !g.entered).length < 8)
  | .heldByte => !s.held c t.awaited
  | .overlap => (t.strip.buf ++ t.strip.pushes).head?.any fun g => (s.storeWaits c g.pa g.mask.toNat).isNone
  | .refill => match mfind w.obj k.streams with
    | some st => st.fault.isNone && decide (st.pos < st.freed + st.buffer.length)
    | none => true
  | .link => match mfind w.obj k.streams with
    | some st => st.linked && !st.held && decide (0 < st.credits ∨ st.pos < st.freed + st.buffer.length)
    | none => true
  | .stop => !k.opaUses w.obj && s.sentLanded c
  | .freeze => w.others == [1]
  | .abort => !(span 0 8).any fun q => (w.obj == q || w.obj == 8) && s.writeInFlight c n q
  | .remote => s.requests.any (fun r => r.2.core == c && askUnits n r.2.unit && r.2.answer.isSome)
  | .graphSlot => false | .tlb => false | .copyRoom => false | .milestone => false | .band => false | .crossTake => false
  | .crossPost => false | .junction => false | .barrier => false | .barrierNext => false | .meetSlot => false | .meetArrive => false
  | .meetWait => false | .vwait => false | .yield => false | .xfload => false | .cflush => false | .frozenCore => false

/-- Whether a track is ready to issue (R46, R55). -/
def State.isReady (s : State) (c n : Nat) : Bool :=
  canIssue (s.core c) (s.track c n) && (match (s.track c n).wait with
    | some w => s.waitOver c n w
    | none => !s.awaitsLoad c n)

/-- The tracks of the current core other than the current one that are ready to issue. -/
def State.readyOthers (s : State) : List Nat := (span 0 4).filter fun u => u != s.cur.2 && s.isReady s.cur.1 u

/-- Whether a track of the core has issued in the cycle in progress. -/
def Core.hasIssued (k : Core) (n : Nat) : Bool := k.issued.any fun e => e.1 == n

/-- The tracks that a waiting YIELD still waits for: those that it waited for up to now, are ready, and have not issued since the cycle of
the YIELD (R46). -/
def State.yieldsTo (s : State) (c : Nat) (w : Wait) : List Nat :=
  w.others.filter fun u => s.isReady c u && !(decide (1 ≤ w.cycles) && (s.core c).hasIssued u)

/-- The instruction waits (R55): it keeps its place where it already waits for the same thing. -/
def State.hold (s : State) (i : Instr) (k : WaitKind) (obj : Nat) : State :=
  let (n, s') := s.fresh
  match s.me.wait with
  | some w =>
    if w.instr = i ∧ w.kind = k then s.modMe fun t => { t with wait := some { w with obj := obj }, touched := [] }
    else s'.modMe fun t => { t with wait := some { w with seq := n, kind := k, obj := obj, instr := i }, touched := [] }
  | none =>
    let others := if k = .yield then s.readyOthers else []
    s'.modMe fun t => { t with wait := some { kind := k, seq := n, obj := obj, others := others, instr := i }, touched := [] }

/-- The instruction waits in its own part: it has issued, and is charged for that now (R279, R463). -/
def State.park (s : State) (i : Instr) (vl : Nat) (pc : Word) (k : WaitKind) (obj : Nat) : State :=
  ((s.noteIssued i vl pc).hold i k obj).modMe fun t => { t with wait := t.wait.map fun (w : Wait) => { w with issued := true } }

/-- The outcome of an instruction's own part. -/
def conclude (i : Instr) (vl : Nat) (pc : Word) (o : Out) (s0 : State) : State :=
  match o with
  | .done s => (s.retire i vl pc true).endStep i pc
  | .goes s => (s.retire i vl pc false).endStep i pc
  | .ends s => s.modMe fun t => { t with wait := none, touched := [] }
  | .trap f s => (s.modMe fun t => { t with wait := none, touched := [] }).syncFault f |>.endStepWith []
  | .held k obj s => s.hold i k obj
  | .wait k obj s => s.park i vl pc k obj
  | .closeFirst => s0

/-- Whether the track waits in an instruction whose own part has begun. -/
def Track.goesOn (t : Track) (i : Instr) : Bool :=
  match t.wait with
  | some w => w.issued && w.instr = i && !t.strip.closing
  | none => false

/-- Runs an instruction's own part: the strip closes first where the instruction closes it, or where the strip before was
one of more than eight rows (R64, R67). An instruction that has issued and waits goes on in its own strip: nothing comes in between. -/
def perform (i : Instr) (body : State → Out) (s : State) : Host.Outcome State Fault Refusal :=
  let pc := s.me.pc
  let vl := s.me.vl
  let closed := fun (s : State) => match s.stripClose with
    | .trap f s => .trap (if i = .exit then { f with epc := some pc } else f) s
    | .done s => match s.boundary with
      | some s => .ends s
      | none => body s.openStrip
    | .wait k obj s => .held k obj s
    | o => o
  let o := if (instrCloses i || s.me.strip.alone || s.me.strip.closing) && !s.me.goesOn i then closed s else body s.openStrip
  let o := match o with
    | .closeFirst => closed s.openStrip
    | o => o
  .next (conclude i vl pc o s)

/-- A waiting instruction goes on: its own part, or what is left of it, runs again in its track (R216). Nothing happens where the track
waits for something else, or cannot move. -/
def resumeWait (c n : Nat) (k : WaitKind) (body : Instr → State → Out) (s : State) : Host.Outcome State Fault Refusal :=
  let t := s.track c n
  match t.wait with
  | none => .next s
  | some w =>
    if w.kind ≠ k || (s.core c).frozen || t.halted || t.escalated then .next s
    else
      let s := { s with cur := (c, n) }
      .next (conclude w.instr t.vl t.pc (body w.instr s) s)

/-! A track's memory accesses (R186). -/

/-- What an access gives: the physical address, a fault, or a wait. -/
inductive Acc
  | ok (pa : Nat) (s : State)
  | fault (c : Cause) (s : State)
  | wait (k : WaitKind) (s : State)

/-- A scratchpad byte of the accessing agent's own core that is held (R148), or another core's that is frozen (R251). -/
def State.readWaits (s : State) (w : Who) (pa size : Nat) : Option WaitKind :=
  match area pa with
  | .scratch c o =>
    if c ≠ w.core then (if (s.core c).frozen then some .frozenCore else none)
    else if (span 0 size).any fun i => s.held c (o + i) then some .heldByte else none
  | _ => none

/-- R206: a line that the synchronisation engine has marked. -/
def State.isMarked (s : State) (pa : Nat) : Bool :=
  match area pa with
  | .sync d _ => (s.die d).marked.contains (pa / 64)
  | _ => false

/-- The die from which an agent's traffic comes: a unit of the system's own has none of the compute dies. -/
def Who.die (w : Who) : Nat := dieOf w.core

/-- The first checks of R186 of one aligned access, in its order: ALIGN, the window or translation, the link, marked lines, and POISON of
what the pool's code gives (R183). -/
def State.reach (s : State) (w : Who) (va size : Nat) (k : AccKind) : Acc :=
  if va % size ≠ 0 then .fault .align s
  else if s.walkHeld w va k then .wait .remote s
  else match s.find w va k with
    | .fault c s => .fault c s
    | .ok pa s =>
      if s.linkDown pa then .fault .linkDown s
      else if s.underTest w.die pa then .wait .remote s
      else if s.isMarked pa then .fault .protect s
      else if (s.settle pa size).poisoned pa then .fault .poison (s.settle pa size)
      else .ok pa (s.settle pa size)

/-- The checks of R186 of one aligned access: the first ones, the waits, and for data the region. `data = false` is a sync access. -/
def State.access (s : State) (w : Who) (va size : Nat) (k : AccKind) (data : Bool) : Acc :=
  match s.reach w va size k with
  | .fault c s => .fault c s
  | .wait k s => .wait k s
  | .ok pa s =>
    match (if k.reads then s.readWaits w pa size else none) with
    | some wk => .wait wk (if w.agent / 4 = w.core then s.modTrack w.core (w.agent % 4) fun t => { t with awaited := pa % 0x100000 } else s)
    | none =>
      if data then
        let (s, ok) := s.region w pa size k.writes
        if ok then .ok pa s else .fault .race s
      else .ok pa (s.enter w pa size false false true)

/-- Bytes of the strip store buffer laid over a granule's memory (R66). -/
def overlay (buf : List Granule) (pa : Nat) (v : Nat) : Nat :=
  match buf.find? (fun g => g.pa == pa / 8 * 8) with
  | none => v
  | some g =>
    let m := g.mask.toNat / 2 ^ (8 * (pa % 8)) % 256
    let d := g.data.toNat / 2 ^ (8 * (pa % 8)) % 256
    Nat.lor (Nat.land v (255 - m)) (Nat.land d m)

/-- A byte as the track sees it. -/
def State.ownByte (s : State) (pa : Nat) : Nat := overlay s.me.strip.buf pa (overlay s.me.left pa (s.byte pa).toNat)

/-- `n` bytes that a remote home has answered, as the track sees them. -/
def State.ownOver (s : State) (pa v : Nat) : Nat → Nat
  | 0 => 0
  | n + 1 => overlay s.me.strip.buf pa (overlay s.me.left pa (v % 256)) + 256 * s.ownOver (pa + 1) (v / 256) n

/-- `n` bytes as the track sees them. -/
def State.ownBytes (s : State) (pa : Nat) : Nat → Nat
  | 0 => 0
  | n + 1 => s.ownByte pa + 256 * s.ownBytes (pa + 1) n

/-- Puts masked bits of one byte in the strip store buffer, merging with a granule already there; none when a new granule
finds no room in the 512 of 4 KiB (R66, R67). -/
def bufferByte (buf : List Granule) (others : Nat) (pa v m : Nat) : Option (List Granule) :=
  let sh := 2 ^ (8 * (pa % 8))
  let base := pa / 8 * 8
  if buf.any (fun g => g.pa == base) then
    some (buf.map fun g => if g.pa = base then
      { g with data := (g.data &&& ~~~(BitVec.ofNat 64 (m * sh))) ||| BitVec.ofNat 64 (Nat.land v m * sh)
               mask := g.mask ||| BitVec.ofNat 64 (m * sh) } else g)
  else if buf.length + others < 512 then some (buf ++ [⟨base, BitVec.ofNat 64 (Nat.land v m * sh), BitVec.ofNat 64 (m * sh)⟩])
  else none

/-- Puts `n` whole bytes in the buffer. -/
def bufferBytes (buf : List Granule) (others pa : Nat) : Nat → Nat → Option (List Granule)
  | 0, _ => some buf
  | n + 1, v => (bufferByte buf others pa (v % 256) 255).bind fun b => bufferBytes b others (pa + 1) n (v / 256)

/-- Notes an access for the watchpoint units and the byte count. -/
def State.touch (s : State) (a : Touch) : State := s.modMe fun t => { t with touched := t.touched ++ [a] }

end Sys2Proof.Machine
end

