-- ==== Sys2Proof/Machine/Operands.lean ====
section
/-!
DEFINITION. Every operand form: a track's loads and buffered stores (R66, R186), views of the grid (R79, R93 to R97), stream pops
and pushes (R138, R139, R462), and the shared part of the vector forms that write a view (R428, R429).
-/
namespace Sys2Proof.Machine

/-- A part of an instruction: a value and the state after it, or the end of the instruction. -/
inductive Try (α : Type)
  | ok (a : α) (s : State)
  | stop (o : Out)

def Try.bind {α β : Type} (t : Try α) (f : α → State → Try β) : Try β :=
  match t with
  | .ok a s => f a s
  | .stop o => .stop o

def Try.out {α : Type} (t : Try α) (f : α → State → Out) : Out :=
  match t with
  | .ok a s => f a s
  | .stop o => o

/-! Loads and stores of a track. -/

/-- The element of the instruction whose turn it is when it comes to wait (R300). -/
def State.atElem (s : State) (e : Nat) : State := s.modMe fun t => { t with awaitedElem := some e }

/-- One aligned read by the track, its own buffered bytes first (R66); a remote read waits for its answer (R277). -/
def State.load1 (s : State) (va size elem : Nat) : Try Nat :=
  match s.access s.who va size .read true with
  | .fault c s => .stop (faulty c s (BitVec.ofNat 64 va) elem)
  | .wait k s => .stop (.wait k 0 (s.atElem elem))
  | .ok pa s =>
    match area pa with
    | .remote _ _ =>
      match s.ask s.cur.1 s.cur.2 pa 1 (toBytes 2 size) with
      | (some b, s) => .ok (s.ownOver pa (ofBytes b) size) s
      | (none, s) => .stop (.wait .remote 0 (s.atElem elem))
    | _ => .ok (s.ownBytes pa size) s

/-- Reads of consecutive bytes, one access each. -/
def State.loadEach (s : State) (va elem : Nat) : Nat → Try Nat
  | 0 => .ok 0 s
  | n + 1 => (s.load1 va 1 elem).bind fun b s => (s.loadEach (wrap (va + 1)) elem n).bind fun v s => .ok (b + 256 * v) s

/-- A data load of an element: a 5-byte element is read byte by byte (R178). -/
def State.load (s : State) (va size elem : Nat) : Try Nat :=
  if size = 5 then s.loadEach va elem 5 else s.load1 va size elem

/-- Notes what a store that is to enter the buffer has used, at its granule (R179, R278, R423). -/
def State.noteStore (s : State) (va pa : Nat) : State :=
  let used := if (windowOf va).isSome then none else s.cached s.who va true
  let note := fun (n : StoreNote) =>
    { n with
        slot := n.slot.or (s.slotOf pa), window := n.window || windowOf va == some 1
        uses := match used with
          | some e => if n.uses.contains e then n.uses else e :: n.uses
          | none => n.uses }
  s.modMe fun t => { t with strip := { t.strip with notes := mupd {} (pa / 8 * 8) note t.strip.notes } }

/-- The check of one aligned data write. -/
def State.check1 (s : State) (va size elem : Nat) : Try Nat :=
  match s.access s.who va size .write true with
  | .fault c s => .stop (faulty c s (BitVec.ofNat 64 va) elem)
  | .wait k s => .stop (.wait k 0 (s.atElem elem))
  | .ok pa s => .ok pa (s.noteStore va pa)

/-- The checks of a data write of an element: the physical address of each of its bytes. -/
def State.checkEach (s : State) (va elem : Nat) : Nat → Try (List Nat)
  | 0 => .ok [] s
  | n + 1 => (s.check1 va 1 elem).bind fun a s => (s.checkEach (wrap (va + 1)) elem n).bind fun l s => .ok (a :: l) s

def State.checkWrite (s : State) (va size elem : Nat) : Try (List Nat) :=
  if size = 5 then s.checkEach va elem 5
  else (s.check1 va size elem).bind fun a s => .ok (span a size) s

/-- Granules that the strip's stores, pushes and link pushes take (R66, R139). -/
def State.roomTaken (s : State) : Nat :=
  let t := s.me
  t.strip.buf.length + t.strip.pushes.length
    + (s.myCore.streams.map fun e => if e.2.owner = s.cur.2 then e.2.flits.length else 0).foldl (· + ·) 0

/-- Puts masked bytes, each with its address, in a list of granules. -/
def bufferAll (others : Nat) : List (Nat × Nat × Nat) → List Granule → Option (List Granule)
  | [], b => some b
  | (pa, v, m) :: t, b => (bufferByte b others pa v m).bind (bufferAll others t)

/-- Puts masked bytes in the strip store buffer; no room closes the strip first (R67). -/
def State.bufferStore (s : State) (l : List (Nat × Nat × Nat)) : Try Unit :=
  let b := s.me.strip.buf
  match bufferAll (s.roomTaken - b.length) l b with
  | none => .stop .closeFirst
  | some b => .ok () (s.modMe fun t => { t with strip := { t.strip with buf := b } })

/-- Whole bytes of a value at their addresses. -/
def byteList : List Nat → Nat → List (Nat × Nat × Nat)
  | [], _ => []
  | a :: t, v => (a, v % 256, 255) :: byteList t (v / 256)

/-- A data store of an element: the checks, then the buffer. -/
def State.store (s : State) (va size v elem : Nat) : Try Unit :=
  (s.checkWrite va size elem).bind fun l s => s.bufferStore (byteList l v)

/-- A store of half a byte (R110, R175). -/
def State.storeNibble (s : State) (va : Nat) (high : Bool) (v elem : Nat) : Try Unit :=
  (s.check1 va 1 elem).bind fun a s =>
    s.bufferStore [(a, if high then v % 16 * 16 else v % 16, if high then 240 else 15)]

/-! Cells (R79). -/

def cellF (c : Cell40) : Num := FloatFmt.fp32.value (roundFloat .rne .fp32 false (FloatFmt.acc40.value c.toNat)).1
def pairNat (lo hi : Cell40) : Nat := lo.toNat + 2 ^ 40 * hi.toNat
def cellD (lo hi : Cell40) : Num := FloatFmt.fp64.value (roundFloat .rne .fp64 false (FloatFmt.acc80.value (pairNat lo hi))).1

/-- A source element as an instruction sees it: inactive, a float value, or the 40 bits of an integer or raw cell. -/
inductive Elem
  | off
  | num (v : Num)
  | int (c : Cell40)
deriving DecidableEq, Repr

def Elem.isOn : Elem → Bool
  | .off => false
  | .num _ => true
  | .int _ => true

/-- The exact value: an integer cell's is its INT40 value. -/
def Elem.toNum : Elem → Num
  | .off => .fin ⟨false, 0, 0⟩
  | .num v => v
  | .int c => .ofInt (sInt 40 c.toNat)

/-- The INT40 value. -/
def Elem.toInt : Elem → Int
  | .off => 0
  | .num _ => 0
  | .int c => sInt 40 c.toNat

/-- Reads the cells at a place under an encoding. -/
def Core.readCell (k : Core) (e : Et) (r c : Nat) : Elem :=
  match e with
  | .f => .num (cellF (k.cell r c))
  | .d => .num (cellD (k.cell r c) (k.cell r (c + 1)))
  | .i => .int (k.cell r c)

/-- Reads the cells exactly, as a drain reads them (R376, R435). -/
def Core.exactCell (k : Core) (e : Et) (r c : Nat) : Elem :=
  match e with
  | .f => .num (FloatFmt.acc40.value (k.cell r c).toNat)
  | .d => .num (FloatFmt.acc80.value (pairNat (k.cell r c) (k.cell r (c + 1))))
  | .i => .int (k.cell r c)

/-- Writes the bits of a result: FP32 bits, FP64 bits or 40 bits. -/
def Core.writeCell (k : Core) (e : Et) (r c bits : Nat) : Core :=
  match e with
  | .f => k.setCell r c (BitVec.ofNat 40 (bits % 2 ^ 32 * 256))
  | .d => (k.setCell r c (BitVec.ofNat 40 (bits % 2 ^ 64 * 65536))).setCell r (c + 1) (BitVec.ofNat 40 (bits % 2 ^ 64 * 65536 / 2 ^ 40))
  | .i => k.setCell r c (BitVec.ofNat 40 bits)

/-! Views (R93). -/

/-- Row and first column of the cells behind element `i`; none where the element is inactive, and for special operands. -/
def viewCell (t : Track) (v : View) (e : Et) (i : Nat) : Option (Nat × Nat) :=
  let w := if e.wide then 2 else 1
  match v with
  | .row n => if i < 128 / w then some (n.val, w * i) else none
  | .col n => if i < t.rows then some (t.rowbase + i, n.val) else none
  | .diag n => if i < t.rows then some (t.rowbase + i, w * ((i + n.val) % (128 / w))) else none
  | .q _ => none
  | .zero => none
  | .iota => none
  | .x _ => none

/-- R84: the view names no row that the track does not hold. -/
def gridOk (t : Track) : View → Bool
  | .row n => t.holds n.val
  | .col _ => t.bands != 0
  | .diag _ => t.bands != 0
  | .q _ => true | .zero => true | .iota => true | .x _ => true

/-- R97: the busy row that the view waits for, after the first element that lies in it (R300). -/
def viewBusy (k : Core) (t : Track) (v : View) (act : Nat → Bool) : Option (Nat × Nat) :=
  match v with
  | .row n => if k.busy n.val then some (((List.range 128).find? act).getD 0, n.val) else none
  | .col _ => ((List.range t.rows).find? fun i => act i && k.busy (t.rowbase + i)).map fun i => (i, t.rowbase + i)
  | .diag _ => ((List.range t.rows).find? fun i => act i && k.busy (t.rowbase + i)).map fun i => (i, t.rowbase + i)
  | .q _ => none | .zero => none | .iota => none | .x _ => none

/-! Streams. -/

def Pattern.decoded (p : Pattern) : Bool := p.scale != 0 || p.sparse || p.et == .k8
def Pattern.pops (p : Pattern) : Nat := if p.pop = 0 then 128 else p.pop
def Pattern.isInput (p : Pattern) : Bool := p.dir == 0 || p.dir == 3
def Pattern.isOutput (p : Pattern) : Bool := p.dir == 1 || p.dir == 4

def isIntElem : ElemType → Bool
  | .int4 => true | .int8 => true | .uint8 => true | .int16 => true | .int32 => true | .int64 => true
  | .e2m1 => false | .e4m3 => false | .e5m2 => false | .fp16 => false | .bf16 => false | .fp32 => false | .fp64 => false
  | .k8 => false | .acc40 => false

/-- R462: which streams an encoding may pop. -/
def poppable (e : Et) (p : Pattern) : Bool :=
  match e with
  | .f => p.decoded || p.et.isFloat || p.et == .acc40
  | .d => p.decoded || p.et.isFloat
  | .i => (!p.decoded && isIntElem p.et) || p.et == .acc40

/-- R428: which streams an encoding may push. -/
def pushable (e : Et) (t : ElemType) : Bool :=
  match e with
  | .f => t == .fp32
  | .d => t == .fp64
  | .i => t == .int64 || t == .acc40

/-- The stream register where the track owns it. -/
def Core.owned (k : Core) (n q : Nat) : Option Stream :=
  match mfind q k.streams with
  | some st => if st.owner = n then some st else none
  | none => none

def Stream.left (st : Stream) : Nat := st.pat.total - st.pos
/-- Elements that one pop or push of a vector instruction takes (R138, R139). -/
def Stream.popSize (st : Stream) (vl : Nat) : Nat := min st.pat.pops vl

/-- R132, R138, R462: a pop raises STREAM at issue. -/
def popBad (k : Core) (n q vl : Nat) (e : Et) : Bool :=
  match k.owned n q with
  | none => true
  | some st => !st.pat.isInput || !poppable e st.pat || st.left == 0
      || (st.cut && st.freed + st.buffer.length < st.pos + min (st.popSize vl) st.left)

/-- R132, R136, R428: the destination stream is no output stream of a fitting type that the track owns. -/
def pushBad (k : Core) (n q : Nat) (e : Et) : Bool :=
  match k.owned n q with
  | none => true
  | some st => !st.pat.isOutput || !pushable e st.pat.et

/-- R139: the push would go past the last position. -/
def pushPast (k : Core) (n q vl : Nat) : Bool :=
  match k.owned n q with
  | none => true
  | some st => st.left < st.popSize vl || st.cut

/-- TELEM of a stream's engine fault (R140). -/
def streamElem (q e : Nat) : Word := BitVec.ofNat 64 (q * 2 ^ 61 + e % 2 ^ 61)

/-- Puts a record behind the older ones; among records of one cycle the lower engine comes first, then the lower register or channel
(R237). -/
def putRecord (r : EngRec) : List EngRec → List EngRec
  | [] => [r]
  | x :: l =>
    if r.time = x.time ∧ (r.engine < x.engine ∨ (r.engine = x.engine ∧ r.unit < x.unit)) then r :: x :: l else x :: putRecord r l

/-- Holds a fault record for the track that issued the command (R237). -/
def State.tellTrack (s : State) (core n : Nat) (r : EngRec) : State :=
  (s.modCore core (·.count 0x25 1)).modTrack core n fun t => { t with records := putRecord { r with time := s.time } t.records }

/-- A side stream of a stream: its owner's, and with the side direction (R136). -/
def Core.sideOf (k : Core) (owner q : Nat) : Option Stream :=
  match mfind q k.streams with
  | some sd => if sd.owner = owner ∧ sd.pat.dir = 2 then some sd else none
  | none => none

/-- Elements that a stream's refill buffer holds: 4 KiB and an eighth of the pool's refill extension (R74, R140). -/
def Core.refillRoom (k : Core) (p : Pattern) : Nat :=
  let bytes := 4096 + (0xF0000 - (k.pool % 16 * 0x10000 + k.parks * 20480)) / 8
  if p.et = .k8 then bytes * 4 else if p.sparse then bytes * 64 / (p.n * elemBits p.et) else bytes * 8 / elemBits p.et

/-- Elements that a refill decodes at once: the eight of a K8 codeword or of an N-of-8 group, else one. -/
def Pattern.group (p : Pattern) : Nat := if p.et = .k8 ∨ p.sparse then 8 else 1

/-- The scale byte of a per-row scaled pop: the side stream's next (R123); none where it is not there yet. -/
def Core.popScale (k : Core) (st : Stream) : Option (Option Nat) :=
  if st.pat.scale ≠ 2 then some none
  else match k.sideOf st.owner st.pat.sideScale with
    | none => none
    | some sd => match sd.buffer[sd.pos - sd.freed]? with
      | some (.val (.fin d)) => some (some d.mant)
      | some (.val .nan) => none
      | some (.val (.inf _)) => none
      | some (.cell _) => none
      | none => none

/-- The fault that a taking of the elements `[pos, pos + n)` reaches, with the scale bytes `[sp, sp + sn)` of a per-row scaled stream,
not told before: element, cause, address (R140). A stream whose side stream has run dry stops with STREAM (R136). -/
def Core.reachedAt (k : Core) (st : Stream) (pos n sp sn : Nat) : Option (Nat × Cause × Word) :=
  if st.told then none
  else match st.fault with
    | some (e, c, a) => if e < pos + n then some (e, c, a) else none
    | none =>
      if st.pat.scale ≠ 2 then none
      else match k.sideOf st.owner st.pat.sideScale with
        | none => some (pos, .stream, 0)
        | some sd =>
          if sd.pat.total < sp + sn then some (pos + (sd.pat.total - sp), .stream, 0)
          else match sd.fault with
            | some (e, c, a) => if e < sp + sn then some (pos + (e - sp), c, a) else none
            | none => none

/-- The fault that a pop of `n` elements by a vector instruction reaches. -/
def Core.reached (k : Core) (st : Stream) (n : Nat) : Option (Nat × Cause × Word) :=
  k.reachedAt st st.pos n (match mfind st.pat.sideScale k.streams with
    | some sd => sd.pos
    | none => 0) 1

/-- A stream's fault is held for the track whose pop, or whose OPA, reached it (R107, R140, R237). -/
def State.tellAt (s : State) (core n q : Nat) (fpc : Word) (f : Nat × Cause × Word) : State :=
  let st := mfind q (s.core core).streams
  let id := match st with
    | some st => st.id
    | none => 0
  let s := s.modCore core fun k => { k with streams := match st with
    | some st => mput q { st with told := true } k.streams
    | none => k.streams }
  s.tellTrack core n { cause := f.2.1, addr := f.2.2, elem := streamElem q f.1, fpc := fpc, engine := 1, unit := q, cmd := id, ended := false }

def State.tell (s : State) (q : Nat) (fpc : Word) (f : Nat × Cause × Word) : State := s.tellAt s.cur.1 s.cur.2 q fpc f

/-- Whether the strip itself keeps a pop from its elements: what it has popped fills the refill buffer until it closes (R65). -/
def Core.popsFill (k : Core) (t : Track) (q : Nat) (st : Stream) : Bool :=
  decide ((mfind q t.strip.start.pops).getD st.pos < st.pos) && decide (k.refillRoom st.pat < st.buffer.length + st.pat.group)

/-- Whether a pop has its elements (R140, R142); if not, what it waits for, its engine's fault told. Where the strip's own pops fill the
buffer, the strip closes just before the pop (log entry 59). -/
def State.popReady (s : State) (q vl : Nat) : Try Unit :=
  let k := s.myCore
  match k.owned s.cur.2 q with
  | none => .ok () s
  | some st =>
    let n := min (st.popSize vl) st.left
    let at_ := s.atElem (st.freed + st.buffer.length - st.pos)
    if st.held then .stop (.wait .link q at_)
    else match k.reached st n with
      | some f => .stop (.wait .refill q (at_.tell q s.me.pc f))
      | none =>
        if st.freed + st.buffer.length < st.pos + n || (k.popScale st).isNone then
          if k.popsFill s.me q st then .stop .closeFirst else .stop (.wait (if st.pat.dir = 3 then .link else .refill) q at_)
        else .ok () s

/-- Whether a push on a link has its credits (R142). Where the strip's own pushes, which go out at its close, hold credits that the push
needs, the strip closes just before it (log entry 59). -/
def State.pushReady (s : State) (q vl : Nat) : Try Unit :=
  let k := s.myCore
  match k.owned s.cur.2 q with
  | none => .ok () s
  | some st =>
    if st.pat.dir ≠ 4 then .ok () s
    else
      let at_ := s.atElem (st.credits - st.flits.length)
      match k.reached st (st.popSize vl) with
      | some f => .stop (.wait .link q (at_.tell q s.me.pc f))
      | none =>
        if !st.linked || st.held then .stop (.wait .link q at_)
        else if st.flits.length + st.popSize vl ≤ st.credits then .ok () s
        else if st.flits.isEmpty then .stop (.wait .link q at_)
        else .stop .closeFirst

/-- A stream element under an encoding (R462). -/
def SElem.read (e : Et) (scale : Option Nat) : SElem → Elem
  | .val v =>
    match e with
    | .i => match v with
      | .fin d => .int (BitVec.ofInt 40 (if 0 ≤ d.exp then d.signed * (2 ^ d.exp.toNat : Int) else d.signed / (2 ^ (-d.exp).toNat : Int)))
      | .nan => .int 0
      | .inf _ => .int 0
    | .f => .num (scaled scale v)
    | .d => .num (scaled scale v)
  | .cell c =>
    match e with
    | .i => .int c
    | .f => .num (cellF c)
    | .d => .num (cellF c)

/-- Element `i` of what the instruction pops from a stream. -/
def popElem (k : Core) (n vl q : Nat) (e : Et) (i : Nat) : Elem :=
  match k.owned n q with
  | none => .off
  | some st =>
    if min (st.popSize vl) st.left ≤ i then .off
    else match st.buffer[st.pos - st.freed + i]? with
      | none => .off
      | some x => x.read e (match k.popScale st with
        | some o => o
        | none => none)

/-- Element `i` of a source operand (R93, R94). -/
def readView (k : Core) (n : Nat) (t : Track) (v : View) (e : Et) (i : Nat) : Elem :=
  match v with
  | .q q => popElem k n t.vl q.val e i
  | .zero => match e with
    | .i => .int 0
    | .f => .num (.fin ⟨false, 0, 0⟩)
    | .d => .num (.fin ⟨false, 0, 0⟩)
  | .iota => match e with
    | .i => .int (BitVec.ofNat 40 i)
    | .f => .num (.ofInt i)
    | .d => .num (.ofInt i)
  | .x r => match e with
    | .i => .int (BitVec.ofNat 40 (t.getX r).toNat)
    | .f => .num (FloatFmt.fp32.value ((t.getX r).toNat % 2 ^ 32))
    | .d => .num (FloatFmt.fp64.value (t.getX r).toNat)
  | v => match viewCell t v e i with
    | none => .off
    | some (r, c) => k.readCell e r c

/-- The same, grid cells read exactly. -/
def readExact (k : Core) (n : Nat) (t : Track) (v : View) (e : Et) (i : Nat) : Elem :=
  match viewCell t v e i with
  | some (r, c) => k.exactCell e r c
  | none => readView k n t v e i

def viewStream : View → Option Nat
  | .q q => some q.val
  | .row _ => none | .col _ => none | .diag _ => none | .zero => none | .iota => none | .x _ => none

/-! Checks, waits and pops of a vector instruction. -/

/-- The operand checks of R336 step 5: GRIDOWN of every operand, then STREAM. Among the streams the field order of R321 is
taken, destination first; room for the push, which the pop comes before, is checked last (log entry 35). -/
def operandFault (k : Core) (n : Nat) (t : Track) (srcs : List (View × Et)) (dst : Option (View × Et)) :
    Option (Cause × Nat) :=
  let views := srcs.map (·.1) ++ (match dst with
    | some d => [d.1]
    | none => [])
  let target := dst.bind fun d => (viewStream d.1).map fun q => (q, d.2)
  if !(views.all (gridOk t)) then some (.gridOwn, 0)
  else match target.filter (fun d => pushBad k n d.1 d.2) with
  | some d => some (.stream, d.1)
  | none =>
    match srcs.find? (fun v => match viewStream v.1 with
        | some q => popBad k n q t.vl v.2
        | none => false) with
    | some v => some (.stream, (viewStream v.1).getD 0)
    | none => (target.filter fun d => pushPast k n d.1 t.vl).map fun d => (.stream, d.1)

/-- Waits for the elements of the streams popped. -/
def State.popsReady (s : State) (vl : Nat) : List Nat → Try Unit
  | [] => .ok () s
  | q :: t => (s.popReady q vl).bind fun _ s => s.popsReady vl t

/-- The streams that an instruction pops, each once (R138). -/
def popList (srcs : List (View × Et)) : List Nat :=
  srcs.foldl (fun l v => match viewStream v.1 with
    | some q => if l.contains q then l else l ++ [q]
    | none => l) []

/-- Everything that comes before a vector instruction's effect: its operand checks, its waits for busy rows, stream elements
and credits. `reads` says at which elements a source is read, `writes` at which the destination is written. -/
def State.vectorReady (s : State) (srcs : List (View × Et)) (dst : Option (View × Et)) (reads writes : Nat → Bool) : Try Unit :=
  let k := s.myCore
  let t := s.me
  match operandFault k s.cur.2 t srcs dst with
  | some (c, e) => .stop (faulty c s 0 e)
  | none =>
    match (srcs.findSome? fun v => viewBusy k t v.1 reads).or (dst.bind fun d => viewBusy k t d.1 writes) with
    | some (e, r) => .stop (.wait .busyRow r (s.atElem e))
    | none =>
      (s.popsReady t.vl (popList srcs)).bind fun _ s =>
        match dst with
        | some d => match viewStream d.1 with
          | some q => s.pushReady q t.vl
          | none => .ok () s
        | none => .ok () s

/-- Takes the popped elements off a stream, the scale byte of a per-row scaled pop off its side stream, and notes the reads. -/
def State.pop (s : State) (vl q : Nat) : State :=
  let k := s.myCore
  match k.owned s.cur.2 q with
  | none => s
  | some st =>
    let n := min (st.popSize vl) st.left
    let s := s.modMyCore fun k =>
      let m := mput q { st with pos := st.pos + n } k.streams
      { k with streams := if st.pat.scale = 2 then
          (match mfind st.pat.sideScale m with
            | some sd => mput st.pat.sideScale { sd with pos := sd.pos + 1 } m
            | none => m)
        else m }
    (List.range n).foldl (fun s i =>
      let (a, sz) := if st.pat.dir = 3 then (0, 0) else st.elemAt (st.pos + i)
      s.touch ⟨BitVec.ofNat 64 a, sz, i, true, false, elemBits st.pat.et⟩) s

def State.popAll (s : State) (vl : Nat) (l : List Nat) : State := l.foldl (fun s q => s.pop vl q) s

/-! Writing a result. -/

/-- Rows in which the destination is written, each once. -/
def writtenRows (t : Track) (v : View) (e : Et) (wr : Nat → Bool) : List Nat :=
  match v with
  | .row n => if (List.range 128).any wr then [n.val] else []
  | v => ((List.range t.rows).filter wr).filterMap fun i => (viewCell t v e i).map (·.1)

/-- Takes the shadows of rows. -/
def State.shadows (s : State) : List Nat → Try Unit
  | [] => .ok () s
  | r :: t => match s.shadow r with
    | none => .stop .closeFirst
    | some s => s.shadows t

/-- The shadows before a write (R65, R67): an instruction that writes more than eight rows forms a strip alone, without them. -/
def State.beforeRows (s : State) (rows : List Nat) : Try Unit :=
  if 8 < rows.length then
    if s.me.strip.count = 0 then .ok () (s.modMe fun t => { t with strip := { t.strip with alone := true } })
    else .stop .closeFirst
  else s.shadows rows

/-- Writes elements of a grid view; `r i` gives the bits of element `i`, or none where the element is not written. -/
def writeCells (t : Track) (v : View) (e : Et) (r : Nat → Option Nat) (k : Core) : Core :=
  (List.range 128).foldl (fun k i => match r i, viewCell t v e i with
    | some b, some (row, col) => k.writeCell e row col b
    | _, _ => k) k

/-- The stored bytes of a pushed result (R139, R428). -/
def pushBits (e : Et) (t : ElemType) (b : Nat) : Nat :=
  match e with
  | .i => if t = .int64 then intLow 64 (sInt 40 b) else b % 2 ^ 40
  | .f => b % 2 ^ 32
  | .d => b % 2 ^ 64

/-- Checks the pushes of an instruction in ascending order; the bytes to put in the buffer, highest element last (R139). -/
def State.pushChecks (s : State) (st : Stream) (e : Et) (r : Nat → Option Nat) : List Nat → Try (List (Nat × Nat × Nat))
  | [] => .ok [] s
  | i :: t =>
    match r i with
    | none => s.pushChecks st e r t
    | some b =>
      let (a, sz) := st.elemAt (st.pos + i)
      (s.checkWrite a sz i).bind fun l s =>
        ((s.touch ⟨BitVec.ofNat 64 a, sz, i, false, true, 8 * sz⟩).pushChecks st e r t).bind fun rest s =>
          .ok (byteList l (pushBits e st.pat.et b) ++ rest) s

/-- A link element (R142): exact. -/
def linkElem (e : Et) (b : Nat) : SElem :=
  match e with
  | .f => .val (FloatFmt.fp32.value b)
  | .d => .val (FloatFmt.fp64.value b)
  | .i => .cell (BitVec.ofNat 40 b)

/-- Pushes the active elements of a result (R139, R142). -/
def State.push (s : State) (q vl : Nat) (e : Et) (r : Nat → Option Nat) : Try Unit :=
  match s.myCore.owned s.cur.2 q with
  | none => .ok () s
  | some st =>
    let n := st.popSize vl
    if st.pat.dir = 4 then
      let l := (List.range n).map fun i => match r i with
        | some b => linkElem e b
        | none => .cell (Config.linkFill (s.tick + i))
      let s := { s with tick := s.tick + n }
      if 512 < s.roomTaken + l.length && s.me.strip.count != 0 then .stop .closeFirst
      else .ok () (((List.range n).foldl (fun s i => s.touch ⟨0, 0, i, false, true, elemBits st.pat.et⟩) s).modMyCore fun k => { k with streams := mput q { st with pos := st.pos + n, flits := st.flits ++ l } k.streams })
    else
      (s.pushChecks st e r (List.range n)).bind fun l s =>
        let b := s.me.strip.pushes
        match bufferAll (s.roomTaken - b.length) l b with
        | none => .stop .closeFirst
        | some b =>
          let s := s.modMe fun t => { t with strip := { t.strip with pushes := b } }
          .ok () (s.modMyCore fun k => { k with streams := mupd st q (fun st => { st with pos := st.pos + n }) k.streams })

/-- Writes a result to its destination: grid cells, with mz the zero in every other element of the view, or a push. -/
def State.writeView (s : State) (v : View) (e : Et) (mz : Bool) (r : Nat → Option Nat) : Try Unit :=
  match v with
  | .q q => s.push q.val s.me.vl e r
  | v =>
    let t := s.me
    let r' := fun (i : Nat) => match r i with
      | some b => some b
      | none => if mz then some 0 else none
    (s.beforeRows (writtenRows t v e fun i => (r' i).isSome)).bind fun _ s =>
      .ok () (s.modMyCore (writeCells t v e r'))

/-- Flags of the elements of an instruction, lowest first: ORed into ARITH, the first that is enabled noted (R69, R429). -/
def State.raiseAll (s : State) (l : List (Nat × Flags)) : State :=
  l.foldl (fun s x => s.modMe fun t => (t.raise x.2).noteArith x.2 x.1) s

/-- A vector form that writes a view (R428): its checks and waits, its pops, `f` at every active element, and its result. `extra` says
which elements of its sources it reads besides the active ones; `f` is given the source elements by operand and index, and gives
the bits and flags, or none where the element is inactive. -/
def vectorBody (vd : View) (ed : Et) (srcs : List (View × Et)) (extra : Nat → Bool) (mz : Bool) (mk : MReg)
    (read : Core → Nat → Track → View → Et → Nat → Elem)
    (f : (Nat → Nat → Elem) → Nat → Option (Nat × Flags)) (s : State) : Out :=
  let t := s.me
  let act := fun (i : Nat) => t.active mk i
  (s.vectorReady srcs (some (vd, ed)) (fun i => act i || extra i) (fun i => act i || mz)).out fun _ s =>
    let k := s.myCore
    let src := fun (j i : Nat) => match srcs[j]? with
      | some v => read k s.cur.2 t v.1 v.2 i
      | none => .off
    let on := fun (i : Nat) => act i && (List.range srcs.length).all (fun j => (src j i).isOn)
      && ((viewStream vd).isSome || (viewCell t vd ed i).isSome)
    let res := (List.range 128).map fun i => if on i then f src i else none
    let r := fun (i : Nat) => match res[i]? with
      | some (some x) => some x.1
      | some none => none
      | none => none
    ((s.popAll t.vl (popList srcs)).writeView vd ed mz r).out fun _ s =>
      .done (s.raiseAll ((List.range 128).filterMap fun i => match res[i]? with
        | some (some x) => some (i, x.2)
        | some none => none
        | none => none))

end Sys2Proof.Machine
end

