-- ==== Sys2Proof/Machine/Boot.lean ====
section
/-!
DEFINITION. How a word comes before a track: the launch, the mapping and the memory that `withFetchWord` stands for.
-/
namespace Sys2Proof.Machine

/-- Where the placed word stands: a page of die 0's HBM4, mapped at the same virtual address. -/
def bootPage : Nat := 0x1000000000

/-- A leaf entry of level 4: valid, readable, executable, user (R239). -/
def bootLeaf : Word := BitVec.ofNat 64 (bootPage + 1 + 2 + 8 + 16 + 64)

/-- Context 1 runs on core 0; its only trip is on track 0. -/
def bootTrip : Trip :=
  { serial := 0, ctx := 1, tag := 0, code := BitVec.ofNat 64 bootPage, frame := 0, levelidx := 0, level := 0, prio := 0,
    super := false, parent := .root, inst := .track 0 0 }

/-- Places a word and all it takes to be fetched next: its eight bytes (a short word has zeros after it), the translation, the
trip on track 0 of core 0 at that address in user mode, and that track's turn. -/
def State.placeWord (s : State) (w : Nat) : State :=
  let s := s.setBytes bootPage 8 w
  let s := s.modCore 0 fun k =>
    { k with
        ctx := some 1, lastCtx := some 1, pool := 5, frozen := false,
        tlb := { ctx := 1, va := bootPage, level := 4, entry := bootLeaf } :: k.tlb }
  let s := s.modTrack 0 0 fun t =>
    { t with pc := BitVec.ofNat 64 bootPage, trip := some bootTrip, ctxid := 1, desc := { flags := 0 }, super := false, level := 0, wait := none, pending := [],
             owed := none, haltReq := false, halted := false, escalated := false, strip := {}, records := [], opaTraps := [] }
  { s with schedule := [.issue 0 0], cur := (0, 0) }

end Sys2Proof.Machine
end

