-- ==== Sys2Proof/Machine/Alu.lean ====
section
/-!
DEFINITION. The scalar integer instructions (R326, R327, R338, R339) and what they compute.
-/
namespace Sys2Proof.Machine

/-- An instruction that sets one register from the registers and the PC, and does nothing else (R338). -/
def scalar (i : Instr) (d : Reg) (f : Track → Word) (s : State) : Host.Outcome State Fault Refusal :=
  perform i (fun s => .done (s.setX d (f s.me))) s

def ofBool (b : Bool) : Word := if b then 1 else 0

/-- The shift count (R412). -/
def shiftCount (b : Word) : Nat := b.toNat % 64

def mulHigh (a b : Word) : Word := BitVec.ofInt 64 (a.toInt * b.toInt / 2 ^ 64)
def mulHighN (a b : Word) : Word := BitVec.ofNat 64 (a.toNat * b.toNat / 2 ^ 64)

/-- R362. -/
def divide (a b : Word) : Word := if b = 0 then BitVec.allOnes 64 else BitVec.ofInt 64 (a.toInt.tdiv b.toInt)
def divideN (a b : Word) : Word := if b = 0 then BitVec.allOnes 64 else BitVec.ofNat 64 (a.toNat / b.toNat)
/-- R407. -/
def remainder (a b : Word) : Word := if b = 0 then a else BitVec.ofInt 64 (a.toInt.tmod b.toInt)
def remainderN (a b : Word) : Word := if b = 0 then a else BitVec.ofNat 64 (a.toNat % b.toNat)

/-- Set bits among the lowest `n`. -/
def countOnes (w : Nat) : Nat → Nat
  | 0 => 0
  | n + 1 => countOnes w n + (if w.testBit n then 1 else 0)

/-- R355, R361, R405. -/
def clz (a : Word) : Word := if a = 0 then 64 else BitVec.ofNat 64 (63 - Nat.log2 a.toNat)
def ctzGo (w : Nat) : Nat → Nat → Nat
  | 0, i => i
  | n + 1, i => if w.testBit i then i else ctzGo w n (i + 1)
def ctz (a : Word) : Word := BitVec.ofNat 64 (ctzGo a.toNat 64 0)
def popc (a : Word) : Word := BitVec.ofNat 64 (countOnes a.toNat 64)

/-- The bit field that a descriptor names: position and width (R364). -/
def fieldOf (b : Word) : Nat × Nat := (fld b 5 0, min (fld b 11 6 + 1) (64 - fld b 5 0))
def extract (a b : Word) : Word :=
  let (p, w) := fieldOf b
  let f := a.toNat / 2 ^ p % 2 ^ w
  if fld b 12 12 = 1 then BitVec.ofInt 64 (sInt w f) else BitVec.ofNat 64 f
def insert (d a b : Word) : Word :=
  let (p, w) := fieldOf b
  setFld d (p + w - 1) p a.toNat

def execAdd (d a b : Reg) (s : State) : Host.Outcome State Fault Refusal :=
  scalar (.add d a b) d (fun t => t.getX a + t.getX b) s
def execSub (d a b : Reg) (s : State) : Host.Outcome State Fault Refusal :=
  scalar (.sub d a b) d (fun t => t.getX a - t.getX b) s
def execAnd (d a b : Reg) (s : State) : Host.Outcome State Fault Refusal :=
  scalar (.and d a b) d (fun t => t.getX a &&& t.getX b) s
def execOr (d a b : Reg) (s : State) : Host.Outcome State Fault Refusal :=
  scalar (.or d a b) d (fun t => t.getX a ||| t.getX b) s
def execXor (d a b : Reg) (s : State) : Host.Outcome State Fault Refusal :=
  scalar (.xor d a b) d (fun t => t.getX a ^^^ t.getX b) s
def execShl (d a b : Reg) (s : State) : Host.Outcome State Fault Refusal :=
  scalar (.shl d a b) d (fun t => t.getX a <<< shiftCount (t.getX b)) s
def execShr (d a b : Reg) (s : State) : Host.Outcome State Fault Refusal :=
  scalar (.shr d a b) d (fun t => t.getX a >>> shiftCount (t.getX b)) s
def execSra (d a b : Reg) (s : State) : Host.Outcome State Fault Refusal :=
  scalar (.sra d a b) d (fun t => (t.getX a).sshiftRight (shiftCount (t.getX b))) s
def execSlt (d a b : Reg) (s : State) : Host.Outcome State Fault Refusal :=
  scalar (.slt d a b) d (fun t => ofBool ((t.getX a).slt (t.getX b))) s
def execSltn (d a b : Reg) (s : State) : Host.Outcome State Fault Refusal :=
  scalar (.sltn d a b) d (fun t => ofBool ((t.getX a).ult (t.getX b))) s
def execMin (d a b : Reg) (s : State) : Host.Outcome State Fault Refusal :=
  scalar (.min d a b) d (fun t => if (t.getX b).slt (t.getX a) then t.getX b else t.getX a) s
def execMax (d a b : Reg) (s : State) : Host.Outcome State Fault Refusal :=
  scalar (.max d a b) d (fun t => if (t.getX a).slt (t.getX b) then t.getX b else t.getX a) s
def execMinn (d a b : Reg) (s : State) : Host.Outcome State Fault Refusal :=
  scalar (.minn d a b) d (fun t => if (t.getX b).ult (t.getX a) then t.getX b else t.getX a) s
def execMaxn (d a b : Reg) (s : State) : Host.Outcome State Fault Refusal :=
  scalar (.maxn d a b) d (fun t => if (t.getX a).ult (t.getX b) then t.getX b else t.getX a) s
def execMul (d a b : Reg) (s : State) : Host.Outcome State Fault Refusal :=
  scalar (.mul d a b) d (fun t => t.getX a * t.getX b) s
def execMulh (d a b : Reg) (s : State) : Host.Outcome State Fault Refusal :=
  scalar (.mulh d a b) d (fun t => mulHigh (t.getX a) (t.getX b)) s
def execMulhn (d a b : Reg) (s : State) : Host.Outcome State Fault Refusal :=
  scalar (.mulhn d a b) d (fun t => mulHighN (t.getX a) (t.getX b)) s
def execDiv (d a b : Reg) (s : State) : Host.Outcome State Fault Refusal :=
  scalar (.div d a b) d (fun t => divide (t.getX a) (t.getX b)) s
def execDivn (d a b : Reg) (s : State) : Host.Outcome State Fault Refusal :=
  scalar (.divn d a b) d (fun t => divideN (t.getX a) (t.getX b)) s
def execRem (d a b : Reg) (s : State) : Host.Outcome State Fault Refusal :=
  scalar (.rem d a b) d (fun t => remainder (t.getX a) (t.getX b)) s
def execRemn (d a b : Reg) (s : State) : Host.Outcome State Fault Refusal :=
  scalar (.remn d a b) d (fun t => remainderN (t.getX a) (t.getX b)) s
def execClz (d a : Reg) (s : State) : Host.Outcome State Fault Refusal :=
  scalar (.clz d a) d (fun t => clz (t.getX a)) s
def execCtz (d a : Reg) (s : State) : Host.Outcome State Fault Refusal :=
  scalar (.ctz d a) d (fun t => ctz (t.getX a)) s
def execPopc (d a : Reg) (s : State) : Host.Outcome State Fault Refusal :=
  scalar (.popc d a) d (fun t => popc (t.getX a)) s
def execSel (d a b c : Reg) (s : State) : Host.Outcome State Fault Refusal :=
  scalar (.sel d a b c) d (fun t => if t.getX c = 0 then t.getX b else t.getX a) s
def execExt (d a b : Reg) (s : State) : Host.Outcome State Fault Refusal :=
  scalar (.ext d a b) d (fun t => extract (t.getX a) (t.getX b)) s
def execIns (d a b : Reg) (s : State) : Host.Outcome State Fault Refusal :=
  scalar (.ins d a b) d (fun t => insert (t.getX d) (t.getX a) (t.getX b)) s

def execAddi (d a : Reg) (imm : BitVec 16) (s : State) : Host.Outcome State Fault Refusal :=
  scalar (.addi d a imm) d (fun t => t.getX a + imm.signExtend 64) s
def execAndi (d a : Reg) (imm : BitVec 16) (s : State) : Host.Outcome State Fault Refusal :=
  scalar (.andi d a imm) d (fun t => t.getX a &&& imm.zeroExtend 64) s
def execOri (d a : Reg) (imm : BitVec 16) (s : State) : Host.Outcome State Fault Refusal :=
  scalar (.ori d a imm) d (fun t => t.getX a ||| imm.zeroExtend 64) s
def execXori (d a : Reg) (imm : BitVec 16) (s : State) : Host.Outcome State Fault Refusal :=
  scalar (.xori d a imm) d (fun t => t.getX a ^^^ imm.zeroExtend 64) s
def execSlti (d a : Reg) (imm : BitVec 16) (s : State) : Host.Outcome State Fault Refusal :=
  scalar (.slti d a imm) d (fun t => ofBool ((t.getX a).slt (imm.signExtend 64))) s
def execSltni (d a : Reg) (imm : BitVec 16) (s : State) : Host.Outcome State Fault Refusal :=
  scalar (.sltni d a imm) d (fun t => ofBool ((t.getX a).ult (imm.signExtend 64))) s
def execShli (d a : Reg) (sh : Fin 64) (s : State) : Host.Outcome State Fault Refusal :=
  scalar (.shli d a sh) d (fun t => t.getX a <<< sh.val) s
def execShri (d a : Reg) (sh : Fin 64) (s : State) : Host.Outcome State Fault Refusal :=
  scalar (.shri d a sh) d (fun t => t.getX a >>> sh.val) s
def execSrai (d a : Reg) (sh : Fin 64) (s : State) : Host.Outcome State Fault Refusal :=
  scalar (.srai d a sh) d (fun t => (t.getX a).sshiftRight sh.val) s
def execLui (d : Reg) (imm : BitVec 16) (s : State) : Host.Outcome State Fault Refusal :=
  scalar (.lui d imm) d (fun _ => imm.signExtend 64 <<< 16) s
def execAdpc (d : Reg) (imm : BitVec 16) (s : State) : Host.Outcome State Fault Refusal :=
  scalar (.adpc d imm) d (fun t => t.pc + imm.signExtend 64 <<< 16) s

/-! Branches and jumps (R349, R382). -/

/-- A jump to an address. -/
def State.goto (s : State) (pc : Word) : State := s.modMe fun t => { t with pc := pc }

/-- The target of a word offset. -/
def target (pc off : Word) : Word := pc + off <<< 2

/-- A conditional branch. -/
def branch (i : Instr) (c : Word → Word → Bool) (a b : Reg) (off : BitVec 16) (s : State) : Host.Outcome State Fault Refusal :=
  perform i (fun s =>
    if c (s.x a) (s.x b) then .goes (s.goto (target s.me.pc (off.signExtend 64))) else .done s) s

def execBeq (a b : Reg) (off : BitVec 16) (s : State) : Host.Outcome State Fault Refusal :=
  branch (.beq a b off) (fun x y => x == y) a b off s
def execBne (a b : Reg) (off : BitVec 16) (s : State) : Host.Outcome State Fault Refusal :=
  branch (.bne a b off) (fun x y => x != y) a b off s
def execBlt (a b : Reg) (off : BitVec 16) (s : State) : Host.Outcome State Fault Refusal :=
  branch (.blt a b off) (fun x y => x.slt y) a b off s
def execBge (a b : Reg) (off : BitVec 16) (s : State) : Host.Outcome State Fault Refusal :=
  branch (.bge a b off) (fun x y => !x.slt y) a b off s
def execBltn (a b : Reg) (off : BitVec 16) (s : State) : Host.Outcome State Fault Refusal :=
  branch (.bltn a b off) (fun x y => x.ult y) a b off s
def execBgen (a b : Reg) (off : BitVec 16) (s : State) : Host.Outcome State Fault Refusal :=
  branch (.bgen a b off) (fun x y => !x.ult y) a b off s
def execJal (d : Reg) (off : BitVec 21) (s : State) : Host.Outcome State Fault Refusal :=
  perform (.jal d off) (fun s =>
    .goes ((s.setX d (s.me.pc + 4)).goto (target s.me.pc (off.signExtend 64)))) s
def execJalr (d a : Reg) (imm : BitVec 16) (s : State) : Host.Outcome State Fault Refusal :=
  perform (.jalr d a imm) (fun s =>
    let t := s.x a + imm.signExtend 64
    if t.toNat % 4 ≠ 0 then faulty .align s t else .goes ((s.setX d (s.me.pc + 4)).goto t)) s

end Sys2Proof.Machine
end

