-- ==== Sys2Proof/Machine/Sync.lean ====
section
/-!
DEFINITION. Synchronising accesses of a track: acquires, releases and fences (R188 to R195, R369), and one atomic access (R205, R209).
-/
namespace Sys2Proof

def MemOrder.acquires : MemOrder → Bool
  | .acquire => true | .acqRel => true | .relaxed => false | .release => false
def MemOrder.releases : MemOrder → Bool
  | .release => true | .acqRel => true | .relaxed => false | .acquire => false
def FenceOrder.acquires : FenceOrder → Bool
  | .acquire => true | .acqRel => true | .release => false
def FenceOrder.releases : FenceOrder → Bool
  | .release => true | .acqRel => true | .acquire => false
def Size.bytes : Size → Nat
  | .b1 => 1 | .b2 => 2 | .b4 => 4 | .b8 => 8

end Sys2Proof

namespace Sys2Proof.Machine

def State.myLoc (s : State) : Loc := .core s.cur.1

/-- The track learns what happens before a point it has acquired. -/
def State.learn (s : State) (c : Clock) : State := s.modMe fun t => { t with clock := t.clock.join c }

/-- Adds releases that a relaxed read has seen, for a later acquire fence (R369). -/
def addPending (l new : List Rel) : List Rel := new.foldl (fun l r => if l.contains r then l else l ++ [r]) l

/-- A sync read of releases: an acquire takes them in at its scope; a later acquire fence may (R191, R369). -/
def State.syncRead (s : State) (rels : List Rel) (acq : Bool) (sc : Scope) : State :=
  let s := s.modMe fun t => { t with pendAcq := addPending t.pendAcq rels }
  if acq then s.learn (acquired s.myLoc sc rels) else s

/-- The releases that a sync write carries: its own, and the last release fence's (R191, R369). -/
def State.relsOf (s : State) (rel : Bool) (sc : Scope) : List Rel :=
  (if rel then [⟨s.myLoc, sc, s.who.released⟩] else [])
    ++ s.me.fenceRel.map fun f => ⟨s.myLoc, f.1, f.2⟩

/-- A command, a launch or a child goes out (R41, R44, R192): the track's later accesses are not part of what it knows. -/
def State.newTick (s : State) : State := s.modMe fun t => { t with clock := mput (s.cur.1 * 4 + s.cur.2) s.who.epoch t.clock }

/-- A sync access has been made: the track's next accesses belong to a new region (R193). -/
def State.newRegion (s : State) : State := s.newTick.modMe fun t => { t with region := s.who.epoch + 1 }

/-- Puts releases on the bytes of an atomic (R191). -/
def State.addRels (s : State) (pa n : Nat) (l : List Rel) : State := l.foldl (fun s r => s.addRel pa r n) s

/-- What the track's release fences release, with one more: a wider one before it still serves the agents that only it reaches (R369). -/
def fencesWith (l : List (Scope × Clock)) (sc : Scope) (c : Clock) : List (Scope × Clock) := (sc, c) :: l.filter fun f => sc.code < f.1.code

/-- FENCE (R190, R369). -/
def State.fence (s : State) (o : FenceOrder) (sc : Scope) : State :=
  let s := if o.acquires then s.learn (acquired s.myLoc sc s.me.pendAcq) else s
  (if o.releases then s.modMe fun t => { t with fenceRel := fencesWith t.fenceRel sc s.who.released } else s).newRegion

/-- The new value of an atomic of `bits` bits (R208), and FADD's flags. -/
def amoValue (op : AmoOp) (bits old b : Nat) : Nat × Flags :=
  let lo := fun (n : Nat) => n % 2 ^ bits
  match op with
  | .swap => (b, {})
  | .add => (lo (old + b), {})
  | .and => (Nat.land old b, {})
  | .or => (Nat.lor old b, {})
  | .xor => (Nat.xor old b, {})
  | .min => (if sInt bits b < sInt bits old then b else old, {})
  | .max => (if sInt bits old < sInt bits b then b else old, {})
  | .minn => (min old b, {})
  | .maxn => (max old b, {})
  | .fadd =>
    let f : FloatFmt := if bits = 32 then .fp32 else .fp64
    let (v, g) := numAdd false (f.value old) (f.value b)
    let (w, h) := roundFloat .rne f false v
    (w, g.or h)

/-- The check of an atomic access (R186, R342): the physical address. -/
def State.atomicCheck (s : State) (va size elem : Nat) : Try Nat :=
  match s.access s.who va size .rmw false with
  | .fault c s => .stop (faulty c s (BitVec.ofNat 64 va) elem)
  | .wait k s => .stop (.wait k 0 (s.atElem elem))
  | .ok pa s =>
    match s.storeWaits s.cur.1 (pa / 8 * 8) (2 ^ (8 * size) * 2 ^ (8 * (pa % 8)) - 2 ^ (8 * (pa % 8))) with
    | some k => .stop (.wait k 0 (s.atElem elem))
    | none => .ok pa s

/-- Performs a checked atomic at its home: reads, applies `f`, writes, with the edges of its order and scope; `wire` is what a
remote home is sent (R205, R277). The answers of a remote home come in the order in which it performed the atomics, so the edges between
this package's agents are made as they come (log entry 58). -/
def State.atomicAt (s : State) (pa size : Nat) (f : Nat → Nat) (o : MemOrder) (sc : Scope) (wire : List Byte) : Try Nat :=
  match area pa with
  | .remote _ _ =>
    match s.ask s.cur.1 s.cur.2 pa 5 wire with
    | (some b, s) =>
      let s := (s.syncRead (s.relsAt pa size) o.acquires sc).addRels pa size (s.relsOf o.releases sc)
      .ok (ofBytes b % 2 ^ (8 * size)) s.newRegion
    | (none, s) => .stop (.wait .remote 0 s)
  | _ =>
    let old := s.bytes pa size
    let s := s.syncRead (s.relsAt pa size) o.acquires sc
    let s := (s.setBytes pa size (f old)).addRels pa size (s.relsOf o.releases sc)
    .ok old s.newRegion

/-- An atomic of one address (R209). -/
def State.atomic (s : State) (va size elem : Nat) (f : Nat → Nat) (o : MemOrder) (sc : Scope) (wire : List Byte) : Try Nat :=
  (s.atomicCheck va size elem).bind fun pa s =>
    (s.atomicAt pa size f o sc wire).bind fun old s =>
      .ok old (s.touch ⟨BitVec.ofNat 64 va, size, elem, true, true, 0⟩)

end Sys2Proof.Machine
end

