-- ==== Sys2Proof/Machine/Engine.lean ====
section
/-!
DEFINITION. What the engines share: their accesses (R140, R144, R151, R182, R186), the records of their faults (R237), flags they
deliver (R116), and additions to junctions (R195, R383).
-/
namespace Sys2Proof.Machine

/-- What an engine's access comes to. -/
inductive EAcc
  | ok (pa : Nat) (s : State)
  | fault (c : Cause) (s : State)
  | wait (s : State)

/-- What an engine's operation gives: a value, a fault at an address, or a wait. -/
inductive ETry (α : Type)
  | ok (a : α) (s : State)
  | fault (c : Cause) (addr : Nat) (s : State)
  | wait (s : State)

def ETry.bind {α β : Type} (t : ETry α) (f : α → State → ETry β) : ETry β :=
  match t with
  | .ok a s => f a s
  | .fault c a s => .fault c a s
  | .wait s => .wait s

/-- Whether an engine's access to its own core's scratchpad waits for an earlier command (R148, R151), or one to another core's for
its thaw (R251). -/
def State.engineWaits (s : State) (w : Who) (pa size : Nat) (write : Bool) : Bool :=
  match area pa with
  | .scratch c o =>
    if c = w.core && !w.apart then (span 0 size).any fun i => s.earlier c w.agent (o + i) write
    else (s.core c).frozen
  | _ => false

/-- The number under which an agent asks other nodes: its core, or its die's. -/
def Who.asker (w : Who) : Nat := if w.apart then 512 + dieOf w.core else w.core

/-- Whether a write that another node has to acknowledge may go out (R250). -/
def State.storeRoom (s : State) (w : Who) (pa : Nat) : Bool :=
  match area pa with
  | .remote _ _ => s.requestRoom w.asker
  | _ => true

/-- The checks of one engine access (R186); `whole` says that the command writes every byte of the line (R182). -/
def State.engineCheck (s : State) (w : Who) (va size : Nat) (write whole : Bool) : EAcc :=
  if s.walkHeld w va (if write then .write else .read) then .wait s
  else match s.find w va (if write then .write else .read) with
  | .fault c s => .fault c s
  | .ok pa s =>
    if s.linkDown pa w.map then .fault .linkDown s
    else if s.underTest w.die pa then .wait s
    else if s.isMarked pa then .fault .protect s
    else if (s.settle pa size).poisoned pa && !(write && whole) then .fault .poison (s.settle pa size)
    else if write && !s.storeRoom w pa then .wait s
    else if (s.settle pa size).engineWaits w pa size write then .wait (s.settle pa size)
    else
      let (s, ok) := (s.settle pa size).region w pa size write
      if ok then .ok pa s else .fault .race s

/-- Reads one byte; a remote byte is asked for under the unit's number (R277). -/
def State.engineByte (s : State) (w : Who) (unit va : Nat) : ETry Nat :=
  match s.engineCheck w va 1 false false with
  | .fault c s => .fault c va s
  | .wait s => .wait s
  | .ok pa s =>
    match area pa with
    | .remote _ _ => match s.ask w.asker unit pa 1 (toBytes 2 1) w.map with
      | (some b, s) => .ok (ofBytes b % 256) s
      | (none, s) => .wait s
    | _ => .ok (s.byte pa).toNat s

/-- Reads `n` bytes, lowest first. -/
def State.engineBytes (s : State) (w : Who) (unit va : Nat) : Nat → ETry Nat
  | 0 => .ok 0 s
  | n + 1 => (s.engineByte w unit va).bind fun b s => (s.engineBytes w unit (wrap (va + 1)) n).bind fun v s => .ok (b + 256 * v) s

/-- Reads an aligned element of 2, 4 or 8 bytes as one access: another node is asked for it in one packet (R178). -/
def State.engineUnit (s : State) (w : Who) (unit va n : Nat) : ETry Nat :=
  match s.engineCheck w va n false false with
  | .fault c s => .fault c va s
  | .wait s => .wait s
  | .ok pa s =>
    match area pa with
    | .remote _ _ => match s.ask w.asker unit pa 1 (toBytes 2 n) w.map with
      | (some b, s) => .ok (ofBytes b % 2 ^ (8 * n)) s
      | (none, s) => .wait s
    | _ => .ok (s.bytes pa n) s

/-- Reads `n` bytes, an aligned element at once, and uses up the answers of other nodes. What is asked already goes by the remote map's entry
that its request has read (R278). -/
def State.engineRead (s : State) (w : Who) (unit va n : Nat) : ETry Nat :=
  let w := { w with slots := s.slotsOf w.asker (· == unit) }
  let one := (n == 2 || n == 4 || n == 8) && va % n == 0
  (if one then s.engineUnit w unit va n else s.engineBytes w unit va n).bind fun v s => .ok v (s.asked w.asker unit)

/-- Checks the bytes of a write before any is written: their physical addresses. -/
def State.engineChecks (s : State) (w : Who) (whole : Nat → Bool) (va : Nat) : Nat → ETry (List Nat)
  | 0 => .ok [] s
  | n + 1 => match s.engineCheck w va 1 true (whole (va / 64)) with
    | .fault c s => .fault c va s
    | .wait s => .wait s
    | .ok pa s => (s.engineChecks w whole (wrap (va + 1)) n).bind fun l s => .ok (pa :: l) s

/-- Writes masked bits of a byte of an engine's destination: releases at the byte end, and `last` clears the line's poison (R182). -/
def State.engineWrite (s : State) (w : Who) (pa v m : Nat) (last : Bool) : State :=
  let s := s.endRels pa 1
  let s := match area pa with
    | .remote _ _ => s.remoteMasked w.asker pa 1 v m w.map
    | _ => s.setMasked pa 1 v m
  if last && s.poisoned pa then s.setPoison pa false else s

/-- Writes the bytes of a value at their places, one after another. -/
def State.engineEach (s : State) (w : Who) (last : Bool) : List Nat → Nat → State
  | [], _ => s
  | pa :: t, v => (s.engineWrite w pa (v % 256) 255 last).engineEach w last t (v / 256)

/-- Writes the bytes of a value at their places: consecutive bytes at another node as one write (R178). -/
def State.engineWrites (s : State) (w : Who) (last : Bool) (l : List Nat) (v : Nat) : State :=
  match area (l.headD 0) with
  | .remote _ _ =>
    if l = span (l.headD 0) l.length then
      (s.endRels (l.headD 0) l.length).remoteMasked w.asker (l.headD 0) l.length v (2 ^ (8 * l.length) - 1) w.map
    else s.engineEach w last l v
  | _ => s.engineEach w last l v

/-- A command has ended: its accesses happen before its trip's completion (R43, R192). -/
def State.commandEnded (s : State) (core n : Nat) (w : Who) : State :=
  s.modTrack core n fun t => { t with ended := t.ended.join w.released }

/-- Flags landing in the issuer's ARITH (R106, R116). -/
def State.deliverFlags (s : State) (core n : Nat) (f : Flags) : State :=
  if f = {} then s else s.modTrack core n (·.deliver f)

/-! Junctions (R195). -/

/-- The contents of a junction after an addition: count and phase, and whether it flipped. -/
def jctSum (count expected phase units : Nat) : Nat × Nat × Bool :=
  let c := min (count + units) (2 ^ 64 - 1)
  if expected = 0 ∨ c < expected then (c, phase, false)
  else (c % expected, (phase + c / expected) % 2 ^ 32, true)

/-- Adds units at a junction's home. -/
def State.addUnits (s : State) (ctx pa units : Nat) (r : Rel) : State :=
  let (c, p, flip) := jctSum (s.bytes pa 8) (s.bytes (pa + 8) 8) (s.bytes (pa + 16) 4) units
  let s := (s.setBytes pa 8 c).setBytes (pa + 16) 4 p
  let s := s.emitAt r.loc 5 0 ctx (BitVec.ofNat 64 pa)
  let s := if flip then s.emitAt r.loc 6 0 ctx (BitVec.ofNat 64 pa) else s
  let j := mget {} (s.loc pa) s.jcts
  let l := r :: j.current
  { s with jcts := mput (s.loc pa) (if flip then { current := [], flipped := l ++ j.flipped } else { j with current := l }) s.jcts }

/-- An addition to a junction at another node, which has answered the phase after it, and in bit 32 whether it flipped: the flip that passes
it is that one, or the next (log entry 58). Its release is there from the answer on, whenever the adder takes it. -/
def State.jctFar (s : State) (pa answer : Nat) (l : List Rel) : State :=
  let flip := (answer % 2 ^ 32 + (if answer / 2 ^ 32 % 2 = 1 then 0 else 1)) % 2 ^ 32
  { s with jcts := mupd {} (s.loc pa) (fun (j : JctObj) => { j with far := l.map (fun r => (flip, r)) ++ j.far }) s.jcts }

/-- JCT.INIT at the home (R384). -/
def State.jctReset (s : State) (pa expected : Nat) : State := (s.setBytes pa 8 0).setBytes (pa + 8) 8 expected

/-- The checks of a junction's address in their order (R383); the operation reaches all of the object's bytes (R195). -/
def State.jctFind (s : State) (w : Who) (va : Nat) : Acc :=
  match windowOf va with
  | some 1 => .fault .window s
  | some 2 => .fault .window s
  | _ => if va % 64 ≠ 0 then .fault .align s
    else match s.access w va 8 .rmw false with
      | .ok pa s =>
        let s := s.enter w pa 64 false false true
        (match area pa with
        | .scratch c _ => if (s.core c).frozen then .wait .frozenCore s else .ok pa s
        | _ => .ok pa s)
      | o => o

/-- What a remote home is told of a junction operation: 16 an addition, 17 JCT.INIT, 18 a read of the phase. -/
def jctWire (op units : Nat) : List Byte := toBytes 1 op ++ toBytes 1 8 ++ toBytes 8 units ++ toBytes 8 0

/-- An engine command's addition to its junction, at system scope: it releases what the command's issuer released to it, and the
command's own accesses (R192, R195). -/
def State.engineAdd (s : State) (w : Who) (unit : Nat) (jct : Word) (units : Nat) (at_ : Loc := .core w.core) : ETry Unit :=
  match s.jctFind w jct.toNat with
    | .fault c s => .fault c jct.toNat s
    | .wait _ s => .wait s
    | .ok pa s =>
      match area pa with
      | .remote _ _ => match s.ask w.asker unit pa 5 (jctWire 16 units) with
        | (some _, s) => .ok () (s.asked w.asker unit)
        | (none, s) => .wait (s.askRels w.asker unit pa [⟨at_, .system, w.released⟩])
      | _ => .ok () (s.addUnits w.ctx pa units ⟨at_, .system, w.released⟩)

/-- The same for a record's junction field, in which 0 names none. -/
def State.engineJct (s : State) (w : Who) (unit : Nat) (jct : Word) (units : Nat) (at_ : Loc := .core w.core) : ETry Unit :=
  if jct = 0 then .ok () s else s.engineAdd w unit jct units at_

/-- The same for a grid command's junction register, in which x0 names none (R374). -/
def State.gridJct (s : State) (w : Who) (unit : Nat) (jct : Option Word) (units : Nat) : ETry Unit :=
  match jct with
  | some j => s.engineAdd w unit j units
  | none => .ok () s

end Sys2Proof.Machine
end

