-- ==== Sys2Proof/Machine/GridControl.lean ====
section
/-!
DEFINITION. Vector length and lanes (R57 to R61, R388, R411), bands (R82 to R87), format words (R91, R99, R100, R371), and the issue
of the grid engine's commands (R88, R90, R101 to R103, R157, R374, R375, R378, R379, R402, R408, R409, R461).
-/
namespace Sys2Proof.Machine

/-! Lanes and vector length. -/

/-- The lane word has no reserved bit and assigns at most eight groups (R57). -/
def laneValid (w : Nat) : Bool :=
  let c := fun (i : Nat) => w / 16 ^ i % 16
  decide (c 0 + c 1 + c 2 + c 3 ≤ 8) && w / 2 ^ 17 == 0

/-- Lane groups that a lane word gives a track (R57). -/
def laneGroups (w t : Nat) : Nat := if w % 65536 = 0 then 2 else w / 16 ^ t % 16

/-- The lane cap in force on a core: the steward's, under the hardware's (R58, R275). -/
def State.laneCap (s : State) (core : Nat) : Nat := min (fld (s.stew (dieOf core) (0x100 + 8 * (core % 128))) 3 0) (s.die (dieOf core)).cap

/-- Usable groups of a track that holds `h`, with `sum` held by all (R58). -/
def usable (cap sum h : Nat) : Nat := if h = 0 then 0 else if sum ≤ cap then h else max 1 (h * cap / sum)

/-- Groups the other tracks of the core hold. -/
def Core.othersHold (k : Core) (n : Nat) : Nat := (span 0 4).foldl (fun a t => if t = n then a else a + (k.track t).held) 0

/-- SETVL's effect (R59). -/
def State.setVl (s : State) (d a : Reg) (adv : Bool) : State :=
  let k := s.myCore
  let others := k.othersHold s.cur.2
  let h := min (laneGroups k.lane s.cur.2) (8 - others)
  let vlmax := 16 * usable (s.laneCap s.cur.1) (others + h) h
  let vl := min (s.x a).toNat vlmax
  (s.modMe fun t => { t with sbase := if adv then t.sbase + BitVec.ofNat 64 t.vl else t.sbase, held := h, vlmax := vlmax, vl := vl }).setX d
    (BitVec.ofNat 64 vl)

def execSetvl (d a : Reg) (s : State) : Host.Outcome State Fault Refusal :=
  perform (.setvl d a) (fun s => .done (s.setVl d a false)) s

def execSetvlAdv (d a : Reg) (s : State) : Host.Outcome State Fault Refusal :=
  perform (.setvlAdv d a) (fun s => .done (s.setVl d a true)) s

/-- LANES (R60, R388). -/
def execLanes (d a : Reg) (s : State) : Host.Outcome State Fault Refusal :=
  perform (.lanes d a) (fun s =>
    let w := (s.x a).toNat
    let old := s.myCore.lane
    if !s.me.super && !bitAt old 16 then faulty .priv s
    else if !laneValid w then faulty .illegal s
    else .done ((s.modMyCore fun k => { k with lane := w }).setX d (BitVec.ofNat 64 old))) s

/-! Bands. -/

/-- Whether another track of the core holds one of the bands. -/
def Core.bandHeld (k : Core) (n band count : Nat) : Bool :=
  (span 0 4).any fun u => u != n && (span band count).any fun b => (k.track u).band ≤ b && b < (k.track u).band + (k.track u).bands

/-- The bands that a waiting GCLAIM names. -/
def Wait.bands (w : Wait) : List Nat :=
  if w.kind = .band then span (w.obj % 4) (w.obj / 4) else []

/-- Whether an older waiting GCLAIM that could have its bands names one of these: it is served first. -/
def Core.bandQueued (k : Core) (n band count seq : Nat) : Bool :=
  (span 0 4).any fun u => u != n && (match (k.track u).wait with
    | some w => w.kind == .band && w.seq < seq && (w.bands.any fun b => (span band count).contains b)
      && !k.bandHeld u (w.obj % 4) (w.obj / 4)
    | none => false)

/-- Takes the bands (R86). -/
def State.takeBands (s : State) (d : Reg) (band count : Nat) : State :=
  (s.modMe fun t => { t with band := band, bands := count }).setX d (BitVec.ofNat 64 (32 * band))

/-- GCLAIM's own part: the claim, or its wait (R86, R373). -/
def claimBody (d : Reg) (band count : Fin 4) (tryIt : Bool) (s : State) : Out :=
  let n := count.val + 1
  let seq := match s.me.wait with
    | some w => w.seq
    | none => s.nextId
  if 4 < band.val + n then faulty .illegal s
  else if s.me.bands ≠ 0 then faulty .gridOwn s
  else if s.myCore.bandHeld s.cur.2 band.val n || (!tryIt && s.myCore.bandQueued s.cur.2 band.val n seq) then
    if tryIt then .done (s.setX d (BitVec.allOnes 64)) else .wait .band (band.val + 4 * n) s
  else .done (s.takeBands d band.val n)

def execGclaim (d : Reg) (band count : Fin 4) (s : State) : Host.Outcome State Fault Refusal :=
  perform (.gclaim d band count) (claimBody d band count false) s

def execGclaimT (d : Reg) (band count : Fin 4) (s : State) : Host.Outcome State Fault Refusal :=
  perform (.gclaimT d band count) (claimBody d band count true) s

/-- GCLAIM_GRANT: the waiting claim takes its bands when they are free (R373). -/
def execGclaimGrant (core t : Nat) (s : State) : Host.Outcome State Fault Refusal :=
  resumeWait core t .band (fun i s => match i with
    | .gclaim d band count => claimBody d band count false s
    | _ => .done s) s

/-- GRELEASE (R87, R380). -/
def execGrelease (s : State) : Host.Outcome State Fault Refusal :=
  perform .grelease (fun s =>
    let t := s.me
    if (span t.rowbase t.rows).any s.myCore.busy then .wait .release 0 s
    else .done (s.modMe fun t => { t with band := 0, bands := 0 })) s

/-- The rows of the bands of a mask. -/
def maskRows (mask : BitVec 4) : List Nat := (span 0 128).filter fun r => mask.getLsbD (r / 32)

/-- GWAIT (R89). -/
def execGwait (mask : BitVec 4) (s : State) : Host.Outcome State Fault Refusal :=
  perform (.gwait mask) (fun s =>
    let t := s.me
    let rows := if mask = 0 then span t.rowbase t.rows else maskRows mask
    if !(rows.all t.holds) then faulty .gridOwn s
    else if rows.any s.myCore.busy then .wait .gwait 0 s
    else .done s) s

/-! Format words. -/

/-- The types an ACC40 operand may have (R100). -/
def fmtFloat (t : Nat) : Bool := 3 ≤ t && t ≤ 8
def fmtInt (t : Nat) : Bool := t ≤ 2
/-- The types that take MX scales: FP4 E2M1, E4M3, E5M2, INT8, K8. -/
def fmtMx (t : Nat) : Bool := t == 0 || t == 3 || t == 4 || t == 5 || t == 12

/-- A legal format word (R99, R100). -/
def fmtLegal (w : Nat) : Bool :=
  let a := bitsOf w 3 0
  let b := bitsOf w 7 4
  let sa := bitsOf w 9 8
  let sb := bitsOf w 11 10
  let acc := bitsOf w 13 12
  let sp := bitsOf w 15 14
  let n := bitsOf w 18 16
  let slot := bitsOf w 20 19
  let types := (acc == 0 && (fmtFloat a || a == 12) && fmtFloat b) || (acc == 1 && fmtInt a && fmtInt b)
    || (acc == 2 && a == 9 && b == 9 && sa == 0 && sb == 0 && sp == 0)
  let scales := sa != 3 && sb != 3 && (sa != 1 || fmtMx a) && (sb != 1 || fmtMx b) && (a != 12 || sa == 1)
  let sparse := (sp == 0 && n == 0) || (sp == 1 && (n == 1 || n == 2 || n == 4))
  types && scales && sparse && (slot == 0 || a == 12) && bitsOf w 31 21 == 0

/-- FMT (R91, R371). -/
def execFmt (a : Reg) (s : State) : Host.Outcome State Fault Refusal :=
  perform (.fmt a) (fun s =>
    let v := (s.x a).toNat
    if 2 ^ 32 ≤ v then faulty .illegal s
    else if 8 ≤ s.me.fq.length then faulty .illegal s
    else if !fmtLegal v then faulty .fmtBad s
    else .done (s.modMe fun t => { t with fq := t.fq ++ [BitVec.ofNat 32 v] })) s

/-! Issue of the grid engine's commands. -/

/-- The junction that a grid command's register names: x0 names none (R374). -/
def State.junctionReg (s : State) (xj : Reg) : Option Word := if xj = 0 then none else some (s.x xj)

/-- A command as it issues from the current track, but for its number and clock. R376 has a GDRAIN take SBASE and ARITH.salt at issue; its SRSEED and a
dynamic rounding mode are taken then too, of which R112 and R120 name no moment (DESIGN CHOICE, log entry 81). -/
def State.newCmd (s : State) (op : GridOp) (rows : List Nat) (jct : Option Word) : GridCmd :=
  let t := s.me
  { id := 0, track := s.cur.2, ctx := t.ctxid, super := t.super, fpc := t.pc, op := op, rows := rows, jct := jct, vl := t.vl,
    sbase := t.sbase, salt := t.arith >>> 16 &&& 0xFFFF#64, seed := t.srseed, rowbase := t.rowbase, rowCount := t.rows }

/-- Puts a command in the grid engine's queue: it waits while eight of the track's commands have not entered (R461). The command's
accesses come after the track's earlier ones, and run beside its later ones (R192, R193). -/
def State.issueCmd (s : State) (g : GridCmd) : Out :=
  if 8 ≤ (s.myCore.gq.filter fun c => c.track == s.cur.2 && !c.entered).length then .wait .gridRoom 0 s
  else
    let (id, s) := s.fresh
    let clock := s.who.released
    let s := s.newTick
    .done (s.modMyCore fun k => { k with gq := k.gq ++ [{ g with id := id, clock := clock }] })

def execGzero (mask : BitVec 4) (s : State) : Host.Outcome State Fault Refusal :=
  perform (.gzero mask) (fun s =>
    if mask = 0 then faulty .illegal s
    else if !((maskRows mask).all s.me.holds) then faulty .gridOwn s
    else s.issueCmd (s.newCmd .zero (maskRows mask) none)) s

/-- GPARK and GUNPARK (R90, R379). -/
def parkBody (slot : Word) (band : Fin 4) (op : Nat → GridOp) (s : State) : Out :=
  if s.myCore.parks ≤ slot.toNat then faulty .illegal s
  else if !((span (32 * band.val) 32).all s.me.holds) then faulty .gridOwn s
  else s.issueCmd (s.newCmd (op slot.toNat) (span (32 * band.val) 32) none)

def execGpark (a : Reg) (band : Fin 4) (s : State) : Host.Outcome State Fault Refusal :=
  perform (.gpark a band) (fun s => parkBody (s.x a) band .park s) s

def execGunpark (a : Reg) (band : Fin 4) (s : State) : Host.Outcome State Fault Refusal :=
  perform (.gunpark a band) (fun s => parkBody (s.x a) band .unpark s) s

/-- What the decoder of a stream must be for a side of a format word (R103 step 6): type, scale mode, N of 8 and codebook slot. -/
def fmtMatches (p : Pattern) (type scale : Nat) (sparse : Bool) (n slot : Nat) : Bool :=
  p.et.code == type && p.scale == scale && p.sparse == sparse && (!sparse || p.n == n) && (p.et != .k8 || p.slot == slot)

/-- R103 step 5 for one stream. -/
def opaStreamBad (k : Core) (n : Nat) (q : Q8) (count : Nat) : Bool :=
  match k.owned n q.val with
  | none => true
  | some st => !st.pat.isInput || decide (st.left < count) || (st.cut && decide (st.freed + st.buffer.length < st.pos + count))

/-- Energy class of an OPA (R279): by the wider of its two types. -/
def opaClass (w : Nat) : Nat :=
  let cls := fun (t : Nat) => if t = 8 ∨ t = 9 then 4 else if t = 6 ∨ t = 7 then 3 else 2
  max (cls (bitsOf w 3 0)) (cls (bitsOf w 7 4))

/-- Passes over elements of a stream that an OPA has reserved, with `scales` bytes of a per-row scale stream (R402, R123). -/
def Core.reserve (k : Core) (q elems scales : Nat) : Core :=
  match mfind q k.streams with
  | none => k
  | some st =>
    let m := mput q { st with pos := st.pos + elems } k.streams
    { k with streams := if st.pat.scale = 2 then
        (match mfind st.pat.sideScale m with
          | some sd => mput st.pat.sideScale { sd with pos := sd.pos + scales } m
          | none => m)
      else m }

/-- Where a stream's scale stream stands. -/
def Core.sidePos (k : Core) (q : Nat) : Nat :=
  match mfind q k.streams with
  | none => 0
  | some st => match mfind st.pat.sideScale k.streams with
    | none => 0
    | some sd => sd.pos

/-- OPA's own part (R103, R402). -/
def opaBody (na nb z : Bool) (qa qb : Q8) (xk : Word) (s : State) : Out :=
  let t := s.me
  let kk := s.myCore
  let k := fld xk 8 0
  let m := fld xk 15 9 + 1
  let n := fld xk 22 16 + 1
  let col0 := fld xk 29 23
  let row0 := fld xk 36 30
  if k = 0 ∨ 256 < k ∨ fld xk 63 37 ≠ 0 ∨ 128 < col0 + n ∨ qa = qb then faulty .illegal s
  else if t.bands = 0 ∨ t.rows < row0 + m then faulty .gridOwn s
  else match t.fq with
  | [] => faulty .fmtEmpty s
  | f :: rest =>
    let w := f.toNat
    if bitsOf w 13 12 = 2 ∧ 64 < col0 + n then faulty .illegal s
    else if opaStreamBad kk s.cur.2 qa (k * m) then faulty .stream s 0 qa.val
    else if opaStreamBad kk s.cur.2 qb (k * n) then faulty .stream s 0 qb.val
    else
      let pa := (kk.owned s.cur.2 qa.val).map (·.pat)
      let pb := (kk.owned s.cur.2 qb.val).map (·.pat)
      let okA := pa.any fun p => fmtMatches p (bitsOf w 3 0) (bitsOf w 9 8) (bitsOf w 15 14 == 1) (bitsOf w 18 16) (bitsOf w 20 19)
      let okB := pb.any fun p => fmtMatches p (bitsOf w 7 4) (bitsOf w 11 10) false 0 0
      if !(okA && okB) then faulty .fmtBad s
      else
        let rows := span (t.rowbase + row0) m
        let pos := fun (q : Q8) => match mfind q.val kk.streams with
          | some st => st.pos
          | none => 0
        let g := { s.newCmd (.opa na nb z qa qb k m n col0 f) rows none with
          posA := pos qa, posB := pos qb, sideA := kk.sidePos qa.val, sideB := kk.sidePos qb.val }
        match s.issueCmd g with
        | .done s =>
          let bands := (t.rowbase + row0 + m - 1) / 32 + 1 - (t.rowbase + row0) / 32
          let s := s.modMyCore fun c => (c.reserve qa.val (k * m) m).reserve qb.val (k * n) n
          .done ((s.modMe fun t => { t with fq := rest }).charge s.cur.1 (k * bands * s.weight s.cur.1 (opaClass w)))
        | o => o

def execOpa (na nb z : Bool) (qa qb : Q8) (k : Reg) (s : State) : Host.Outcome State Fault Refusal :=
  perform (.opa na nb z qa qb k) (fun s => opaBody na nb z qa qb (s.x k) s) s

/-- The types a ROWFILL takes (R408). -/
def fillType : ElemType → Bool
  | .int8 => true | .uint8 => true | .e4m3 => true | .e5m2 => true | .fp16 => true | .bf16 => true | .fp32 => true | .fp64 => true
  | .int16 => true | .int32 => true | .acc40 => true
  | .int4 => false | .e2m1 => false | .k8 => false | .int64 => false

/-- ROWFILL (R153, R408). -/
def execRowfill (et : ElemType) (row : Fin 128) (count : Fin 8) (xs : Reg) (s : State) : Host.Outcome State Fault Refusal :=
  perform (.rowfill et row count xs) (fun s =>
    let n := count.val + 1
    let rows := span row.val n
    let a := s.x xs
    if !fillType et || decide (128 < row.val + n) then faulty .illegal s
    else if !(rows.all s.me.holds) then faulty .gridOwn s
    else if et ≠ .acc40 ∧ a.toNat % elemBytes et ≠ 0 then faulty .align s a
    else s.issueCmd (s.newCmd (.fill et a) rows none)) s

/-- ROWSEND (R154, R409). Source rows above 127 are rows not held (R84). -/
def execRowsend (row : Fin 128) (count : Fin 8) (xs xj : Reg) (s : State) : Host.Outcome State Fault Refusal :=
  perform (.rowsend row count xs xj) (fun s =>
    let n := count.val + 1
    let w := s.x xs
    let target := fld w 8 0
    let first := fld w 15 9
    let rows := span row.val n
    let j := s.junctionReg xj
    if fld w 63 16 ≠ 0 ∨ 128 < first + n then faulty .illegal s
    else if target = s.cur.1 ∧ first < row.val + n ∧ row.val < first + n then faulty .illegal s
    else if !(rows.all s.me.holds) then faulty .gridOwn s
    else if j.any (·.toNat % 64 ≠ 0) then faulty .align s (j.getD 0)
    else s.issueCmd (s.newCmd (.send target first) rows j)) s

/-- GSAVE and GLOAD (R378). -/
def saveBody (row : Fin 128) (count : Fin 32) (a : Word) (j : Option Word) (op : Word → GridOp) (s : State) : Out :=
  let n := count.val + 1
  let rows := span row.val n
  if 128 < row.val + n then faulty .illegal s
  else if !(rows.all s.me.holds) then faulty .gridOwn s
  else if a.toNat % 64 ≠ 0 then faulty .align s a
  else if j.any (·.toNat % 64 ≠ 0) then faulty .align s (j.getD 0)
  else s.issueCmd (s.newCmd (op a) rows j)

def execGsave (row : Fin 128) (count : Fin 32) (xs xj : Reg) (s : State) : Host.Outcome State Fault Refusal :=
  perform (.gsave row count xs xj) (fun s => saveBody row count (s.x xs) (s.junctionReg xj) .save s) s

def execGload (row : Fin 128) (count : Fin 32) (xs xj : Reg) (s : State) : Host.Outcome State Fault Refusal :=
  perform (.gload row count xs xj) (fun s => saveBody row count (s.x xs) (s.junctionReg xj) .load s) s

/-- The encoding under which a drain reads its source (R376). -/
def drainEt (cv : VConv) : Et :=
  if cv.et = .fp64 then .d else if cv.et = .acc40 then .i else if (isIntElem cv.et && !cv.asFloat) then .i else .f

/-- The mode field with `dyn` resolved at issue (R112). -/
def resolveRm (rm : Rounding) (arith : Word) : Rounding := (rctx rm arith 0 0).rm

/-- Element `i` of a drain is active (R376). -/
def GridCmd.drains (g : GridCmd) (va : View) (index : Option View) (cv : VConv) (i : Nat) : Bool :=
  let t : Track := { band := g.rowbase / 32, bands := g.rowCount / 32 }
  decide (i < g.vl) && g.mask.getLsbD i && (viewCell t va (drainEt cv) i).isSome && (match index with
    | some v => (viewCell t v .i i).isSome
    | none => true)

/-- Rows that a drain reads at its active elements. -/
def GridCmd.drainRows (g : GridCmd) (va : View) (index : Option View) (cv : VConv) : List Nat :=
  let t : Track := { band := g.rowbase / 32, bands := g.rowCount / 32 }
  ((List.range 128).filter (g.drains va index cv)).flatMap fun i =>
    (match viewCell t va (drainEt cv) i with
      | some c => [c.1]
      | none => [])
    ++ (match index with
      | some v => (match viewCell t v .i i with
        | some c => [c.1]
        | none => [])
      | none => [])

/-- GDRAIN (R374, R375). -/
def execGdrain (va : View) (xs : Reg) (ad : DrainAddr) (xj : Reg) (cv : VConv) (s : State) : Host.Outcome State Fault Refusal :=
  perform (.gdrain va xs ad xj cv) (fun s =>
    let t := s.me
    let stride := match ad with
      | .stride r => s.x r
      | .scale _ => 0
      | .index _ => 0
    let scale := match ad with
      | .scale r => some (s.x r)
      | .stride _ => none
      | .index _ => none
    let index := match ad with
      | .index v => some v
      | .stride _ => none
      | .scale _ => none
    let j := s.junctionReg xj
    if elemBits cv.et = 4 ∧ stride ≠ 0 then faulty .illegal s
    else if !(gridOk t va && index.all (gridOk t)) then faulty .gridOwn s
    else if j.any (·.toNat % 64 ≠ 0) then faulty .align s (j.getD 0)
    else
      let cv := { cv with rm := resolveRm cv.rm t.arith }
      let g := { s.newCmd (.drain va (s.x xs) stride scale index cv) [] j with mask := t.getM cv.mask }
      s.issueCmd { g with rows := g.drainRows va index cv }) s

end Sys2Proof.Machine
end

