-- ==== Sys2Proof/Machine/GridEngine.lean ====
section
/-!
DEFINITION. The grid engine's events: commands entering their rows, moving their data and completing (R88, R90, R96 to R98, R104 to
R107, R123, R153, R154, R376 to R379, R460, R461), and the ARITH traps they leave (R106).
-/
namespace Sys2Proof.Machine

/-- Runs a part of a command of the grid engine, where it exists on a core that is not frozen. -/
def State.onCmd (s : State) (core id : Nat) (f : GridCmd → State) : Host.Outcome State Fault Refusal :=
  match (s.core core).gq.find? (·.id == id) with
  | none => .next s
  | some g => if (s.core core).frozen then .next s else .next (f g)

/-- Changes a command in the queue. -/
def State.modCmd (s : State) (core id : Nat) (f : GridCmd → GridCmd) : State :=
  s.modCore core fun k => { k with gq := k.gq.map fun g => if g.id = id then f g else g }

/-- The park slot a command uses. -/
def GridOp.slot : GridOp → Option Nat
  | .park p => some p
  | .unpark p => some p
  | .opa _ _ _ _ _ _ _ _ _ _ => none
  | .zero => none | .fill _ _ => none | .drain _ _ _ _ _ _ => none | .save _ => none | .load _ => none | .send _ _ => none

def GridOp.isOpa : GridOp → Bool
  | .opa _ _ _ _ _ _ _ _ _ _ => true
  | .park _ => false | .unpark _ => false | .zero => false | .fill _ _ => false | .drain _ _ _ _ _ _ => false | .save _ => false
  | .load _ => false | .send _ _ => false

/-- Whether a command waits for an earlier one (R97, R108, R151, R237): rows or slot shared, an OPA on the same bands, or a suspended
command of the same track. -/
def cmdBehind (g e : GridCmd) : Bool :=
  g.rows.any e.keeps || (g.op.slot.isSome && g.op.slot == e.op.slot)
    || (g.op.isOpa && e.op.isOpa && g.rows.any fun r => e.rows.any fun x => r / 32 == x / 32)
    || (e.faulted && e.track == g.track)

/-- A command may enter its rows (R461). -/
def Core.mayEnter (k : Core) (g : GridCmd) : Bool :=
  !g.entered && !(k.gq.any fun e => decide (e.id < g.id) && cmdBehind g e)
    && !(k.incoming.any fun i => decide (i.stamp < g.id) && g.rows.any (i.rows.contains ·))

/-- GRID_COMMAND_ENTER. -/
def execGridCommandEnter (core cmd : Nat) (s : State) : Host.Outcome State Fault Refusal :=
  s.onCmd core cmd fun g => if (s.core core).mayEnter g then s.modCmd core cmd fun g => { g with entered := true } else s

/-- Suspends a command at a faulting element, and holds its record (R237). -/
def State.suspendCmd (s : State) (core : Nat) (g : GridCmd) (c : Cause) (addr elem : Nat) : State :=
  (s.modCmd core g.id fun g => { g with faulted := true }).tellTrack core g.track
    { cause := c, addr := BitVec.ofNat 64 addr, elem := BitVec.ofNat 64 elem, fpc := g.fpc, engine := 0, unit := 0, cmd := g.id,
      ended := false }

/-- Flags of a command's element land; the first that is enabled is kept for its ARITH trap (R106). -/
def State.landFlags (s : State) (core : Nat) (g : GridCmd) (f : Flags) (elem : Nat) : State :=
  let hit := (s.track core g.track).enabled f
  (s.deliverFlags core g.track f).modCmd core g.id fun g => if hit && g.trapElem.isNone then { g with trapElem := some elem } else g

/-! OPA. -/

/-- The new bits of a cell (R104, R105), under accumulation 0 ACC40, 1 INT40, 2 ACC80. -/
def opaCell (acc : Nat) (na nb first : Bool) (a b : Num) (old : Nat) : Nat × Flags :=
  let a := if na != nb then a.negate else a
  let cell : Num := if acc = 1 then .ofInt (sInt 40 old) else (if acc = 2 then FloatFmt.acc80 else FloatFmt.acc40).value old
  let (v, f) := if first then numMul a b else numFma false a b cell
  let (w, h) := if acc = 1 then roundInt .rne 40 true true v else roundFloat .rne (if acc = 2 then .acc80 else .acc40) false v
  (w, f.or h)

/-- A cell of an OPA's block: its raw bits. -/
def Core.opaRead (k : Core) (acc r c : Nat) : Nat :=
  if acc = 2 then pairNat (k.cell r (2 * c)) (k.cell r (2 * c + 1)) else (k.cell r c).toNat

def Core.opaWrite (k : Core) (acc r c v : Nat) : Core :=
  if acc = 2 then (k.setCell r (2 * c) (BitVec.ofNat 40 v)).setCell r (2 * c + 1) (BitVec.ofNat 40 (v / 2 ^ 40))
  else k.setCell r c (BitVec.ofNat 40 v)

/-- The decoded elements `[pos, pos + n)` of a stream with their scales; none where one has not been delivered yet. -/
def Core.opaElems (k : Core) (q pos n side : Nat) : Option (List Num) :=
  match mfind q k.streams with
  | none => none
  | some st =>
    (List.range n).mapM fun i => do
      let x ← st.buffer[pos + i - st.freed]?
      if st.pat.scale = 2 then
        let sd ← k.sideOf st.owner st.pat.sideScale
        match ← sd.buffer[side + i - sd.freed]? with
        | .val (.fin d) => pure (x.read .f (some d.mant)).toNum
        | .val .nan => none
        | .val (.inf _) => none
        | .cell _ => none
      else pure (x.read .f none).toNum

/-- Where a stream's data may be let go of: what its owner's strip has not yet committed is kept. -/
def Core.keepFrom (k : Core) (q : Nat) : Nat :=
  match mfind q k.streams with
  | none => 0
  | some st =>
    let t := k.track st.owner
    if t.strip.isOpen then (mfind q t.strip.start.pops).getD st.pos else st.pos

/-- Lets go of a stream's taken elements, and of its scale stream's. -/
def Core.freeTaken (k : Core) (q : Nat) : Core :=
  let k := k.freeTo q (k.keepFrom q)
  match mfind q k.streams with
  | none => k
  | some st => if st.pat.scale = 2 then k.freeTo st.pat.sideScale (k.keepFrom st.pat.sideScale) else k

/-- One update lands in every cell of the block (R104). -/
def opaLand (acc : Nat) (na nb first : Bool) (row0 col0 u : Nat) (enabled : Flags → Bool) (as bs : List Num) (k : Core) :
    Core × Flags × Option Nat :=
  as.zipIdx.foldl (fun (r : Core × Flags × Option Nat) a =>
    bs.zipIdx.foldl (fun (r : Core × Flags × Option Nat) b =>
      let (w, f) := opaCell acc na nb first a.1 b.1 (k.opaRead acc (row0 + a.2) (col0 + b.2))
      (r.1.opaWrite acc (row0 + a.2) (col0 + b.2) w, r.2.1.or f,
        if enabled f && r.2.2.isNone then some (u * 65536 + a.2 * 256 + b.2) else r.2.2)) r) (k, {}, none)

/-- The next update of an OPA: it waits for its elements; a fault behind them is told when they are reached (R107). -/
def State.opaUpdate (s : State) (core : Nat) (g : GridCmd) (na nb z : Bool) (qa qb m n col0 : Nat) (fmt : Nat) : State :=
  let k := s.core core
  let pa := g.posA + g.done * m
  let pb := g.posB + g.done * n
  let acc := bitsOf fmt 13 12
  let row0 := g.rows.headD 0
  match k.opaElems qa pa m g.sideA, k.opaElems qb pb n g.sideB with
  | some as, some bs =>
    let (k', f, e) := opaLand acc na nb (z && g.done == 0) row0 col0 g.done (k.track g.track).enabled as bs k
    let s := s.setCore core (k'.count 0x04 ((row0 + m - 1) / 32 + 1 - row0 / 32))
    let s := (s.deliverFlags core g.track f).modCmd core g.id fun g =>
      { g with done := g.done + 1, trapElem := match g.trapElem with
        | some x => some x
        | none => e }
    s.modCore core fun k => (k.freeTaken qa).freeTaken qb
  | _, _ =>
    let told := fun (s : State) (q pos n side : Nat) =>
      match mfind q k.streams with
      | none => s
      | some st => match k.reachedAt st pos n side n with
        | some f => s.tellAt core g.track q g.fpc f
        | none => s
    if (k.opaElems qa pa m g.sideA).isNone then told s qa pa m g.sideA else told s qb pb n g.sideB

/-! Fills, drains, raw rows. -/

/-- What a fill writes: the raw cells of an element (R153). -/
def Core.fillCell (k : Core) (et : ElemType) (r c v : Nat) : Core :=
  if et = .fp64 then
    let w := (roundFloat .rne .acc80 false (FloatFmt.fp64.value v)).1
    (k.setCell r (2 * c) (BitVec.ofNat 40 w)).setCell r (2 * c + 1) (BitVec.ofNat 40 (w / 2 ^ 40))
  else if et = .acc40 then k.setCell r c (BitVec.ofNat 40 v)
  else match elemKind et with
    | .float f => k.setCell r c (BitVec.ofNat 40 (roundFloat .rne .acc40 false (f.value v)).1)
    | .int b sg => k.setCell r c (BitVec.ofInt 40 (if sg then sInt b v else ((v % 2 ^ b : Nat) : Int)))
    | .codebook => k
    | .raw => k

/-- The next element of a fill. -/
def State.fillNext (s : State) (core : Nat) (g : GridCmd) (et : ElemType) (a : Word) : State :=
  let per := if et = .fp64 then 64 else 128
  let sz := elemBytes et
  match s.engineRead (g.who (s.core core) core) g.id (wrap (a.toNat + g.done * sz)) sz with
  | .wait s => s
  | .fault c x s => s.suspendCmd core g c x g.done
  | .ok v s =>
    ((s.modCore core fun k => k.fillCell et (g.rows.getD (g.done / per) 0) (g.done % per) v).modCmd core g.id fun g =>
      { g with done := g.done + 1 }).moved core 16 sz

/-- The track whose views a drain reads: its issuer's bands at issue. -/
def GridCmd.views (g : GridCmd) : Track := { band := g.rowbase / 32, bands := g.rowCount / 32 }

/-- The exact source value of a drain's element. -/
def Core.drainValue (k : Core) (g : GridCmd) (va : View) (cv : VConv) (i : Nat) : Elem := readExact k 0 g.views va (drainEt cv) i

/-- The scale byte of a drain's block (R124). -/
def Core.drainScale (k : Core) (g : GridCmd) (va : View) (index : Option View) (cv : VConv) (b : Nat) : Nat :=
  mxScale (mxEmax cv.et) (((span (32 * b) 32).filter (g.drains va index cv)).map fun i => (k.drainValue g va cv i).toNum)

/-- A conversion to a target type (R374 to R376, R440): the stored bits and the flags. -/
def convert (cv : VConv) (c : RCtx) (scale : Option Nat) (x : Elem) : Nat × Flags :=
  match scale with
  | some sc => mxConvert c cv.et sc x.toNum
  | none =>
    if cv.et = .acc40 then ((BitVec.ofInt 40 x.toInt).toNat, {})
    else match elemKind cv.et with
      | .int b sg =>
        if cv.asFloat then roundInt c b sg true x.toNum else roundInt c b sg cv.sat x.toNum
      | _ => roundElem c cv.et cv.sat x.toNum

/-- Address of an element of a drain. -/
def Core.drainAddr (k : Core) (g : GridCmd) (base stride : Word) (index : Option View) (cv : VConv) (i : Nat) : Nat × Nat :=
  match index with
  | none => drainElem base stride cv.et i
  | some v => (wrap (base.toNat + (readView k 0 g.views v .i i).toInt), elemBytes cv.et)

/-- What a drain's elements below `n` write: bytes with the bits of each, the scale bytes of the blocks that have ended. -/
def Core.drainBytes (k : Core) (g : GridCmd) (va : View) (base stride : Word) (scale : Option Word) (index : Option View) (cv : VConv)
    (n : Nat) : List (Nat × Nat) :=
  let els := ((List.range n).filter (g.drains va index cv)).flatMap fun i =>
    let (a, sz) := k.drainAddr g base stride index cv i
    if elemBits cv.et = 4 then [(a, if i % 2 = 1 then 240 else 15)] else (List.range sz).map fun (j : Nat) => (wrap (a + j), 255)
  match scale with
  | none => els
  | some sa => els ++ ((List.range 4).filter fun b =>
      (decide (32 * b + 32 ≤ n) || decide (g.vl ≤ n)) && (span (32 * b) 32).any (g.drains va index cv)).map fun (b : Nat) =>
        (wrap (sa.toNat + b), 255)

/-- Whether written bits cover every byte of a line. -/
def coversLine (l : List (Nat × Nat)) (line : Nat) : Bool :=
  (span (64 * line) 64).all fun a => (l.foldl (fun m x => if x.1 = a then Nat.lor m x.2 else m) 0) == 255

/-- Distinct numbers of a list. -/
def distinct (l : List Nat) : Nat := (l.foldl (fun acc a => insertNat a acc) []).length

/-- The next element of a drain, with its block's scale byte after the block's last (R376, R377). -/
def State.drainNext (s : State) (core : Nat) (g : GridCmd) (va : View) (base stride : Word) (scale : Option Word)
    (index : Option View) (cv : VConv) : State :=
  let k := s.core core
  let i := g.done
  let on := g.drains va index cv i
  let blockEnd := i % 32 == 31 || i + 1 == g.vl
  let sc := scale.map fun _ => k.drainScale g va index cv (i / 32)
  let writesScale := blockEnd && scale.isSome && (span (i / 32 * 32) 32).any (g.drains va index cv)
  let w := g.who k core
  let whole := coversLine (k.drainBytes g va base stride scale index cv g.vl)
  let now := k.drainBytes g va base stride scale index cv (i + 1)
  let (a, sz) := k.drainAddr g base stride index cv i
  let sa := wrap ((scale.getD 0).toNat + i / 32)
  let checked : ETry (List Nat × List Nat) :=
    (if !on then .ok [] s else if elemBits cv.et ≠ 4 && sz != 5 && a % sz != 0 then .fault .align a s else s.engineChecks w whole a sz).bind
      fun l s => (if writesScale then s.engineChecks w whole sa 1 else .ok [] s).bind fun l2 s => .ok (l, l2) s
  match checked with
  | .wait s => s
  | .fault c x s => s.suspendCmd core g c x i
  | .ok (l, l2) s =>
    let (v, f) := convert cv ⟨cv.rm, (srBits g.seed g.salt (g.sbase + BitVec.ofNat 64 i)).toNat % pow2 32⟩ sc (k.drainValue g va cv i)
    let s := if !on then s
      else
        let s := if elemBits cv.et = 4 then
            s.engineWrite w (l.headD 0) (if i % 2 = 1 then v % 16 * 16 else v % 16) (if i % 2 = 1 then 240 else 15) (coversLine now (a / 64))
          else if wrap (a + sz - 1) / 64 = a / 64 then s.engineWrites w (coversLine now (a / 64)) l v
          else l.zipIdx.foldl (fun s p => s.engineWrite w p.1 (v / 256 ^ p.2 % 256) 255 (coversLine now (wrap (a + p.2) / 64))) s
        s.landFlags core g f i
    let s := if writesScale then s.engineWrites w (coversLine now (sa / 64)) l2 (sc.getD 0) else s
    let last := i + 1 == g.vl
    (s.modCmd core g.id fun g =>
      { g with done := i + 1, bytes := if last then distinct (now.map (·.1)) else g.bytes }).movedHalves core 16
        ((if on then (if elemBits cv.et = 4 then 1 else 2 * sz) else 0) + 2 * writesScale.toNat)

/-- The next cell of a GSAVE. -/
def State.saveNext (s : State) (core : Nat) (g : GridCmd) (a : Word) : State :=
  let k := s.core core
  let va := wrap (a.toNat + 5 * g.done)
  match s.engineChecks (g.who k core) (fun _ => true) va 5 with
  | .wait s => s
  | .fault c x s => s.suspendCmd core g c x g.done
  | .ok l s =>
    let v := (k.cell (g.rows.headD 0 + g.done / 128) (g.done % 128)).toNat
    let w := g.who k core
    let s := if wrap (va + 4) / 64 = va / 64 then s.engineWrites w (wrap (va + 4) % 64 == 63) l v
      else l.zipIdx.foldl (fun s p => s.engineWrite w p.1 (v / 256 ^ p.2 % 256) 255 (wrap (va + p.2) % 64 == 63)) s
    (s.modCmd core g.id fun g =>
      { g with done := g.done + 1, bytes := 640 * g.rows.length }).moved core 16 5

/-- The next cell of a GLOAD. -/
def State.loadNext (s : State) (core : Nat) (g : GridCmd) (a : Word) : State :=
  match s.engineRead (g.who (s.core core) core) g.id (wrap (a.toNat + 5 * g.done)) 5 with
  | .wait s => s
  | .fault c x s => s.suspendCmd core g c x g.done
  | .ok v s =>
    ((s.modCore core fun k => k.setCell (g.rows.headD 0 + g.done / 128) (g.done % 128) (BitVec.ofNat 40 v)).modCmd core g.id fun g =>
      { g with done := g.done + 1, bytes := 640 * g.rows.length }).moved core 16 5

/-- The physical address of row `i` of a park slot (R74, R80). -/
def Core.parkPa (k : Core) (core slot i : Nat) : Nat := scratchPa core (k.pool % 16 * 0x10000 + slot * 20480 + 640 * i)

/-- Writes a grid row raw. -/
def State.rowOut (s : State) (core r pa : Nat) : State :=
  (List.range 128).foldl (fun s c => s.setBytes (pa + 5 * c) 5 ((s.core core).cell r c).toNat) s

/-- Reads a grid row raw. -/
def State.rowIn (s : State) (core r pa : Nat) : State :=
  (List.range 128).foldl (fun s c => s.modCore core fun k => k.setCell r c (BitVec.ofNat 40 (s.bytes (pa + 5 * c) 5))) s

/-- The next row of a GPARK; the slot's poison goes (R379), and new codewords stand where symbols had changed (R183). -/
def State.parkNext (s : State) (core : Nat) (g : GridCmd) (slot : Nat) : State :=
  let pa := (s.core core).parkPa core slot g.done
  let s := s.modCore core (·.rewritten (pa % 0x100000) 640)
  let s := s.rowOut core (g.rows.getD g.done 0) pa
  let s := (span 0 10).foldl (fun s i => if s.poisoned (pa + 64 * i) then s.setPoison (pa + 64 * i) false else s) s
  (s.modCmd core g.id fun g => { g with done := g.done + 1 }).moved core 16 640

/-- The next row of a GUNPARK. Before the first, the slot's codewords are decoded (R183), and a poisoned stripe of it suspends the command
(R379); a stripe that has gone bad since does so too, and the command begins again. -/
def State.unparkNext (s : State) (core : Nat) (g : GridCmd) (slot : Nat) : State :=
  let pa := (s.core core).parkPa core slot
  let s := s.settle (pa 0) 20480
  match (span 0 320).find? fun i => s.poisoned (pa 0 + 64 * i) with
  | some i => (s.modCmd core g.id fun g => { g with done := 0 }).suspendCmd core g .poison 0 (64 * i)
  | none =>
    ((s.rowIn core (g.rows.getD g.done 0) (pa g.done)).modCmd core g.id fun g => { g with done := g.done + 1 }).moved core 16 640

/-- The target register of a ROWSEND. -/
def sendTarget (core row : Nat) : Nat := core + 512 * row

/-- A ROWSEND's rows are busy in its target. -/
def State.sendHeld (s : State) (core target cmd : Nat) : Bool := (s.core target).incoming.any fun i => i.src == core && i.cmd == cmd

/-- ROWSEND_ARRIVAL: the rows not yet written are checked against the target core's claim, and become busy there (R154, R251, R409). A target
that has dropped them is tried again. -/
def execRowsendArrival (core cmd : Nat) (s : State) : Host.Outcome State Fault Refusal :=
  s.onCmd core cmd fun g => match g.op with
    | .send target row =>
      let k := s.core target
      let rows := span (row + g.done) (g.rows.length - g.done)
      if !g.entered || g.faulted || rows.isEmpty || s.sendHeld core target cmd then s
      else if k.ctx ≠ some g.ctx ∨ k.departed then s.suspendCmd core g .gridOwn (sendTarget target row) 0
      else if k.frozen || s.routeTested (dieOf core) (dieOf target) then s
      else if !((span 0 4).any fun n => let t := k.track n; t.trip.isSome && t.ctxid == g.ctx && rows.all t.holds) then
        s.suspendCmd core g .gridOwn (sendTarget target row) 0
      else
        let (id, s) := s.fresh
        s.modCore target fun k => { k with incoming := k.incoming ++ [⟨core, cmd, id, rows⟩] }
    | _ => s

/-- The next row of a ROWSEND lands whole once the commands before it have left the row (R97, R409). -/
def State.sendNext (s : State) (core : Nat) (g : GridCmd) (target row : Nat) : State :=
  let k := s.core target
  let r := row + g.done
  match k.incoming.find? fun i => i.src == core && i.cmd == g.id with
  | none => s
  | some inc =>
    if k.frozen || (k.gq.any fun e => decide (e.id < inc.stamp) && e.keeps r)
        || (k.incoming.any fun i => decide (i.stamp < inc.stamp) && i.rows.contains r) then s
    else
      let src := (s.core core).row (g.rows.getD g.done 0)
      let s := s.modCore target fun k =>
        { k with
            grid := mset [] r src k.grid, dirtyRows := insertNat r k.dirtyRows,
            incoming := (k.incoming.map fun i => if i.stamp = inc.stamp then { i with rows := i.rows.erase r } else i).filter
              fun i => !i.rows.isEmpty }
      (s.modCmd core g.id fun g =>
        { g with done := g.done + 1, bytes := 640 * g.rows.length }).moved core 16 640

/-- Transfers that a command makes in all. -/
def GridCmd.total (g : GridCmd) : Nat :=
  match g.op with
  | .opa _ _ _ _ _ k _ _ _ _ => k
  | .zero => g.rows.length / 4
  | .park _ => 32
  | .unpark _ => 32
  | .fill et _ => fillCount et g.rows.length
  | .drain _ _ _ _ _ _ => g.vl
  | .save _ => 128 * g.rows.length
  | .load _ => 128 * g.rows.length
  | .send _ _ => g.rows.length

/-- GRID_ENGINE_TRANSFER: one update, element, cell, row or group of rows (R460). -/
def execGridEngineTransfer (core cmd : Nat) (s : State) : Host.Outcome State Fault Refusal :=
  s.onCmd core cmd fun g =>
    if !g.entered || g.faulted || decide (g.total ≤ g.done) then s
    else match g.op with
      | .opa na nb z qa qb _ m n col0 fmt => s.opaUpdate core g na nb z qa.val qb.val m n col0 fmt.toNat
      | .zero =>
        (s.modCore core fun k => { k with
          grid := ((g.rows.drop (4 * g.done)).take 4).foldl (fun m r => mset [] r [] m) k.grid,
          dirtyRows := ((g.rows.drop (4 * g.done)).take 4).foldl (fun l r => insertNat r l) k.dirtyRows }).modCmd core cmd fun g =>
            { g with done := g.done + 1 }
      | .park p => s.parkNext core g p
      | .unpark p => s.unparkNext core g p
      | .fill et a => s.fillNext core g et a
      | .drain va b st sc ix cv => s.drainNext core g va b st sc ix cv
      | .save a => s.saveNext core g a
      | .load a => s.loadNext core g a
      | .send c r => s.sendNext core g c r

/-- A command leaves the engine; its ARITH trap is the issuer's to take (R106, R377). -/
def State.leaveCmd (s : State) (core : Nat) (g : GridCmd) : State :=
  let s := s.modCore core fun k => { k with gq := k.gq.filter fun e => e.id != g.id }
  match g.trapElem with
  | none => s
  | some e => s.modTrack core g.track fun t => { t with opaTraps := t.opaTraps ++ [(g.fpc, BitVec.ofNat 64 e)] }

/-- A command whose transfers are done completes: its junction receives its bytes (R460). -/
def State.completeCmd (s : State) (core cmd : Nat) (which : GridOp → Bool) : Host.Outcome State Fault Refusal :=
  s.onCmd core cmd fun g =>
    if !which g.op || !g.entered || g.faulted || decide (g.done < g.total) then s
    else if (match g.op with
      | .drain _ _ _ _ _ _ => !s.sentLanded core
      | .save _ => !s.sentLanded core
      | _ => false) then s
    else match s.gridJct (g.who (s.core core) core) g.id g.jct g.bytes with
      | .ok _ s => (s.leaveCmd core g).commandEnded core g.track (g.who (s.core core) core)
      | .wait s => s
      | .fault c a s => s.suspendCmd core g c a g.total

def execOpaComplete (core cmd : Nat) (s : State) : Host.Outcome State Fault Refusal := s.completeCmd core cmd GridOp.isOpa

def execGzeroComplete (core cmd : Nat) (s : State) : Host.Outcome State Fault Refusal :=
  s.completeCmd core cmd fun o => match o with
    | .zero => true
    | _ => false
def execGparkComplete (core cmd : Nat) (s : State) : Host.Outcome State Fault Refusal :=
  s.completeCmd core cmd fun o => match o with
    | .park _ => true
    | _ => false
def execGunparkComplete (core cmd : Nat) (s : State) : Host.Outcome State Fault Refusal :=
  s.completeCmd core cmd fun o => match o with
    | .unpark _ => true
    | _ => false
def execRowfillComplete (core cmd : Nat) (s : State) : Host.Outcome State Fault Refusal :=
  s.completeCmd core cmd fun o => match o with
    | .fill _ _ => true
    | _ => false
def execGdrainComplete (core cmd : Nat) (s : State) : Host.Outcome State Fault Refusal :=
  s.completeCmd core cmd fun o => match o with
    | .drain _ _ _ _ _ _ => true
    | _ => false
def execGsaveComplete (core cmd : Nat) (s : State) : Host.Outcome State Fault Refusal :=
  s.completeCmd core cmd fun o => match o with
    | .save _ => true
    | _ => false
def execGloadComplete (core cmd : Nat) (s : State) : Host.Outcome State Fault Refusal :=
  s.completeCmd core cmd fun o => match o with
    | .load _ => true
    | _ => false
def execRowsendComplete (core cmd : Nat) (s : State) : Host.Outcome State Fault Refusal :=
  s.completeCmd core cmd fun o => match o with
    | .send _ _ => true
    | _ => false

/-- Whether a track could take a trap at a strip boundary now: no strip is open, and it can move. -/
def State.atBoundary (s : State) : Bool :=
  let t := s.me
  !t.strip.isOpen && t.trip.isSome && !s.myCore.frozen && !t.halted && !t.escalated && t.wait.isNone

/-- OPA_ARITH_TRAP: the trap of a completed command is taken at a strip boundary (R106). -/
def execOpaArithTrap (core t : Nat) (s : State) : Host.Outcome State Fault Refusal :=
  let s' := { s with cur := (core, t) }
  if s'.atBoundary && !s'.me.opaTraps.isEmpty then
    match s'.boundary with
    | some s'' => .next s''
    | none => .next s
  else .next s

end Sys2Proof.Machine
end

