-- ==== Sys2Proof/Machine/Vector.lean ====
section
/-!
DEFINITION. Vector arithmetic, conversions, moves, reductions, compares and mask forms (R428 to R431, R434 to R436, R439, R398, R399,
R462, R129 to R131).
-/
namespace Sys2Proof

def FD.toEt : FD → Et
  | .f => .f | .d => .d

end Sys2Proof

namespace Sys2Proof.Machine

/-- The format of a float encoding's results (R79). -/
def resultFmt (e : Et) : FloatFmt :=
  match e with
  | .f => .fp32
  | .d => .fp64
  | .i => .fp32

/-- How element `i` rounds (R429). -/
def Track.vround (t : Track) (rm : Rounding) (i : Nat) : RCtx := rctx rm t.arith t.srseed (t.sbase + BitVec.ofNat 64 i)

/-- An element delivered with no operation (R462). -/
def deliver (e : Et) (x : Elem) : Nat × Flags :=
  match e with
  | .i => ((BitVec.ofInt 40 x.toInt).toNat, {})
  | e => roundFloat .rne (resultFmt e) false x.toNum

/-! Float arithmetic (R430). -/

/-- A float form of any number of sources: the exact result, rounded once. -/
def vfloat (e : Et) (vd : View) (srcs : List View) (c : VCtl) (f : Bool → (Nat → Num) → Num × Flags) (s : State) : Out :=
  let t := s.me
  vectorBody vd e (srcs.map fun v => (v, e)) (fun _ => false) c.mz c.mask readView (fun src i =>
    let r := t.vround c.rm i
    let (v, g) := f (r.rm == .rdn) fun j => (src j i).toNum
    let (w, h) := roundFloat r (resultFmt e) c.sat v
    some (w, g.or h)) s

def execVadd (et : FD) (vd va vb : View) (c : VCtl) (s : State) : Host.Outcome State Fault Refusal :=
  perform (.vadd et vd va vb c) (vfloat et.toEt vd [va, vb] c fun rdn x => numAdd rdn (x 0) (x 1)) s
def execVsub (et : FD) (vd va vb : View) (c : VCtl) (s : State) : Host.Outcome State Fault Refusal :=
  perform (.vsub et vd va vb c) (vfloat et.toEt vd [va, vb] c fun rdn x => numAdd rdn (x 0) (x 1).negate) s
def execVmul (et : FD) (vd va vb : View) (c : VCtl) (s : State) : Host.Outcome State Fault Refusal :=
  perform (.vmul et vd va vb c) (vfloat et.toEt vd [va, vb] c fun _ x => numMul (x 0) (x 1)) s

/-- The signs of product and addend (R323). -/
def fmaSigns (sub : FmaSub) : Bool × Bool :=
  match sub with
  | .madd => (false, false)
  | .msub => (false, true)
  | .nmadd => (true, false)
  | .nmsub => (true, true)

def execVfma (sub : FmaSub) (et : FD) (vd va vb vc : View) (c : VCtl) (s : State) : Host.Outcome State Fault Refusal :=
  perform (.vfma sub et vd va vb vc c) (vfloat et.toEt vd [va, vb, vc] c fun rdn x =>
    let (n, m) := fmaSigns sub
    numFma rdn (if n then (x 0).negate else x 0) (x 1) (if m then (x 2).negate else x 2)) s
def execVdiv (et : FD) (vd va vb : View) (c : VCtl) (s : State) : Host.Outcome State Fault Refusal :=
  perform (.vdiv et vd va vb c) (vfloat et.toEt vd [va, vb] c fun _ x => numDiv (x 0) (x 1)) s
def execVsqrt (et : FD) (vd va : View) (c : VCtl) (s : State) : Host.Outcome State Fault Refusal :=
  perform (.vsqrt et vd va c) (vfloat et.toEt vd [va] c fun _ x => numSqrt (x 0)) s
def execVrcp (vd va : View) (c : VCtl) (s : State) : Host.Outcome State Fault Refusal :=
  perform (.vrcp vd va c) (vfloat .f vd [va] c fun _ x => numRcp (x 0)) s
def execVrsqrt (vd va : View) (c : VCtl) (s : State) : Host.Outcome State Fault Refusal :=
  perform (.vrsqrt vd va c) (vfloat .f vd [va] c fun _ x => numRsqrt (x 0)) s
def execVexp2 (vd va : View) (c : VCtl) (s : State) : Host.Outcome State Fault Refusal :=
  perform (.vexp2 vd va c) (vfloat .f vd [va] c fun _ x => numExp2 (x 0)) s
def execVlog2 (vd va : View) (c : VCtl) (s : State) : Host.Outcome State Fault Refusal :=
  perform (.vlog2 vd va c) (vfloat .f vd [va] c fun _ x => numLog2 (x 0)) s
def execVtanh (vd va : View) (c : VCtl) (s : State) : Host.Outcome State Fault Refusal :=
  perform (.vtanh vd va c) (vfloat .f vd [va] c fun _ x => numTanh (x 0)) s

/-- A form that picks a value and raises no flag (R430). -/
def vpick (e : Et) (vd va vb : View) (p : VPol) (f : Num → Num → Num) (s : State) : Out :=
  vectorBody vd e [(va, e), (vb, e)] (fun _ => false) p.mz p.mask readView (fun src i =>
    some ((roundFloat .rne (resultFmt e) false (f (src 0 i).toNum (src 1 i).toNum)).1, {})) s

def execVmin (et : FD) (vd va vb : View) (p : VPol) (s : State) : Host.Outcome State Fault Refusal :=
  perform (.vmin et vd va vb p) (vpick et.toEt vd va vb p numMin) s
def execVmax (et : FD) (vd va vb : View) (p : VPol) (s : State) : Host.Outcome State Fault Refusal :=
  perform (.vmax et vd va vb p) (vpick et.toEt vd va vb p numMax) s

/-- VSGN's result (R323). -/
def signOf (sub : SgnSub) (a b : Num) : Num :=
  a.withSign (match sub with
    | .copy => b.neg
    | .neg => !b.neg
    | .xor => a.neg != b.neg)

def execVsgn (sub : SgnSub) (et : FD) (vd va vb : View) (p : VPol) (s : State) : Host.Outcome State Fault Refusal :=
  perform (.vsgn sub et vd va vb p) (vpick et.toEt vd va vb p (signOf sub)) s

/-- The destination encoding of a conversion (R435). -/
def targetEt (t : ElemType) : Et := if t = .fp64 then .d else if isIntElem t then .i else .f

/-- A conversion's result in its destination encoding (R435). -/
def cvtResult (t : ElemType) (fromInt sat : Bool) (c : RCtx) (x : Elem) : Nat × Flags :=
  let (w, f) := convert ⟨t, !fromInt, c.rm, sat, 0⟩ c none x
  match elemKind t with
  | .float g => ((roundFloat .rne (resultFmt (targetEt t)) false (g.value w)).1, f)
  | .int b sg => ((BitVec.ofInt 40 (if sg then sInt b w else ((w % 2 ^ b : Nat) : Int))).toNat, f)
  | .codebook => (0, f)
  | .raw => (0, f)

/-- VCVT (R435): grid sources are read exactly. -/
def execVcvt (target : ElemType) (et : Et) (vd va : View) (c : VCtl) (s : State) : Host.Outcome State Fault Refusal :=
  perform (.vcvt target et vd va c) (fun s =>
    let t := s.me
    vectorBody vd (targetEt target) [(va, et)] (fun _ => false) c.mz c.mask readExact (fun src i =>
      some (cvtResult target (et == .i) c.sat (t.vround c.rm i) (src 0 i))) s) s

/-! Integer arithmetic (R431). -/

/-- An integer form of two sources. -/
def vint (vd va vb : View) (p : VPol) (f : Cell40 → Cell40 → Nat × Flags) (s : State) : Out :=
  vectorBody vd .i [(va, .i), (vb, .i)] (fun _ => false) p.mz p.mask readView (fun src i =>
    some (f (BitVec.ofInt 40 (src 0 i).toInt) (BitVec.ofInt 40 (src 1 i).toInt))) s

/-- An exact integer result: clamped with saturation, or its low 40 bits. -/
def fit40 (sat : Bool) (z : Int) : Nat × Flags := roundInt .rne 40 true sat (.ofInt z)

def execViadd (vd va vb : View) (sat : Bool) (p : VPol) (s : State) : Host.Outcome State Fault Refusal :=
  perform (.viadd vd va vb sat p) (vint vd va vb p fun a b => fit40 sat (a.toInt + b.toInt)) s
def execVisub (vd va vb : View) (sat : Bool) (p : VPol) (s : State) : Host.Outcome State Fault Refusal :=
  perform (.visub vd va vb sat p) (vint vd va vb p fun a b => fit40 sat (a.toInt - b.toInt)) s
def execVimul (vd va vb : View) (sat : Bool) (p : VPol) (s : State) : Host.Outcome State Fault Refusal :=
  perform (.vimul vd va vb sat p) (vint vd va vb p fun a b => fit40 sat (a.toInt * b.toInt)) s
def execVshl (vd va vb : View) (p : VPol) (s : State) : Host.Outcome State Fault Refusal :=
  perform (.vshl vd va vb p) (vint vd va vb p fun a b => ((a <<< (b.toNat % 64)).toNat, {})) s
def execVshr (vd va vb : View) (p : VPol) (s : State) : Host.Outcome State Fault Refusal :=
  perform (.vshr vd va vb p) (vint vd va vb p fun a b => ((a >>> (b.toNat % 64)).toNat, {})) s
def execVsra (vd va vb : View) (p : VPol) (s : State) : Host.Outcome State Fault Refusal :=
  perform (.vsra vd va vb p) (vint vd va vb p fun a b => ((a.sshiftRight (b.toNat % 64)).toNat, {})) s
def execVand (vd va vb : View) (p : VPol) (s : State) : Host.Outcome State Fault Refusal :=
  perform (.vand vd va vb p) (vint vd va vb p fun a b => ((a &&& b).toNat, {})) s
def execVor (vd va vb : View) (p : VPol) (s : State) : Host.Outcome State Fault Refusal :=
  perform (.vor vd va vb p) (vint vd va vb p fun a b => ((a ||| b).toNat, {})) s
def execVxor (vd va vb : View) (p : VPol) (s : State) : Host.Outcome State Fault Refusal :=
  perform (.vxor vd va vb p) (vint vd va vb p fun a b => ((a ^^^ b).toNat, {})) s
def execVimin (vd va vb : View) (p : VPol) (s : State) : Host.Outcome State Fault Refusal :=
  perform (.vimin vd va vb p) (vint vd va vb p fun a b => (if b.slt a then b.toNat else a.toNat, {})) s
def execVimax (vd va vb : View) (p : VPol) (s : State) : Host.Outcome State Fault Refusal :=
  perform (.vimax vd va vb p) (vint vd va vb p fun a b => (if a.slt b then b.toNat else a.toNat, {})) s

/-! Moves (R434). -/

def execVmv (et : Et) (vd va : View) (p : VPol) (s : State) : Host.Outcome State Fault Refusal :=
  perform (.vmv et vd va p) (vectorBody vd et [(va, et)] (fun _ => false) p.mz p.mask readView fun src i =>
    some (deliver et (src 0 i))) s

def execVsel (et : Et) (vd va vb : View) (ms : MReg) (p : VPol) (s : State) : Host.Outcome State Fault Refusal :=
  perform (.vsel et vd va vb ms p) (fun s =>
    let m := s.mreg ms
    vectorBody vd et [(va, et), (vb, et)] (fun _ => false) p.mz p.mask readView (fun src i =>
      some (deliver et (src (if m.getLsbD i then 0 else 1) i))) s) s

/-- An element at another index; the zero of the encoding where it is inactive. -/
def orZero (et : Et) (x : Elem) : Nat × Flags := if x.isOn then deliver et x else (0, {})

def execVbcast (et : Et) (vd va : View) (xi : Reg) (p : VPol) (s : State) : Host.Outcome State Fault Refusal :=
  perform (.vbcast et vd va xi p) (fun s =>
    let j := (s.x xi).toNat
    vectorBody vd et [(va, et)] (fun i => i == j) p.mz p.mask readView (fun src _ => some (orZero et (src 0 j))) s) s

def execVslide (down : Bool) (et : Et) (vd va : View) (xo : Reg) (p : VPol) (s : State) : Host.Outcome State Fault Refusal :=
  perform (.vslide down et vd va xo p) (fun s =>
    let o := (s.x xo).toNat
    let vl := s.me.vl
    vectorBody vd et [(va, et)] (fun i => decide (i < vl)) p.mz p.mask readView (fun src i =>
      let from_ := if down then (if i + o < vl then some (i + o) else none) else (if o ≤ i then some (i - o) else none)
      from_.bind fun j => if (src 0 j).isOn then some (deliver et (src 0 j)) else none) s) s

def execVperm (et : Et) (vd va vb : View) (p : VPol) (s : State) : Host.Outcome State Fault Refusal :=
  perform (.vperm et vd va vb p) (fun s =>
    let vl := s.me.vl
    vectorBody vd et [(va, et), (vb, .i)] (fun i => decide (i < vl)) p.mz p.mask readView (fun src i =>
      let j := (src 1 i).toInt
      if 0 ≤ j ∧ j < vl then some (orZero et (src 0 j.toNat)) else some (0, {})) s) s

/-- VEXT (R434). -/
def execVext (et : Et) (xd : Reg) (va : View) (xi : Reg) (s : State) : Host.Outcome State Fault Refusal :=
  perform (.vext et xd va xi) (fun s =>
    let t := s.me
    let j := (s.x xi).toNat
    (s.vectorReady [(va, et)] none (fun i => decide (i < t.vl)) (fun _ => false)).out fun _ s =>
      let x := if j < t.vl then readView s.myCore s.cur.2 t va et j else .off
      let (w, f) := orZero et x
      let s := s.popAll t.vl (popList [(va, et)])
      let v : Word := match et with
        | .i => BitVec.ofInt 64 (sInt 40 w)
        | .f => BitVec.ofNat 64 w
        | .d => BitVec.ofNat 64 w
      .done ((s.setX xd v).raiseAll [(j, f)])) s

/-- VINS (R434). -/
def execVins (et : Et) (vd : View) (xs xi : Reg) (s : State) : Host.Outcome State Fault Refusal :=
  perform (.vins et vd xs xi) (fun s =>
    let t := s.me
    let j := (s.x xi).toNat
    let on := fun (i : Nat) => i == j && decide (i < t.vl)
    (s.vectorReady [] (some (vd, et)) (fun _ => false) on).out fun _ s =>
      let w := (deliver et (readView s.myCore s.cur.2 t (.x xs) et 0)).1
      (s.writeView vd et false fun i => if on i && (viewCell t vd et i).isSome then some w else none).out fun _ s => .done s) s

/-! Reductions and scans (R130, R131, R439). -/

/-- The identity of a combination. -/
def identity (op : RedOp) (e : Et) : Elem :=
  match e, op with
  | .i, .sum => .int 0
  | .i, .max => .int (BitVec.ofNat 40 (2 ^ 39))
  | .i, .min => .int (BitVec.ofNat 40 (2 ^ 39 - 1))
  | _, .sum => .num (.fin ⟨true, 0, 0⟩)
  | _, .max => .num (.inf true)
  | _, .min => .num (.inf false)

/-- One combining step: the exact result rounded, as an element again, with its flags. -/
def combine (op : RedOp) (e : Et) (c : RCtx) (sat : Bool) (a b : Elem) : Elem × Flags :=
  match e with
  | .i =>
    let z := match op with
      | .sum => a.toInt + b.toInt
      | .max => max a.toInt b.toInt
      | .min => min a.toInt b.toInt
    let (w, f) := fit40 sat z
    (.int (BitVec.ofNat 40 w), f)
  | e =>
    let (v, f) := match op with
      | .sum => numAdd (c.rm == Rounding.rdn) a.toNum b.toNum
      | .max => (numMax a.toNum b.toNum, {})
      | .min => (numMin a.toNum b.toNum, {})
    let (w, g) := roundFloat c (resultFmt e) sat v
    (.num ((resultFmt e).value w), f.or g)

/-- One level of the tree: pairs combined. -/
def treeLevel (f : Nat → Elem → Elem → Elem × Flags) (j : Nat) : List Elem → List Elem × List (Nat × Flags)
  | a :: b :: t =>
    let (x, g) := f j a b
    let (l, fs) := treeLevel f (j + 1) t
    (x :: l, (j, g) :: fs)
  | l => (l, [])

/-- The levels of the tree. -/
def tree (f : Nat → Elem → Elem → Elem × Flags) : Nat → List Elem → List (Nat × Flags) → List Elem × List (Nat × Flags)
  | 0, l, fs => (l, fs)
  | n + 1, l, fs =>
    let (l, gs) := treeLevel f 0 l
    tree f n l (fs ++ gs)

/-- Flags in the order of their elements. -/
def byElement (l : List (Nat × Flags)) : List (Nat × Flags) := (List.range 128).flatMap fun j => l.filter fun x => x.1 == j

/-- VRED (R130, R439). -/
def execVred (op : RedOp) (et : Et) (vd va : View) (rm : Rounding) (sat : Bool) (mk : MReg) (s : State) :
    Host.Outcome State Fault Refusal :=
  perform (.vred op et vd va rm sat mk) (fun s =>
    let t := s.me
    (s.vectorReady [(va, et)] (some (vd, et)) (t.active mk) (fun i => i == 0)).out fun _ s =>
      let els := (List.range (if et = .d then 64 else 128)).map fun i =>
        let x := if t.active mk i then readView s.myCore s.cur.2 t va et i else .off
        if x.isOn then x else identity op et
      let (l, fs) := tree (fun j a b => combine op et (t.vround rm j) sat a b) (if et = .d then 6 else 7) els []
      let w := (deliver et (l.headD (identity op et))).1
      ((s.popAll t.vl (popList [(va, et)])).writeView vd et false fun i => if i = 0 then some w else none).out fun _ s =>
        .done (s.raiseAll (byElement fs))) s

/-- An inactive element stands as the identity. -/
def orIdentity (op : RedOp) (et : Et) (x : Elem) : Elem := if x.isOn then x else identity op et

/-- The running values of a scan up to element `n`, with the flags of the step that formed the last (R131): the first is
    element 0 itself, not rounded. -/
def scanTo (op : RedOp) (et : Et) (sat : Bool) (c : Nat → RCtx) (x : Nat → Elem) : Nat → Elem × Flags
  | 0 => (orIdentity op et (x 0), {})
  | n + 1 => combine op et (c (n + 1)) sat (scanTo op et sat c x n).1 (orIdentity op et (x (n + 1)))

/-- VSCAN (R131, R439). Its element 0 is not rounded, and R131 does not say what is written where the encoding cannot hold it (an FP64 or scaled
stream element under et F): it is written rounded to nearest even, and raises no flag (DESIGN CHOICE, log entry 82). -/
def execVscan (op : RedOp) (et : Et) (vd va : View) (c : VCtl) (s : State) : Host.Outcome State Fault Refusal :=
  perform (.vscan op et vd va c) (fun s =>
    let t := s.me
    vectorBody vd et [(va, et)] (fun _ => false) c.mz c.mask readView (fun src i =>
      let (x, f) := scanTo op et c.sat (t.vround c.rm) (fun j => if t.active c.mask j then src 0 j else .off) i
      some ((deliver et x).1, f)) s) s

/-! Compares and masks (R436, R398, R399). -/

/-- A compare: the condition at each active element; other bits are cleared or kept. -/
def vcompare (e : Et) (md : MReg) (va vb : View) (p : VPol) (f : Elem → Elem → Bool) (s : State) : Out :=
  let t := s.me
  (s.vectorReady [(va, e), (vb, e)] none (t.active p.mask) (fun _ => false)).out fun _ s =>
    let k := s.myCore
    let old := t.getM md
    let bits := (List.range 128).map fun i =>
      let a := readView k s.cur.2 t va e i
      let b := readView k s.cur.2 t vb e i
      if t.active p.mask i && a.isOn && b.isOn then f a b else !p.mz && old.getLsbD i
    .done ((s.popAll t.vl (popList [(va, e), (vb, e)])).setMreg md ((BitVec.ofBoolListLE bits).setWidth 128))

def fcond (c : VfCond) (a b : Num) : Bool :=
  match c with
  | .eq => numEq a b
  | .ne => !numEq a b
  | .lt => numLt a b
  | .ge => numLt b a || numEq a b
  | .le => numLt a b || numEq a b
  | .gt => numLt b a
  | .un => a.isNan || b.isNan

def icond (bits : Nat) (c : ICond) (a b : Nat) : Bool :=
  match c with
  | .eq => a == b
  | .ne => a != b
  | .lt => decide (sInt bits a < sInt bits b)
  | .ge => decide (sInt bits b ≤ sInt bits a)
  | .ltn => decide (a < b)
  | .gen => decide (b ≤ a)

/-- The 40 bits of an integer element. -/
def Elem.bits (x : Elem) : Nat := (BitVec.ofInt 40 x.toInt).toNat

def execVfcmp (cond : VfCond) (et : FD) (md : MReg) (va vb : View) (p : VPol) (s : State) : Host.Outcome State Fault Refusal :=
  perform (.vfcmp cond et md va vb p) (vcompare et.toEt md va vb p fun a b => fcond cond a.toNum b.toNum) s
def execVicmp (cond : ICond) (md : MReg) (va vb : View) (p : VPol) (s : State) : Host.Outcome State Fault Refusal :=
  perform (.vicmp cond md va vb p) (vcompare .i md va vb p fun a b => icond 40 cond a.bits b.bits) s

/-- The operations of MLOGIC on whole masks. -/
def logicOp (op : LogicOp) (a b : Mask128) : Mask128 :=
  match op with
  | .and => a &&& b | .or => a ||| b | .xor => a ^^^ b | .andn => a &&& ~~~b | .orn => a ||| ~~~b
  | .xnor => ~~~(a ^^^ b) | .nand => ~~~(a &&& b) | .nor => ~~~(a ||| b)

/-- A mask from a condition on its bits. -/
def maskOf (f : Nat → Bool) : Mask128 := (BitVec.ofBoolListLE ((List.range 128).map f)).setWidth 128

/-- Mask as a mask (R54). -/
def Track.activeMask (t : Track) (mk : MReg) : Mask128 := maskOf (t.active mk)

def execMlogic (op : LogicOp) (md ma mb : MReg) (p : VPol) (s : State) : Host.Outcome State Fault Refusal :=
  perform (.mlogic op md ma mb p) (fun s =>
    let act := s.me.activeMask p.mask
    let kept := if p.mz then 0 else s.mreg md &&& ~~~act
    .done (s.setMreg md ((logicOp op (s.mreg ma) (s.mreg mb) &&& act) ||| kept))) s

/-- The first active true element. -/
def Track.firstSet (t : Track) (mk : MReg) (m : Mask128) : Option Nat :=
  (List.range 128).find? fun i => t.active mk i && m.getLsbD i

def execMfirst (md ma mk : MReg) (s : State) : Host.Outcome State Fault Refusal :=
  perform (.mfirst md ma mk) (fun s =>
    let t := s.me
    let f := t.firstSet mk (s.mreg ma)
    .done (s.setMreg md (maskOf fun i => t.active mk i && (match f with
      | none => true
      | some j => decide (i ≤ j))))) s

def execMpopc (xd : Reg) (ma mk : MReg) (s : State) : Host.Outcome State Fault Refusal :=
  perform (.mpopc xd ma mk) (fun s =>
    let t := s.me
    let m := s.mreg ma
    .done (s.setX xd (BitVec.ofNat 64 ((List.range 128).filter fun i => t.active mk i && m.getLsbD i).length))) s

def execMfind (xd : Reg) (ma mk : MReg) (s : State) : Host.Outcome State Fault Refusal :=
  perform (.mfind xd ma mk) (fun s =>
    let t := s.me
    .done (s.setX xd (BitVec.ofNat 64 ((t.firstSet mk (s.mreg ma)).getD t.vl)))) s

def execMtox (xd : Reg) (ma : MReg) (xh : Reg) (s : State) : Host.Outcome State Fault Refusal :=
  perform (.mtox xd ma xh) (fun s =>
    .done (s.setX xd ((s.mreg ma >>> (if (s.x xh).getLsbD 0 then 64 else 0)).setWidth 64))) s

def execMfromx (md : MReg) (xs xh : Reg) (s : State) : Host.Outcome State Fault Refusal :=
  perform (.mfromx md xs xh) (fun s =>
    let v : Mask128 := (s.x xs).setWidth 128
    let low : Mask128 := BitVec.ofNat 128 (2 ^ 64 - 1)
    let m := s.mreg md
    .done (s.setMreg md (if (s.x xh).getLsbD 0 then (m &&& low) ||| (v <<< 64) else (m &&& ~~~low) ||| v))) s

end Sys2Proof.Machine
end

