-- ==== Sys2Proof/Machine/VectorMemory.lean ====
section
/-!
DEFINITION. Vector loads, stores, atomics and waits (R71, R211 to R214, R432, R433, R437, R438, R440 to R443).
-/
namespace Sys2Proof.Machine

/-! Loads. -/

/-- What a loaded element writes, in its cell encoding (R437): exact. -/
def loadBits (et : ElemType) (v : Nat) : Nat :=
  match elemKind et with
  | .float .fp64 => (roundFloat .rne .fp64 false (FloatFmt.fp64.value v)).1
  | .float f => (roundFloat .rne .fp32 false (f.value v)).1
  | .int b sg => (BitVec.ofInt 40 (if sg then sInt b v else ((v % 2 ^ b : Nat) : Int))).toNat
  | .codebook => 0
  | .raw => v % 2 ^ 40

/-- Address of element `i` under a stride; 4-bit elements lie two to a byte (R438). -/
def strideAddr (base stride : Word) (packed : Bool) (et : ElemType) (i : Nat) : Nat :=
  if elemBits et = 4 then wrap (base.toNat + (i / 2 : Nat))
  else wrap (base.toNat + (i : Int) * (if packed then (elemBytes et : Int) else sw stride))

/-- Loads an element. -/
def State.loadElem (s : State) (et : ElemType) (va i : Nat) : Try Nat :=
  (s.load va (elemBytes et) i).bind fun v s =>
    let v := if elemBits et = 4 then (if i % 2 = 1 then v / 16 else v % 16) else v
    .ok (loadBits et v) (s.touch ⟨BitVec.ofNat 64 va, elemBytes et, i, true, false, elemBits et⟩)

/-- Loads elements in ascending order. `first` set lets a fault after the first end the load there (R71): the element that faulted. -/
def State.loadElems (s : State) (et : ElemType) (addr : Nat → Nat) (first : Bool) :
    List Nat → List (Nat × Nat) → Try (List (Nat × Nat) × Option Nat)
  | [], acc => .ok (acc, none) s
  | i :: t, acc =>
    match s.loadElem et (addr i) i with
    | .ok v s => s.loadElems et addr first t (acc ++ [(i, v)])
    | .stop (.trap f s') => if first && !acc.isEmpty then .ok (acc, some i) s' else .stop (.trap f s')
    | .stop o => .stop o

/-- A vector load (R437, R438): `srcs` is the offset view of VLDX. -/
def loadBody (et : ElemType) (vd : View) (offset : Option View) (addr : Core → Nat → Nat) (first : Bool) (p : VPol) (s : State) : Out :=
  let t := s.me
  let e := et.cellEt
  let act := fun (i : Nat) => t.active p.mask i
  let srcs := match offset with
    | some v => [(v, Et.i)]
    | none => []
  (s.vectorReady srcs (some (vd, e)) act (fun i => act i || p.mz)).out fun _ s =>
    let k := s.myCore
    let on := fun (i : Nat) => act i && (viewCell t vd e i).isSome && srcs.all fun v => (viewCell t v.1 .i i).isSome
    (s.beforeRows (writtenRows t vd e fun i => on i || p.mz)).out fun _ s =>
      (s.loadElems et (addr k) first ((List.range 128).filter on) []).out fun r s =>
        (s.writeView vd e p.mz fun i => mfind i r.1).out fun _ s =>
          .done (match r.2 with
            | some e => s.modMe fun t => { t with vl := e }
            | none => s)

/-- ILLEGAL of a 4-bit type with a nonzero stride value (R437). -/
def strideBad (et : ElemType) (r : Reg) (v : Word) : Bool := elemBits et == 4 && r != 0 && v != 0

def strideLoad (et : ElemType) (vd : View) (xs xr : Reg) (first : Bool) (p : VPol) (s : State) : Out :=
  let stride := s.x xr
  if strideBad et xr stride then faulty .illegal s
  else loadBody et vd none (fun _ => strideAddr (s.x xs) stride (stride == 0) et) first p s

def execVld (et : ElemType) (vd : View) (xs xr : Reg) (p : VPol) (s : State) : Host.Outcome State Fault Refusal :=
  perform (.vld et vd xs xr p) (strideLoad et vd xs xr false p) s

def execVldff (et : ElemType) (vd : View) (xs xr : Reg) (p : VPol) (s : State) : Host.Outcome State Fault Refusal :=
  perform (.vldff et vd xs xr p) (strideLoad et vd xs xr true p) s

/-- The address of an element at an offset: the offset view's INT40, sign-extended. -/
def offsetAddr (base : Word) (t : Track) (n : Nat) (v : View) (k : Core) (i : Nat) : Nat :=
  wrap (base.toNat + (readView k n t v .i i).toInt)

def execVldx (et : ElemType) (vd : View) (xs : Reg) (vo : View) (p : VPol) (s : State) : Host.Outcome State Fault Refusal :=
  perform (.vldx et vd xs vo p) (fun s =>
    loadBody et vd (some vo) (offsetAddr (s.x xs) s.me s.cur.2 vo) false p s) s

/-! Stores. -/

/-- Stores an element, checked as a write (R441). -/
def State.storeElem (s : State) (et : ElemType) (va i v : Nat) : Try Unit :=
  (if elemBits et = 4 then s.storeNibble va (i % 2 == 1) v i else s.store va (elemBytes et) v i).bind fun _ s =>
    .ok () (s.touch ⟨BitVec.ofNat 64 va, elemBytes et, i, false, true, elemBits et⟩)

/-- Stores elements in ascending order, each block's scale byte after the block's last element (R441, R124). -/
def State.storeElems (s : State) (et : ElemType) (addr : Nat → Nat) (value : Nat → Nat) (scale : Nat → Option (Nat × Nat)) :
    List Nat → Try Unit
  | [] => .ok () s
  | i :: t =>
    (s.storeElem et (addr i) i (value i)).bind fun _ s =>
      match (if t.any fun j => j / 32 == i / 32 then none else scale (i / 32)) with
      | none => s.storeElems et addr value scale t
      | some (a, b) =>
        (s.store a 1 b i).bind fun _ s =>
          (s.touch ⟨BitVec.ofNat 64 a, 1, i, false, true, 8⟩).storeElems et addr value scale t

/-- A vector store (R440, R441). -/
def storeBody (va : View) (offset : Option View) (addr : Core → Nat → Nat) (scale : Option Word) (cv : VConv) (s : State) : Out :=
  let t := s.me
  let e := drainEt cv
  let act := fun (i : Nat) => t.active cv.mask i
  let srcs := (va, e) :: (match offset with
    | some v => [(v, Et.i)]
    | none => [])
  (s.vectorReady srcs none act (fun _ => false)).out fun _ s =>
    let k := s.myCore
    let x := fun (i : Nat) => readExact k s.cur.2 t va e i
    let on := fun (i : Nat) => act i && (x i).isOn && (match offset with
      | some v => (viewCell t v .i i).isSome
      | none => true)
    let ons := (List.range 128).filter on
    let blockScale := fun (b : Nat) => scale.map fun _ => mxScale (mxEmax cv.et) ((ons.filter fun i => i / 32 == b).map fun i => (x i).toNum)
    let res := fun (i : Nat) => convert cv (t.vround cv.rm i) (blockScale (i / 32)) (x i)
    let s := s.popAll t.vl (popList srcs)
    (s.storeElems cv.et (addr k) (fun i => (res i).1)
      (fun b => scale.bind fun sa => (blockScale b).map fun v => (wrap (sa.toNat + b), v)) ons).out fun _ s =>
        .done (s.raiseAll (ons.map fun i => (i, (res i).2)))

def execVst (va : View) (xs : Reg) (ad : StoreAddr) (cv : VConv) (s : State) : Host.Outcome State Fault Refusal :=
  perform (.vst va xs ad cv) (fun s =>
    let base := s.x xs
    match ad with
    | .stride r =>
      let stride := s.x r
      if strideBad cv.et r stride then faulty .illegal s
      else storeBody va none (fun _ => strideAddr base stride (stride == 0) cv.et) none cv s
    | .scale r => storeBody va none (fun _ => strideAddr base 0 true cv.et) (some (s.x r)) cv s) s

def execVstx (va : View) (xs : Reg) (vo : View) (cv : VConv) (s : State) : Host.Outcome State Fault Refusal :=
  perform (.vstx va xs vo cv) (fun s => storeBody va (some vo) (offsetAddr (s.x xs) s.me s.cur.2 vo) none cv s) s

/-! VATOM (R211, R432, R433). -/

/-- The checks of the atomics of all elements, in ascending order: their physical addresses. -/
def State.atomicChecks (s : State) (size : Nat) (addr : Nat → Nat) : List Nat → Try (List (Nat × Nat))
  | [] => .ok [] s
  | i :: t => (s.atomicCheck (addr i) size i).bind fun pa s => (s.atomicChecks size addr t).bind fun l s => .ok ((i, pa) :: l) s

/-- The elements at each address of another node, ascending: they go there in one packet, so that no other agent's write falls between
them (R211). -/
def remoteGroups (l : List (Nat × Nat)) : List (Nat × List Nat) :=
  l.foldl (fun gs x => match area x.2 with
    | .remote _ _ => mput x.2 ((mfind x.2 gs).getD [] ++ [x.1]) gs
    | _ => gs) []

/-- The unit under which the atomics of a group ask: their lowest element's. -/
def State.groupUnit (s : State) (elems : List Nat) : Nat := 64 + 128 * s.cur.2 + elems.headD 0

/-- What a VATOM whose atomics at other nodes have gone out still has to wait for at this package's addresses; it faults no more (R212). -/
def State.atomicWaits (s : State) (size : Nat) (l : List (Nat × Nat)) : Option WaitKind :=
  l.findSome? fun x => match area x.2 with
    | .remote _ _ => none
    | _ => (s.readWaits s.who x.2 size).or
        (s.storeWaits s.cur.1 (x.2 / 8 * 8) (2 ^ (8 * size) * 2 ^ (8 * (x.2 % 8)) - 2 ^ (8 * (x.2 % 8))))

/-- The physical addresses of the elements of a VATOM: those it has passed its checks with, or those that the checks give. -/
def State.atomicPlaces (s : State) (size : Nat) (addr : Nat → Nat) (on : List Nat) : Try (List (Nat × Nat)) :=
  match s.me.wait with
  | some w => if w.sent.isEmpty then s.atomicChecks size addr on else match s.atomicWaits size w.sent with
    | some k => .stop (.wait k 0 s)
    | none => .ok w.sent s
  | none => s.atomicChecks size addr on

/-- Notes the places of a VATOM that waits for other nodes' answers. -/
def State.noteSent (s : State) (i : Instr) (l : List (Nat × Nat)) : State :=
  (s.hold i .remote 0).modMe fun t => { t with wait := t.wait.map fun (w : Wait) => { w with sent := l } }

/-- Asks for the atomics at other nodes (R277): one packet for each address. -/
def State.askAtomics (s : State) (wire : Nat → List Byte) : List (Nat × List Nat) → State × Bool
  | [] => (s, true)
  | (pa, elems) :: t =>
    let (o, s) := s.ask s.cur.1 (s.groupUnit elems) pa 5 (elems.flatMap wire)
    let (s, ok) := s.askAtomics wire t
    (s, ok && o.isSome)

/-- The old value that a remote home has answered for an element: 8 bytes for each of its address's, in their order. -/
def State.answered (s : State) (groups : List (Nat × List Nat)) (pa elem : Nat) : Nat :=
  let elems := (mfind pa groups).getD []
  match (s.ask s.cur.1 (s.groupUnit elems) pa 5 []).1 with
  | some b => ofBytes ((b.drop (8 * elems.idxOf elem)).take 8)
  | none => 0

/-- Performs the atomics in ascending element order: old values by element. The edges of those of another node are made as its answers
are taken (log entry 58). -/
def State.performAtomics (s : State) (size : Nat) (f : Nat → Nat → Nat) (o : MemOrder) (sc : Scope) (groups : List (Nat × List Nat)) :
    List (Nat × Nat) → State × List (Nat × Nat)
  | [] => (s, [])
  | (i, pa) :: t =>
    let far := (mfind pa groups).isSome
    let old := if far then s.answered groups pa i % 2 ^ (8 * size) else s.bytes pa size
    let s := s.syncRead (s.relsAt pa size) o.acquires sc
    let s := (if far then s else s.setBytes pa size (f i old)).addRels pa size (s.relsOf o.releases sc)
    let (s, l) := s.performAtomics size f o sc groups t
    (s, (i, old) :: l)

/-- The old value as its destination takes it (R432). -/
def atomOld (et : ElemType) (v : Nat) : Nat :=
  match et with
  | .fp32 => (roundFloat .rne .fp32 false (FloatFmt.fp32.value v)).1
  | .int64 => v % 2 ^ 40
  | .uint8 => v
  | et => (BitVec.ofInt 40 (sInt (elemBits et) v)).toNat

def execVatom (op : AmoOp) (et : ElemType) (o : MemOrder) (sc : Scope) (vd : View) (xs : Reg) (va vb : View) (p : VPol)
    (s : State) : Host.Outcome State Fault Refusal :=
  let i : Instr := .vatom op et o sc vd xs va vb p
  perform i (fun s =>
    let t := s.me
    let e : Et := if et = .fp32 then .f else .i
    let size := elemBytes et
    let act := fun (i : Nat) => t.active p.mask i
    (s.vectorReady [(va, .i), (vb, e)] (some (vd, e)) act (fun i => act i || p.mz)).out fun _ s =>
      let k := s.myCore
      let data := fun (i : Nat) => (match vb with
        | .x r => (t.getX r).toNat
        | v => match readView k s.cur.2 t v e i with
          | .num x => (roundFloat .rne .fp32 false x).1
          | x => (BitVec.ofInt 64 x.toInt).toNat) % 2 ^ (8 * size)
      let on := fun (i : Nat) => act i && (viewCell t vd e i).isSome && (readView k s.cur.2 t va .i i).isOn
        && (readView k s.cur.2 t vb e i).isOn
      let f := fun (i old : Nat) => amoValue op (8 * size) old (data i)
      let addr := offsetAddr (s.x xs) t s.cur.2 va k
      (s.atomicPlaces size addr ((List.range 128).filter on)).out fun l s =>
        match s.askAtomics (fun i => atomicWire op.code size (data i) 0) (remoteGroups l) with
        | (s, false) => .wait .remote 0 (s.noteSent i l)
        | (s, true) =>
          let (s, olds) := s.performAtomics size (fun i old => (f i old).1) o sc (remoteGroups l) l
          let s := olds.foldl (fun s x => s.touch ⟨BitVec.ofNat 64 (addr x.1), size, x.1, true, true, 0⟩) s
          let s := s.newRegion
          (s.writeView vd e p.mz fun i => (mfind i olds).map (atomOld et)).out fun _ s =>
            .done (s.modMe fun t => olds.foldl (fun t x => t.raise (f x.1 x.2).2) t)) s

/-! VWAIT (R213, R214, R442, R443). -/

/-- The elements that a VWAIT watches. -/
def State.watchList (s : State) (wide : Bool) (xs : Reg) (va vb : View) (mk : MReg) : List Watched :=
  let t := s.me
  let k := s.myCore
  ((List.range 128).filter fun i => t.active mk i && (readView k s.cur.2 t va .i i).isOn && (readView k s.cur.2 t vb .i i).isOn).map fun i =>
    { elem := i, addr := offsetAddr (s.x xs) t s.cur.2 va k i, expected := (match vb with
      | .x r => (t.getX r).toNat
      | v => (BitVec.ofInt 64 (readView k s.cur.2 t v .i i).toInt).toNat) % 2 ^ (if wide then 64 else 32) }

/-- Whether a physical address lies in the scratchpad of another core that is frozen: its reads wait (R251). -/
def State.farFrozen (s : State) (pa : Nat) : Bool :=
  match area pa with
  | .scratch c _ => c != s.cur.1 && (s.core c).frozen
  | _ => false

/-- The checks of the addresses watched, as reads (R443). They enter no region, and bytes held behind a milestone hold nothing up; what lies
in a frozen core (R251), or behind a link under test, is read when it can be. -/
def State.watchChecks (s : State) (size : Nat) : List Watched → Try Unit
  | [] => .ok () s
  | w :: t =>
    match s.reach s.who w.addr size .read with
    | .fault c s => .stop (faulty c s (BitVec.ofNat 64 w.addr) w.elem)
    | .wait _ s => s.watchChecks size t
    | .ok _ s => s.watchChecks size t

/-- The value watched now, read again where another node holds it, with the releases that its read reads; none while it is not known. -/
def State.watchRead (s : State) (size : Nat) (w : Watched) : Option (Nat × List Rel) × State :=
  match s.peek s.who w.addr .read with
  | none => (none, s)
  | some pa => match area pa with
    | .remote _ _ =>
      match s.ask s.cur.1 (64 + 128 * s.cur.2 + w.elem) pa 1 (toBytes 2 size) with
      | (some b, s) => (some (ofBytes b % 2 ^ (8 * size), s.relsAt pa size), s.asked s.cur.1 (64 + 128 * s.cur.2 + w.elem))
      | (none, s) => (none, s)
    | _ => (if s.farFrozen pa || s.underTest (dieOf s.cur.1) pa then none else some (s.bytes pa size, s.relsAt pa size), s)

/-- Evaluates the elements of `redo`: what is watched then, and the satisfied ones. An element whose value is not known yet stays as it was. -/
def State.watchEval (s : State) (size : Nat) (c : ICond) (before : List Nat) (redo : Nat → Bool) : List Watched → State × List Watched × List Nat
  | [] => (s, [], [])
  | w :: t =>
    let (o, s) := if redo w.elem then s.watchRead size w else (none, s)
    let (s, l, sat) := s.watchEval size c before redo t
    let w' : Watched := match o with
      | some r => { w with known := true, rels := r.2 }
      | none => w
    let yes := match o with
      | some r => icond (8 * size) c r.1 w.expected
      | none => before.contains w.elem
    (s, w' :: l, if yes then w.elem :: sat else sat)

/-- VWAIT returns: the mask of satisfied elements, and the acquires of the reads that have found them so. -/
def State.watchDone (s : State) (size : Nat) (sc : Scope) (md : MReg) (l : List Watched) (sat : List Nat) : State :=
  let s := (l.filter fun w => sat.contains w.elem).foldl (fun s w =>
    (s.syncRead w.rels true sc).touch ⟨BitVec.ofNat 64 w.addr, size, w.elem, true, false, 0⟩) s
  s.newRegion.setMreg md (maskOf fun i => sat.contains i)

/-- An element that could not be read at issue, since its core was frozen, and is not there any more (R251). -/
def State.watchLost (s : State) (l : List Watched) (redo : Nat → Bool) : Option Watched :=
  l.find? fun w => redo w.elem && !w.known && (s.peek s.who w.addr .read).isNone

/-- What the evaluation of `redo` leaves of a VWAIT that watches `l`: `before` are the elements last found satisfied; `timeUp` ends the
wait, and a VWAIT that begins has its timeout in `start`. -/
def watchBody (i : Instr) (c : ICond) (all wide : Bool) (sc : Scope) (md : MReg) (start : Option Nat) (l : List Watched) (before : List Nat)
    (redo : Nat → Bool) (timeUp : Bool) (s : State) : Out :=
  let size := if wide then 8 else 4
  match s.watchLost l redo with
  | some w => faulty .window s (BitVec.ofNat 64 w.addr) w.elem
  | none =>
    let (s, l, sat) := s.watchEval size c before redo l
    if l.isEmpty || timeUp || (if all then l.all fun w => sat.contains w.elem else !sat.isEmpty) then .done (s.watchDone size sc md l sat)
    else match start, s.me.wait with
      | none, some w => .wait .vwait w.obj (s.modMe fun t => { t with wait := some { w with others := sat, watch := l, again := false } })
      | _, old =>
        let (n, s) := s.fresh
        .wait .vwait (start.getD 0) (s.modMe fun t =>
          { t with wait := some { kind := .vwait, seq := n, obj := start.getD 0, others := sat, watch := l, issued := old.any (·.issued), instr := i } })

def execVwait (cond : ICond) (all wide : Bool) (sc : Scope) (md : MReg) (xt xs : Reg) (va vb : View) (mk : MReg) (s : State) :
    Host.Outcome State Fault Refusal :=
  perform (.vwait cond all wide sc md xt xs va vb mk) (fun s =>
    let t := s.me
    (s.vectorReady [(va, .i), (vb, .i)] none (t.active mk) (fun _ => false)).out fun _ s =>
      let l := s.watchList wide xs va vb mk
      (s.watchChecks (if wide then 8 else 4) l).out fun _ s =>
        watchBody (.vwait cond all wide sc md xt xs va vb mk) cond all wide sc md (some (s.x xt).toNat) l [] (fun _ => true) false s) s

/-- The elements a waiting VWAIT last found satisfied, and those it watches. -/
def Track.satisfied (t : Track) : List Nat :=
  match t.wait with
  | some w => w.others
  | none => []
def Track.watching (t : Track) : List Watched :=
  match t.wait with
  | some w => w.watch
  | none => []

/-- Whether a waiting VWAIT has to evaluate all its elements again. -/
def Track.watchesAgain (t : Track) : Bool :=
  match t.wait with
  | some w => w.again
  | none => false

/-- A waiting VWAIT evaluates elements again: after a thaw all of them, none of which counts as satisfied before (R214). -/
def vwaitAgain (core t : Nat) (redo : Nat → Bool) (timeUp : Bool) (s : State) : Host.Outcome State Fault Refusal :=
  resumeWait core t .vwait (fun i s => match i with
    | .vwait cond all wide sc md _ _ _ _ _ =>
      let anew := s.me.watchesAgain
      watchBody i cond all wide sc md none s.me.watching (if anew then [] else s.me.satisfied) (fun e => anew || redo e) timeUp s
    | _ => .done s) s

/-- VWAIT_REEVALUATE: an element is read again. -/
def execVwaitReevaluate (core t elem : Nat) (s : State) : Host.Outcome State Fault Refusal :=
  vwaitAgain core t (fun e => e == elem) false s

/-- Whether a waiting VWAIT's timeout has run out: `obj` holds it, 0 for none. -/
def Track.timedOut (t : Track) : Bool :=
  match t.wait with
  | some w => w.kind == .vwait && w.obj != 0 && decide (w.obj ≤ w.cycles)
  | none => false

/-- VWAIT_TIMEOUT: the wait ends with the elements satisfied now. -/
def execVwaitTimeout (core t : Nat) (s : State) : Host.Outcome State Fault Refusal :=
  if (s.track core t).timedOut then vwaitAgain core t (fun _ => true) true s else .next s

end Sys2Proof.Machine
end

