-- ==== Sys2Proof/Machine/Streams.lean ====
section
/-!
DEFINITION. Streams: their instructions (R132 to R136, R141 to R143, R416, R417), their refill and decoders (R122, R126 to R128, R134,
R137, R140), links (R142), and codebook loads (R127, R143, R352, R353).
-/
namespace Sys2Proof.Machine

/-! The pattern record. -/

/-- Field of `n` bytes at an offset of a record read as one number. -/
def recField (w off n : Nat) : Nat := w / 2 ^ (8 * off) % 2 ^ (8 * n)

/-- Whether an element type, decode and sparsity could be named by a format word (R100). -/
def decodeLegal (t scale sparse n : Nat) : Bool :=
  let dense := sparse == 0 && n == 0
  let shape := dense || (sparse == 1 && (n == 1 || n == 2 || n == 4))
  shape && ((t == 12 && scale == 1) || (t == 9 && scale == 0 && dense)
    || ((fmtFloat t || fmtInt t) && (scale == 0 || scale == 2 || (scale == 1 && fmtMx t))))

/-- The pattern of a record; none when a reserved field is nonzero or a reserved code is used (R133, R135 step 3). -/
def patternOf (w : Nat) : Option Pattern :=
  let b := fun (o : Nat) => recField w o 1
  let dir := bitsOf (b 0x3D) 4 2
  let link := dir == 3 || dir == 4
  match ElemType.ofCode (b 0x3A % 16) with
  | none => none
  | some et =>
    if b 0x39 ≠ 0 ∨ recField w 0x3E 2 ≠ 0 ∨ 16 ≤ b 0x3A ∨ 128 < b 0x38 ∨ b 0x3B % 4 = 3 ∨ 2 ≤ bitsOf (b 0x3B) 3 2 ∨ 128 ≤ b 0x3B
        ∨ bitAt (b 0x3C) 3 ∨ bitAt (b 0x3C) 7 ∨ 32 ≤ b 0x3D ∨ 4 < dir
        ∨ (link && (recField w 0 8 != 0 || recField w 0x18 32 != 0)) then none
    else some
      { base := BitVec.ofNat 64 (recField w 0 8), counts := (span 0 4).map fun i => recField w (8 + 4 * i) 4,
        strides := (span 0 4).map fun i => BitVec.ofNat 64 (recField w (0x18 + 8 * i) 8), pop := b 0x38, et := et,
        scale := b 0x3B % 4, sparse := bitAt (b 0x3B) 2, n := bitsOf (b 0x3B) 6 4, sideScale := b 0x3C % 8,
        sideMeta := bitsOf (b 0x3C) 6 4, slot := b 0x3D % 4, dir := dir }

/-- R135 step 4: what makes a pattern STREAM for a register. -/
def patternBad (q : Nat) (p : Pattern) : Bool :=
  let c0 := p.counts.headD 0
  let s0 := p.strides.headD 0
  let decoded := p.scale != 0 || p.sparse || p.n != 0 || p.et == .k8
  let packed := elemBits p.et == 4 || p.et == .k8 || p.sparse || (p.scale == 1 && elemBits p.et != 8)
  p.counts.any (· == 0) || decide (2 ^ 40 ≤ p.total)
    || (decoded && !decodeLegal p.et.code p.scale p.sparse.toNat p.n)
    || (p.scale != 0 && p.sideScale == q) || (p.sparse && p.sideMeta == q)
    || (p.dir != 1 && p.dir != 2 && !decoded && (p.et == .k8))
    || (p.dir == 2 && p.et != .uint8)
    || (packed && s0 != 0) || (p.scale == 1 && c0 % 32 != 0) || ((p.sparse || p.et == .k8) && c0 % 8 != 0)

/-- R135 step 5: a base or stride that is no multiple of the element size. -/
def patternUnaligned (p : Pattern) : Bool :=
  let sz := elemBytes p.et
  (sz == 2 || sz == 4 || sz == 8) && (p.base.toNat % sz != 0 || p.strides.any fun s => s.toNat % sz != 0)

/-- R135 step 6. -/
def outputBad (p : Pattern) : Bool := p.dir == 1 && !(p.et == .fp32 || p.et == .fp64 || p.et == .int64 || p.et == .acc40)

/-- Reads a record as relaxed data reads of the track, eight bytes at a time. -/
def State.readRecord (s : State) (va : Nat) : Nat → Try Nat
  | 0 => .ok 0 s
  | n + 1 => (s.load va 8 0).bind fun v s => (s.readRecord (wrap (va + 8)) n).bind fun r s => .ok (v + 2 ^ 64 * r) s

/-- R132: the register is not the track's. -/
def Core.notMine (k : Core) (n q : Nat) : Bool := (k.owned n q).isNone

/-! Ending a stream. -/

/-- Cuts the other end of a stopped link: what was sent still arrives (R143). -/
def State.cutPartner (s : State) (st : Stream) : State :=
  match st.partner with
  | none => s
  | some (c, q) =>
    if !st.linked then s
    else s.modCore c fun k => match mfind q k.streams with
      | none => k
      | some o => { k with streams := mput q { o with buffer := o.buffer ++ st.inFlight ++ st.flits, cut := true } k.streams }

/-- Changes a stream that is there. -/
def Core.modStream (k : Core) (q : Nat) (f : Stream → Stream) : Core :=
  match mfind q k.streams with
  | none => k
  | some st => { k with streams := mput q (f st) k.streams }

/-- Where a stream's scale and metadata streams stand when it has taken `e` elements. -/
def Stream.scaleAt (st : Stream) (e : Nat) : Nat := st.side + (e + 31) / 32
def Stream.bitsAt (st : Stream) (e : Nat) : Nat := st.sideBits + (3 * st.pat.n * ((e + 7) / 8) + 7) / 8

/-- A stream's side streams go on after the elements it has taken: after the bytes of those, rounded up, as the spec does not say where in a
byte or a block a next stream would begin (DESIGN CHOICE, log entry 75). A side stream configured since the stream was is another one. -/
def Core.leaveSides (k : Core) (st : Stream) : Core :=
  let at_ := fun (n : Nat) (sd : Stream) => if sd.id < st.id then { sd with pos := n } else sd
  let k := if st.pat.scale = 1 then k.modStream st.pat.sideScale (at_ (st.scaleAt st.pos)) else k
  if st.pat.sparse then k.modStream st.pat.sideMeta (at_ (st.bitsAt st.pos)) else k

/-- Lets go of the side bytes of elements that a stream no longer keeps, and of a fault met at such a byte. -/
def Core.releaseSides (k : Core) (st : Stream) : Core :=
  let drop := fun (n : Nat) (sd : Stream) =>
    if n ≤ sd.freed then sd
    else
      let gone := match sd.fault with
        | some f => decide (f.1 < n)
        | none => false
      { sd with freed := n, buffer := sd.buffer.drop (n - sd.freed), fault := if gone then none else sd.fault }
  let k := if st.pat.scale = 1 then k.modStream st.pat.sideScale (drop (st.side + st.freed / 32)) else k
  if st.pat.sparse then k.modStream st.pat.sideMeta (drop (st.sideBits + 3 * st.pat.n * (st.freed / 8) / 8)) else k

/-- STRM.STOP's effect: the register is free, its data and its fault are gone (R143, R416). Its reads happen before its trip's completion
(R192). -/
def State.stopStream (s : State) (core q : Nat) : State :=
  match mfind q (s.core core).streams with
  | none => s
  | some st =>
    let s := (s.cutPartner st).modCore core fun k => { k.leaveSides st with streams := mdel q (k.leaveSides st).streams }
    (s.modTrack core st.owner fun t => { t with records := t.records.filter fun r => r.cmd != st.id }).commandEnded core st.owner
      (st.who (s.core core) core)

/-! The instructions. -/

/-- Puts a stream in a register. -/
def State.configure (s : State) (q : Nat) (p : Pattern) (rec_ : Nat) : State :=
  let t := s.me
  let k := s.myCore
  let (id, s) := s.fresh
  let clock := s.who.released
  let at_ := fun (r : Nat) => match mfind r k.streams with
    | some sd => sd.pos
    | none => 0
  let st : Stream :=
    { num := q, owner := s.cur.2, id := id, ctx := t.ctxid, super := t.super, fpc := t.pc, record := toBytes 64 rec_, pat := p, clock := clock,
      side := if p.scale = 1 then at_ p.sideScale else 0, sideBits := if p.sparse then at_ p.sideMeta else 0 }
  s.newTick.modMyCore fun k => { k with streams := mput q st k.streams }

/-- Whether STRM.STOP waits: for an OPA that takes the stream's elements, or for the writes of an output stream that are on their way (R143). -/
def State.stopHeld (s : State) (q : Nat) (st : Stream) : Bool := s.myCore.opaUses q || (st.pat.dir == 1 && !s.sentLanded s.cur.1)

def execStrmCfg (q : Q8) (a : Reg) (s : State) : Host.Outcome State Fault Refusal :=
  perform (.strmCfg q a) (fun s =>
    let va := s.x a
    let stream := fun (s : State) => faulty .stream s va q.val
    match mfind q.val s.myCore.streams with
    | some st =>
      if st.owner ≠ s.cur.2 then faulty .stream s 0 q.val
      else if s.stopHeld q.val st then .wait .stop q.val s
      else body va stream s
    | none => body va stream s) s
where
  body (va : Word) (stream : State → Out) (s : State) : Out :=
    if va.toNat % 64 ≠ 0 then faulty .align s va
    else (s.readRecord va.toNat 8).out fun w s =>
      match patternOf w with
      | none => stream s
      | some p =>
        if patternBad q.val p then stream s
        else if patternUnaligned p then faulty .align s p.base
        else if outputBad p then stream s
        else .done ((s.stopStream s.cur.1 q.val).configure q.val p w)

/-- STRM.IDX (R141): the elements fetched ahead are dropped, and the list is read before any other. From now on the stream's reads are
ordered as those of a command issued here (R151). A STRM.SKIP counts as a first pop (log entry 59). -/
def execStrmIdx (q : Q8) (a b : Reg) (s : State) : Host.Outcome State Fault Refusal :=
  perform (.strmIdx q a b) (fun s =>
    let k := s.myCore
    match k.owned s.cur.2 q.val with
    | none => faulty .stream s 0 q.val
    | some st =>
      let n := (s.x b).toNat
      if st.pat.dir ≠ 0 ∨ windowOf st.pat.base.toNat ≠ some 2 ∨ n ≠ st.pat.counts.getD 1 0 ∨ 65536 < n ∨ st.pos ≠ 0 then
        faulty .stream s 0 q.val
      else if (s.x a).toNat % 2 ≠ 0 then faulty .align s (s.x a)
      else
        let clock := s.who.released
        let old := st.id
        let (id, s) := s.fresh
        let s := (s.modMe fun t => { t with records := t.records.filter fun r => r.cmd != old }).commandEnded s.cur.1 s.cur.2
          (st.who k s.cur.1)
        let st := { st with id := id, index := some (s.x a, []), buffer := [], freed := 0, fault := none, told := false, clock := clock }
        .done (s.newTick.modMyCore fun k => { k with streams := mput q.val st k.streams })) s

/-- Joins two ends that have named each other (R142): within one context, and with the same element type and count. -/
def State.join (s : State) (c q : Nat) : State :=
  match mfind q (s.core c).streams with
  | none => s
  | some me => match me.partner with
    | none => s
    | some (c2, q2) => match mfind q2 (s.core c2).streams with
      | none => s
      | some o =>
        if o.partner ≠ some (c, q) || o.ctx ≠ me.ctx || me.linked || o.linked || o.cut then s
        else
          let same := me.pat.et == o.pat.et && me.pat.total == o.pat.total && me.pat.dir != o.pat.dir
          let set := fun (s : State) (c q room : Nat) => s.modCore c fun k => match mfind q k.streams with
            | none => k
            | some st =>
              let st := if same then { st with linked := true, credits := room }
                else { st with linked := true, fault := some (0, .stream, 0) }
              { k with streams := mput q st k.streams }
          let room := if me.pat.dir = 3 then (s.core c).refillRoom me.pat else (s.core c2).refillRoom o.pat
          set (set s c q room) c2 q2 room

def execStrmLink (q : Q8) (a : Reg) (s : State) : Host.Outcome State Fault Refusal :=
  perform (.strmLink q a) (fun s =>
    let v := s.x a
    let c := fld v 8 0
    let r := fld v 11 9
    if fld v 63 12 ≠ 0 then faulty .illegal s
    else match s.myCore.owned s.cur.2 q.val with
    | none => faulty .stream s 0 q.val
    | some st =>
      if (st.pat.dir ≠ 3 ∧ st.pat.dir ≠ 4) ∨ st.linked ∨ (c, r) = (s.cur.1, q.val) then faulty .stream s 0 q.val
      else .done ((s.modMyCore fun k => { k with streams := mput q.val { st with partner := some (c, r) } k.streams }).join s.cur.1 q.val)) s

def execStrmStop (q : Q8) (s : State) : Host.Outcome State Fault Refusal :=
  perform (.strmStop q) (fun s =>
    match s.myCore.owned s.cur.2 q.val with
    | none => faulty .stream s 0 q.val
    | some st => if s.stopHeld q.val st then .wait .stop q.val s else .done (s.stopStream s.cur.1 q.val)) s

/-- STRM.SKIP (R143, R416): data fetched of the skipped elements, and a fault met there, are dropped, with the side bytes that only those
need; on a link the skipped elements are popped as they arrive, as many as have come while the instruction waits for the rest, or pushed with
values that nothing fixes: as one push, which waits for its credits, or for all that the partner's buffer has (log entry 59). A mismatched
link stops it as it stops a pop or push (R142). -/
def execStrmSkip (q : Q8) (a : Reg) (s : State) : Host.Outcome State Fault Refusal :=
  perform (.strmSkip q a) (fun s =>
    let k := s.myCore
    match k.owned s.cur.2 q.val with
    | none => faulty .stream s 0 q.val
    | some st =>
      let n := (s.x a).toNat - st.skipped
      if st.pat.dir = 2 ∨ st.left < n ∨ (st.cut && decide (st.freed + st.buffer.length < st.pos + n)) then faulty .stream s 0 q.val
      else if k.opaUses q.val then .wait .stop q.val s
      else
        let pos := st.pos + n
        let put := fun (s : State) (st : Stream) => s.modMyCore fun k => { k with streams := mput q.val st k.streams }
        if st.pat.dir = 0 then
          let gone := match st.fault with
            | some (e, _, _) => decide (e < pos)
            | none => false
          let s := if gone then s.modMe fun t => { t with records := t.records.filter fun r => r.cmd != st.id } else s
          let st := { st with pos := pos, freed := pos, buffer := st.buffer.drop (pos - st.freed),
                              fault := if gone then none else st.fault, told := if gone then false else st.told }
          .done ((put s st).modMyCore (·.releaseSides st))
        else if st.pat.dir = 1 then .done (put s { st with pos := pos })
        else match k.reached st n with
        | some f => .wait .link q.val (s.tell q.val s.me.pc f)
        | none =>
        if st.pat.dir = 3 then
          if !st.linked || st.held then .wait .link q.val s
          else
            let d := min n (st.freed + st.buffer.length - st.pos)
            let p := st.pos + d
            let st := { st with pos := p, freed := p, buffer := st.buffer.drop (p - st.freed), skipped := if d = n then 0 else st.skipped + d }
            if d = n then .done (put s st) else .wait .link q.val (put s st)
        else
          let room := match st.partner with
            | some (c, _) => (s.core c).refillRoom st.pat
            | none => 0
          if !st.linked || st.held || st.credits < min n room then .wait .link q.val s
          else
            let l := (List.range n).map fun i => SElem.cell (Config.linkFill (s.tick + i))
            .done (put { s with tick := s.tick + n } { st with pos := pos, inFlight := st.inFlight ++ l, credits := st.credits - n })) s

/-! Links. -/

/-- LINK_FLIT_ARRIVAL: the next element on the way to a link-in stream reaches its refill buffer, unless a Causeway link on its way is
under test (R281). -/
def execLinkFlitArrival (core : Nat) (q : Q8) (s : State) : Host.Outcome State Fault Refusal :=
  .next (match mfind q.val (s.core core).streams with
    | none => s
    | some st => match st.partner with
      | none => s
      | some (c, r) => match mfind r (s.core c).streams with
        | none => s
        | some o => match o.inFlight with
          | [] => s
          | x :: rest =>
            if !(st.linked && st.pat.dir == 3) || (s.core core).refillRoom st.pat ≤ st.buffer.length || s.routeTested (dieOf c) (dieOf core) then s
            else
              let s := s.modCore c fun k => { k with streams := mput r { o with inFlight := rest } k.streams }
              s.modCore core fun k =>
                let k := { k with streams := mupd st q.val (fun st => { st with buffer := st.buffer ++ [x] }) k.streams }
                k.freeTo q.val (k.keepFrom q.val))

/-- LINK_CREDIT_RETURN: the sender gets the credits of the space its partner has freed; a stopped partner returns none.
The credits wait while a Causeway link between the dies is under test (R281). -/
def execLinkCreditReturn (core : Nat) (q : Q8) (s : State) : Host.Outcome State Fault Refusal :=
  .next (match mfind q.val (s.core core).streams with
    | none => s
    | some st => match st.partner with
      | none => s
      | some (c, r) => match mfind r (s.core c).streams with
        | none => s
        | some o =>
          if !(st.linked && st.pat.dir == 4) || st.cut || s.routeTested (dieOf c) (dieOf core) then s
          else
            let st := { st with credits := max st.credits ((s.core c).refillRoom o.pat - st.inFlight.length - o.buffer.length) }
            s.modCore core fun k => { k with streams := mput q.val st k.streams })

/-! Refill and decoding. -/

/-- A byte of a side stream: the byte, that it has not come yet, or the fault that stops the main stream (R136). -/
inductive SideByte
  | ok (b : Nat)
  | later
  | bad (c : Cause) (addr : Word)

def Core.sideByte (k : Core) (owner q i : Nat) : SideByte :=
  match k.sideOf owner q with
  | none => .bad .stream 0
  | some sd =>
    if sd.pat.total ≤ i then .bad .stream 0
    else match sd.buffer[i - sd.freed]? with
      | some (.val (.fin d)) => .ok d.mant
      | _ => match sd.fault with
        | some (e, c, a) => if e ≤ i then .bad c a else .later
        | none => .later

/-- The metadata bits of group `g` (R128), gathered from up to three bytes. -/
def Core.metaBits (k : Core) (owner q base n g : Nat) : SideByte :=
  let at_ := 3 * n * g
  let first := at_ / 8
  let last := (at_ + 3 * n - 1) / 8
  let r := (span first (last + 1 - first)).foldr (fun i (acc : SideByte) => match k.sideByte owner q (base + i), acc with
    | .ok b, .ok v => .ok (b + 256 * v)
    | .ok _, o => o
    | o, _ => o) (.ok 0)
  match r with
  | .ok v => .ok (v / 2 ^ (at_ % 8) % 2 ^ (3 * n))
  | o => o

/-- Whether positions rise strictly. -/
def ascending : List Nat → Bool
  | a :: b :: t => decide (a < b) && ascending (b :: t)
  | _ => true

/-- A weight of a K8 codeword before scaling (R126). -/
def Core.k8Weight (k : Core) (slot c j : Nat) : Num :=
  if bitAt c 0 then .fin ⟨false, 0, 0⟩
  else
    let sign := if j < 7 then bitAt c (j + 1) else (span 1 7).foldl (fun b i => b != bitAt c i) false
    let t := FloatFmt.e4m3.value (mget 0 (slot * 2048 + 8 * (c / 256) + j) k.cbk).toNat
    if sign then t.negate else t

/-- A stored value of a plain type as the decoder delivers it. -/
def plainElem (et : ElemType) (w : Nat) : SElem :=
  if et = .acc40 then .cell (BitVec.ofNat 40 w) else .val (elemValue et w)

/-- Applies an MX scale. -/
def SElem.scale (b : Option Nat) (x : SElem) : SElem :=
  match x with
  | .val v => .val (scaled b v)
  | .cell c => .cell c

/-- What a refill comes to: elements, with the bytes they took, or a fault at an element. -/
inductive Refill
  | got (l : List SElem) (bytes : Nat) (s : State)
  | bad (elem : Nat) (c : Cause) (addr : Word) (s : State)
  | later (s : State)

/-- Reads and decodes the element `e` of a stream, a whole group of 8 under K8 and N of 8 (R122, R126, R128, R137). A gather reads inside its
core's scratchpad: an index that leads out of the local window is WINDOW, as it is beyond the scratchpad (R141; log entry 59), and PROTECT
where the address is not canonical (R176). K8 together with N of 8 passes R100's table, but no rule gives its decoding: the stored values are
two bytes each, read as K8's type, at the positions named, and +0 elsewhere (DESIGN CHOICE, log entry 76). -/
def State.fetchElem (s : State) (core : Nat) (st : Stream) (e : Nat) : Refill :=
  let k := s.core core
  let p := st.pat
  let w := st.who k core
  let (a, n) := st.elemAt e
  let i0 := e % p.counts.headD 1
  let scale : SideByte := if p.scale = 1 then k.sideByte st.owner p.sideScale (st.side + e / 32) else .ok 127
  let mx := fun (b : Nat) => if p.scale = 1 then some b else none
  let out := st.index.isSome && windowOf a != some 2
  let cause : Cause := if canonical a then .window else .protect
  match scale with
  | .later => .later s
  | .bad c x => .bad e c x s
  | .ok b =>
    if out then .bad e cause (BitVec.ofNat 64 a) s
    else if p.sparse then
      match k.metaBits st.owner p.sideMeta st.sideBits p.n (e / 8) with
      | .later => .later s
      | .bad c x => .bad e c x s
      | .ok m =>
        let pos := (List.range p.n).map fun j => m / 8 ^ j % 8
        if !ascending pos then .bad (e / 8 * 8) .stream 0 s
        else match s.engineRead w st.id a n with
          | .wait s => .later s
          | .fault c x s => .bad e c (BitVec.ofNat 64 x) s
          | .ok v s =>
            let off := (i0 / 8 * p.n) * elemBits p.et % 8
            .got ((List.range 8).map fun d => match pos.findIdx? (· == d) with
              | some j => (plainElem p.et (v / 2 ^ (off + j * elemBits p.et) % 2 ^ elemBits p.et)).scale (mx b)
              | none => (SElem.val (.fin ⟨false, 0, 0⟩)).scale (mx b)) n s
    else match s.engineRead w st.id a n with
      | .wait s => .later s
      | .fault c x s => .bad e c (BitVec.ofNat 64 x) s
      | .ok v s =>
        if p.et = .k8 then .got ((List.range 8).map fun j => (SElem.val (k.k8Weight p.slot v j)).scale (mx b)) 2 s
        else if elemBits p.et = 4 then
          .got [(plainElem p.et (if i0 % 2 = 1 then v / 16 else v % 16)).scale (mx b)] (1 - i0 % 2) s
        else .got [(plainElem p.et v).scale (mx b)] n s

/-- Reads the next entry of a gather's index list (R141), wherever it stands: R141 puts it in the local window and names no fault for another
place (log entry 59). -/
def State.fetchIndex (s : State) (core : Nat) (q : Nat) (st : Stream) (a : Word) (l : List Nat) : State :=
  let put := fun (s : State) (st : Stream) => s.modCore core fun k => { k with streams := mput q st k.streams }
  match s.engineRead (st.who (s.core core) core) st.id (wrap (a.toNat + 2 * l.length)) 2 with
  | .wait s => s
  | .fault c x s => put s { st with fault := some (l.length * st.pat.counts.headD 1, c, BitVec.ofNat 64 x) }
  | .ok v s => (put s { st with index := some (a, l ++ [v]) }).moved core q 2

/-- STREAM_REFILL: the next element of an input or side stream is read ahead of its pops (R140); of a group that a STRM.SKIP ended in, the
part that is left. -/
def execStreamRefill (core : Nat) (q : Q8) (s : State) : Host.Outcome State Fault Refusal :=
  .next (
    let k := s.core core
    match mfind q.val k.streams with
    | none => s
    | some st =>
      let p := st.pat
      let e := st.freed + st.buffer.length
      let put := fun (s : State) (st : Stream) => s.modCore core fun k => { k with streams := mput q.val st k.streams }
      if k.frozen || st.fault.isSome || !(p.dir == 0 || p.dir == 2) || p.total ≤ e || k.refillRoom p < st.buffer.length + p.group
          || (p.et == .k8 && k.cbkCmds.any fun g => g.slot == p.slot && decide (g.id < st.id)) then s
      else match (match st.index with
          | some (a, l) => if l.length < p.counts.getD 1 0 then some (a, l) else none
          | none => none) with
        | some (a, l) => s.fetchIndex core q.val st a l
        | none =>
          match s.fetchElem core st e with
          | .later s => s
          | .bad e c x s => put s { st with fault := some (e, c, x) }
          | .got l n s => ((put s { st with buffer := st.buffer ++ l.drop (e % p.group) }).modCore core (·.releaseSides st)).moved core q.val n)

/-! Codebooks. -/

def execCbkLoad (slot : Fin 4) (a : Reg) (s : State) : Host.Outcome State Fault Refusal :=
  perform (.cbkLoad slot a) (fun s =>
    let va := s.x a
    if va.toNat % 64 ≠ 0 then faulty .align s va
    else
      let t := s.me
      let (id, s) := s.fresh
      let clock := s.who.released
      .done (s.newTick.modMyCore fun k => { k with cbkCmds := k.cbkCmds ++
        [{ id := id, track := s.cur.2, ctx := t.ctxid, super := t.super, fpc := t.pc, slot := slot.val, addr := va, clock := clock }] })) s

/-- Reads bytes of a codebook load: those read go to the slot, up to a fault or a wait (R353). -/
def State.loadCodebook (s : State) (core : Nat) (g : CbkCmd) : Nat → State
  | 0 => s
  | n + 1 =>
    let done := 2048 - (n + 1)
    let upd := fun (s : State) (f : CbkCmd → CbkCmd) =>
      s.modCore core fun k => { k with cbkCmds := k.cbkCmds.map fun c => if c.id = g.id then f c else c }
    match s.engineRead (g.who (s.core core) core) g.id (wrap (g.addr.toNat + done)) 1 with
    | .wait s => upd s fun c => { c with done := done }
    | .fault c x s =>
      (upd s fun c => { c with done := done, faulted := true }).tellTrack core g.track
        { cause := c, addr := BitVec.ofNat 64 x, elem := BitVec.ofNat 64 done, fpc := g.fpc, engine := 1, unit := 8, cmd := g.id,
          ended := false }
    | .ok v s =>
      let s := (s.modCore core fun k => { k with cbk := mset 0 (g.slot * 2048 + done) (BitVec.ofNat 8 v) k.cbk }).moved core 17 1
      if n = 0 then
        (s.modCore core fun k => { k with cbkCmds := k.cbkCmds.filter fun c => c.id != g.id }).commandEnded core g.track
          (g.who (s.core core) core)
      else s.loadCodebook core g n

/-- CBK_LOAD_COMPLETE: the load runs when the streams and loads before it have done with the slot (R127, R352). -/
def execCbkLoadComplete (core cmd : Nat) (s : State) : Host.Outcome State Fault Refusal :=
  let k := s.core core
  .next (match k.cbkCmds.find? (·.id == cmd) with
    | none => s
    | some g =>
      if k.frozen || g.faulted || (k.cbkCmds.any fun c => c.slot == g.slot && decide (c.id < g.id))
          || (k.streams.any fun (_, st) => st.id < g.id && st.pat.et == .k8 && st.pat.slot == g.slot && st.pat.dir == 0
            && decide (st.freed + st.buffer.length < st.pat.total)) then s
      else s.loadCodebook core g (2048 - g.done))

end Sys2Proof.Machine
end

