-- ==== Sys2Proof/Machine/System.lean ====
section
/-!
DEFINITION. System registers (R331, R332, R419, R420), traps by instruction and the return from one (R235, R425, R426, R350), and the
system instructions CFLUSH, TLBINV and TRACE.MARK (R354, R422 to R424).
-/
namespace Sys2Proof.Machine

/-- GRIDOWN (R83). -/
def Track.gridown (t : Track) : Nat :=
  (span t.band t.bands).foldl (fun m b => m + 2 ^ b) 0 + (if t.bands = 0 then 0 else t.rowbase) * 256 + t.rows * 65536

/-- The value of a system register of a track (R331). -/
def State.sysRead (s : State) (core n reg : Nat) : Word :=
  let k := s.core core
  let t := k.track n
  let b := fun (v : Nat) => BitVec.ofNat 64 v
  if reg = 0 then b (t.tripid % 2 ^ 32)
  else if reg = 1 then t.levelidx
  else if reg = 2 then b t.ctxid
  else if reg = 3 then b core
  else if reg = 4 then b t.prio
  else if reg = 0x10 then b t.vl
  else if reg = 0x11 then b t.vlmax
  else if reg = 0x12 then t.sbase
  else if reg = 0x13 then t.srseed
  else if reg = 0x14 then t.arith
  else if reg = 0x15 then b (k.lane % 2 ^ 32 + t.held * 2 ^ 32)
  else if reg = 0x16 then b t.gridown
  else if reg = 0x17 then b t.fq.length
  else if 0x20 ≤ reg ∧ reg < 0x28 then s.mile core (reg - 0x20)
  else if reg = 0x30 then s.raceReg t.ctxid
  else if reg = 0x31 then b k.energy
  else if reg = 0x32 then b (s.time - k.stopped)
  else if reg = 0x33 then b s.time
  else if 0x40 ≤ reg ∧ reg < 0x50 then mget 0 (reg - 0x40) k.evc
  else if reg = 0x100 then t.tcause
  else if reg = 0x101 then t.taddr
  else if reg = 0x102 then t.tepc
  else if reg = 0x103 then t.tfpc
  else if reg = 0x104 then t.telem
  else if reg = 0x105 then b (t.level + 32 * t.acked.toNat + 64 * t.pmode.toNat)
  else if reg = 0x106 then t.tvec &&& ~~~3#64
  else if reg = 0x107 then t.tstack &&& ~~~63#64
  else if 0x108 ≤ reg ∧ reg < 0x110 then t.tsave.getD (reg - 0x108) 0
  else 0

/-- The reserved bits of a system register (R5). -/
def sysReserved (reg : Nat) : Word :=
  let from_ := fun (n : Nat) => BitVec.ofNat 64 (2 ^ 64 - 2 ^ n)
  if reg = 0 ∨ reg = 2 then from_ 32
  else if reg = 3 then from_ 9
  else if reg = 4 then from_ 2
  else if reg = 0x10 ∨ reg = 0x11 then from_ 8
  else if reg = 0x14 then from_ 32 ||| 0xCC08#64
  else if reg = 0x15 then from_ 36
  else if reg = 0x16 then from_ 24 ||| 0x80F0#64
  else if reg = 0x17 then from_ 4
  else if reg = 0x30 then 0x0000FFFE00000000#64
  else if reg = 0x31 then from_ 48
  else if 0x40 ≤ reg ∧ reg < 0x50 then from_ 57
  else if reg = 0x100 then from_ 12
  else if reg = 0x105 then from_ 7
  else if reg = 0x106 then 3#64
  else if reg = 0x107 then 63#64
  else 0

/-- The event codes of R298. -/
def eventCode (n : Nat) : Bool := n ≤ 4 || (0x10 ≤ n && n ≤ 0x26)

/-- R331: a user-mode access to the register raises PRIV. -/
def sysPriv (reg : Nat) (write : Bool) : Bool := 0x100 ≤ reg || (write && reg == 0x31)

/-- Whether a write is refused for its value (R420 step 3). -/
def sysIllegal (reg : Nat) (v : Word) : Bool :=
  (v &&& sysReserved reg) != 0 || (reg == 0x14 && 6 ≤ fld v 2 0) || (0x40 ≤ reg && reg < 0x50 && !eventCode (fld v 55 48))

/-- A trap register of the current level, which its frame holds (R232; log entry 7). -/
def Track.setTrapReg (t : Track) (f : Frame → Frame) : Track :=
  if 1 ≤ t.level then { t with frames := mupd {} t.level f t.frames } else t

/-- Writes a system register field by field (R6). -/
def State.sysWrite (s : State) (core n reg : Nat) (v : Word) : State :=
  let mod := fun (f : Track → Track) => s.modTrack core n f
  if reg = 0x12 then mod fun t => { t with sbase := v }
  else if reg = 0x13 then mod fun t => { t with srseed := v }
  else if reg = 0x14 then mod fun t => { t with arith := v }
  else if reg = 0x30 then
    let ctx := (s.track core n).ctxid
    let r := setFld (s.raceReg ctx) 31 0 (fld v 31 0)
    { s with racestat := mput ctx (if bitAt v.toNat 32 then setFld r 32 32 0 else r) s.racestat }
  else if reg = 0x31 then s.modCore core fun k => { k with energy := v.toNat }
  else if 0x40 ≤ reg ∧ reg < 0x50 then
    s.modCore core fun k =>
      let old := mget 0 (reg - 0x40) k.evc
      let r := setFld (setFld old 47 0 (fld v 47 0)) 55 48 (fld v 55 48)
      { k with evc := mput (reg - 0x40) (if bitAt v.toNat 56 then setFld r 56 56 0 else r) k.evc }
  else if reg = 0x100 then mod fun t => { t with tcause := v }.setTrapReg fun f => { f with tcause := v }
  else if reg = 0x101 then mod fun t => { t with taddr := v }.setTrapReg fun f => { f with taddr := v }
  else if reg = 0x102 then mod fun t => { t with tepc := v }.setTrapReg fun f => { f with tepc := v }
  else if reg = 0x103 then mod fun t => { t with tfpc := v }.setTrapReg fun f => { f with tfpc := v }
  else if reg = 0x104 then mod fun t => { t with telem := v }.setTrapReg fun f => { f with telem := v }
  else if reg = 0x106 then mod fun t => { t with tvec := v }
  else if reg = 0x107 then mod fun t => { t with tstack := v }
  else s

def execSysrd (d : Reg) (n : Fin 4096) (s : State) : Host.Outcome State Fault Refusal :=
  perform (.sysrd d n) (fun s =>
    if sysPriv n.val false && !s.me.super then faulty .priv s (BitVec.ofNat 64 n.val)
    else .done (s.setX d (s.sysRead s.cur.1 s.cur.2 n.val))) s

def execSyswr (n : Fin 4096) (a : Reg) (s : State) : Host.Outcome State Fault Refusal :=
  perform (.syswr n a) (fun s =>
    if sysPriv n.val true && !s.me.super then faulty .priv s (BitVec.ofNat 64 n.val)
    else if sysIllegal n.val (s.x a) then faulty .illegal s
    else .done (s.sysWrite s.cur.1 s.cur.2 n.val (s.x a))) s

/-- A trap that is the instruction's own effect: the next instruction is where TRAP.RET goes on (R425, R350). -/
def State.raiseTrap (s : State) (c : Cause) (addr elem : Word) : State :=
  let pc := s.me.pc
  s.syncFault { cause := c, addr := addr, elem := elem, fpc := some pc, epc := some (pc + 4), rollback := false }

def execTrap (a : Reg) (code : Fin 32) (s : State) : Host.Outcome State Fault Refusal :=
  perform (.trap a code) (fun s => .goes (s.raiseTrap .swTrap (s.x a) (BitVec.ofNat 64 code.val))) s

def execBrk (s : State) : Host.Outcome State Fault Refusal :=
  perform .brk (fun s => .goes (s.raiseTrap .brk 0 0)) s

def execTrapAck (s : State) : Host.Outcome State Fault Refusal :=
  perform .trapAck (fun s =>
    if !s.me.super then faulty .priv s
    else if s.me.level = 0 then faulty .illegal s
    else .done (s.modMe fun t => { t with acked := true }.setTrapReg fun f => { f with acked := true })) s

/-- TRAP.RET's own part, after the handler's strip has closed (R235 steps 2 to 5). -/
def trapRetBody (s : State) : Out :=
  let t := s.me
  if !t.super then faulty .priv s
  else if t.level = 0 then faulty .illegal s
  else if t.tepc.toNat % 4 ≠ 0 then faulty .align s t.tepc
  else
    let s := match t.resume with
      | some id => s.resumeEngine s.cur.1 id
      | none => s
    .goes (s.modMe Track.trapReturn)

/-- TRAP.RET (R235, R426): a misaligned TEPC raises ALIGN before the handler's strip closes, so that strip restarts. -/
def execTrapRet (s : State) : Host.Outcome State Fault Refusal :=
  let t := s.me
  if t.super && t.level ≠ 0 && t.tepc.toNat % 4 ≠ 0 && !t.strip.alone && !t.strip.closing then
    .next (conclude .trapRet t.vl t.pc (faulty .align s t.tepc) s)
  else perform .trapRet trapRetBody s

/-- Whether an address lies on a CXL port's device (R354). -/
def onCxl (pa : Nat) : Bool :=
  match area pa with
  | .cxl _ _ => true
  | _ => false

def execCflush (a : Reg) (s : State) : Host.Outcome State Fault Refusal :=
  perform (.cflush a) (fun s =>
    let va := s.x a
    if (windowOf va.toNat).isSome then .done s
    else if s.walkHeld s.who va.toNat .read then .wait .remote 0 s
    else match s.find s.who va.toNat .read with
      | .fault c s => faulty c s va
      | .ok pa s =>
        if !onCxl pa then .done s
        else if s.linkDown pa then faulty .linkDown s va
        else .wait .cflush (pa / 64) s) s

/-- CXL_FLUSH_ACK: the device says that the line is persistent, and CFLUSH completes; a port that is down ends it with LINKDOWN
(R354). -/
def execCxlFlushAck (core t : Nat) (s : State) : Host.Outcome State Fault Refusal :=
  resumeWait core t .cflush (fun i s =>
    match s.me.wait, i with
    | some w, .cflush a => if s.linkDown (w.obj * 64) then faulty .linkDown s (s.x a) else .done s
    | _, _ => .done s) s

/-- What TLBINV selects: a cached entry, by whether it is a leaf (R422). -/
def tlbSelects (m : TlbMode) (va : Nat) (ctx : Nat) (leaf : Bool) (e : TlbEntry) : Bool :=
  let isGlobal := bitAt e.entry.toNat 5
  match m with
  | .all => true
  | .context => e.ctx == ctx && !(leaf && isGlobal)
  | .page =>
    canonical va && (windowOf va).isNone && (e.ctx == ctx || (leaf && isGlobal))
      && (e.va / 2 ^ pageShift e.level == va / 2 ^ pageShift e.level || (leaf && e.level == 4 && e.va / 65536 == va / 65536))

/-- Marks the buffered stores that have used a selected translation: the TLBINV of track `id` waits for them (R423 step 3). -/
def StoreNote.mark (id : Nat) (sel : TlbEntry → Bool) (n : StoreNote) : StoreNote :=
  if n.uses.any sel then { n with removals := insertNat id n.removals } else n

/-- The same for all stores of a track, those that a trap's entry has left among them. -/
def Track.markUses (id : Nat) (sel : TlbEntry → Bool) (t : Track) : Track :=
  { t with
      strip := { t.strip with notes := t.strip.notes.map fun e => (e.1, e.2.mark id sel) }
      leftNotes := t.leftNotes.map fun e => (e.1, e.2.mark id sel) }

/-- Whether a track has a store that the TLBINV of track `id` waits for. -/
def Track.usesRemoved (t : Track) (id : Nat) : Bool := (t.strip.notes ++ t.leftNotes).any fun e => e.2.removals.contains id

/-- TLBINV's own part (R422, R423): step 2 once, and then the wait of step 3. -/
def tlbinvBody (a b : Reg) (mode : TlbMode) (s : State) : Out :=
  let id := s.cur.1 * 4 + s.cur.2
  let waits := fun (s : State) => s.cores.any fun (c, k) => k.tracks.any fun (n, t) => (c, n) != s.cur && t.usesRemoved id
  if !s.me.super then faulty .priv s
  else if s.me.hasIssued then if waits s then .wait .tlb 0 s else .done s
  else
    let sel := tlbSelects mode (s.x a).toNat (fld (s.x b) 31 0)
    let s := { s with
      cores := s.cores.map (fun (c, k) => (c, { k with
        tlb := k.tlb.filter (fun e => !sel true e), tracks := k.tracks.map fun (n, t) => (n, t.markUses id (sel true)) })),
      clusters := s.clusters.map (fun (c, k) => (c, { k with tlb := k.tlb.filter fun e => !sel true e })),
      dies := s.dies.map (fun (c, k) => (c, { k with walks := k.walks.filter fun e => !sel false e })) }
    if waits s then .wait .tlb 0 s else .done s

def execTlbinv (a b : Reg) (mode : TlbMode) (s : State) : Host.Outcome State Fault Refusal :=
  perform (.tlbinv a b mode) (tlbinvBody a b mode) s

def execTraceMark (a : Reg) (s : State) : Host.Outcome State Fault Refusal :=
  perform (.traceMark a) (fun s => .done (s.emitCore s.cur.1 0x18 0 s.me.ctxid (s.x a))) s

end Sys2Proof.Machine
end

