-- ==== Sys2Proof/Machine/Copies.lean ====
section
/-!
DEFINITION. Copy channels: CPY, CPY.ABORT and MILE.WAIT, and the channels' own moves (R144 to R150, R155, R357 to R359).
-/
namespace Sys2Proof.Machine

/-! The record. -/

/-- The copy record of 64 bytes read as one number; none when it breaks the table of R145, but for the overlap and the junction. -/
def copyOf (w : Nat) : Option CopyRec :=
  let b := fun (o n : Nat) => BitVec.ofNat 64 (recField w o n)
  let c : CopyRec :=
    { dst := b 0 8, src := b 8 8, length := recField w 0x10 4, rows := recField w 0x14 4, dstride := b 0x18 8, sstride := b 0x20 8,
      junction := b 0x28 8, slot := recField w 0x30 4 % 4, graph := bitAt (recField w 0x30 4) 2 }
  if c.length = 0 ∨ c.rows = 0 ∨ 2 ^ 40 ≤ c.length * c.rows ∨ (1 < c.rows ∧ sw c.dstride < c.length) ∨ 8 ≤ recField w 0x30 4
      ∨ recField w 0x34 12 ≠ 0 then none
  else some c

/-- Whether some integer `r < n` puts `r * step` in `[lo, hi]`; `step` is positive, or `n` is 1. -/
def reaches (n : Nat) (step lo hi : Int) : Bool :=
  if n ≤ 1 then decide (lo ≤ 0) && decide (0 ≤ hi)
  else
    let first := max 0 (-((-lo) / step))
    decide (first ≤ (n : Int) - 1) && decide (first * step ≤ hi)

/-- Whether the bytes read and those written overlap (R145): `out` is the destination's length where it is one run. -/
def copyOverlaps (c : CopyRec) (out : Nat) : Bool :=
  (List.range c.rows).any fun r =>
    let a : Int := (c.src.toNat : Int) + (r : Int) * (if c.rows ≤ 1 then 0 else sw c.sstride) - c.dst.toNat
    if c.graph then decide (0 < out) && decide (a < out) && decide (0 < a + c.length)
    else reaches c.rows (sw c.dstride) (a - c.length + 1) (a + c.length - 1)

/-! Issue. -/

/-- Commands of a channel that have not started: its queue holds four (R144). -/
def Chan.waiting (ch : Chan) : Nat := (ch.queue.filter fun c => !c.started).length

/-- The command of a track for a record. -/
def State.copyCmd (s : State) (c : Q8) (w : Nat) (r : CopyRec) : CopyCmd :=
  let t := s.me
  { id := 0, chan := c.val, track := s.cur.2, ctx := t.ctxid, super := t.super, fpc := t.pc, record := toBytes 64 w, cr := r }

/-- Puts a checked command in its channel's queue, or waits with its record while the queue is full (R144, R357). -/
def State.enqueueCopy (s : State) (i : Instr) (c : Q8) (cmd : CopyCmd) : Out :=
  let ch := mget {} c.val s.myCore.chans
  if 4 ≤ ch.waiting then
    .wait .copyRoom c.val ((s.hold i .copyRoom c.val).modMe fun t => { t with wait := t.wait.map fun w => { w with record := cmd.record } })
  else
    let (id, s) := s.fresh
    let cmd := { cmd with id := id, clock := s.who.released }
    let s := s.emitCore s.cur.1 1 c.val cmd.ctx cmd.cr.dst
    .done (s.newTick.modMyCore fun k => { k with chans := mput c.val { ch with queue := ch.queue ++ [cmd] } k.chans })

/-- CPY's own part (R357): its record is read and checked once, before it waits. -/
def cpyBody (c : Q8) (a : Reg) (s : State) : Out :=
  let va := s.x a
  let kept := match s.me.wait with
    | some w => w.record
    | none => []
  match copyOf (ofBytes kept) with
  | some r => s.enqueueCopy (.cpy c a) c (s.copyCmd c (ofBytes kept) r)
  | none =>
    if va.toNat % 64 ≠ 0 then faulty .align s va
    else (s.readRecord va.toNat 8).out fun w s =>
      match copyOf w with
      | none => faulty .illegal s va
      | some r =>
        let cmd := s.copyCmd c w r
        if copyOverlaps r (s.outLen s.cur.1 cmd) then faulty .illegal s va
        else if r.junction.toNat % 64 ≠ 0 then faulty .align s r.junction
        else s.enqueueCopy (.cpy c a) c cmd

def execCpy (c : Q8) (a : Reg) (s : State) : Host.Outcome State Fault Refusal := perform (.cpy c a) (cpyBody c a) s

/-- CPY_QUEUE_ROOM: a waiting CPY finds room. -/
def execCpyQueueRoom (core t : Nat) (s : State) : Host.Outcome State Fault Refusal :=
  resumeWait core t .copyRoom (fun i s => match i with
    | .cpy c a => cpyBody c a s
    | _ => .done s) s

/-! Progress. -/

/-- Changes the command at the head of a queue, of a channel. -/
def modFirst (f : CopyCmd → CopyCmd) : List CopyCmd → List CopyCmd
  | g :: t => f g :: t
  | [] => []
def State.modHead (s : State) (core c : Nat) (f : CopyCmd → CopyCmd) : State :=
  s.modCore core fun k => { k with chans := mupd {} c (fun ch => { ch with queue := modFirst f ch.queue }) k.chans }

/-- Suspends a channel's active command, or ends it (R144, R155), when its nodes' flags reach its issuer (R167), and holds its record. -/
def State.suspendCopy (s : State) (core c : Nat) (g : CopyCmd) (cause : Cause) (addr off : Nat) (ends : Bool) : State :=
  let s := s.emitCore core 3 c g.ctx (s.mile core c)
  let s := if ends then s.deliverFlags core g.track g.flags else s
  let told : Word × Word × Word := (causeWord cause (some 2), BitVec.ofNat 64 addr, streamElem c off)
  (s.modHead core c fun g => { g with faulted := true, ending := ends, record3 := some told }).tellTrack core g.track
    { cause := cause, addr := told.2.1, elem := told.2.2, fpc := g.fpc, engine := 2, unit := c, cmd := g.id, ended := ends }

/-- Runs a part of a channel's active command. -/
def State.onHead (s : State) (core : Nat) (c : Q8) (f : CopyCmd → State) : Host.Outcome State Fault Refusal :=
  match (mget {} c.val (s.core core).chans).queue with
  | [] => .next s
  | g :: _ => if (s.core core).frozen || g.faulted then .next s else .next (f g)

/-- An XF.LOAD of the core's cluster waits to install into the slot (R160 step 4); one of a frozen core has yet to begin again (R444). -/
def State.slotAwaited (s : State) (cluster slot : Nat) : Bool :=
  (span (16 * cluster) 16).any fun c => !(s.core c).frozen && (span 0 4).any fun t => match (s.track c t).wait with
    | some w => w.kind == .xfload && w.obj == slot
    | none => false

/-- Whether a command through a graph fails at its start (R164). -/
def State.graphBad (s : State) (core : Nat) (g : CopyCmd) : Bool :=
  match s.slotGraph core g.cr.slot with
  | none => true
  | some gr =>
    gr.ctx != g.ctx || (gr.nodes.zip (graphSizes g.total gr.nodes [])).any fun (n, e) =>
      decide (2 ^ 32 ≤ e.1) || decide (2 ^ 32 ≤ e.2.1)
        || (n.in0 == 16 && elemBits n.itype != 4 && g.total % n.inUnits != 0)

/-- COPY_START: the head of a channel's queue becomes its active command. Through a graph it waits its turn among the core's commands
of the slot, and behind an XF.LOAD (R160, R164, R165). It reads the remote map here (R278), and here, where R167 takes its nodes' dynamic
rounding mode, the SRSEED of their draws (R120 names no moment; log entry 61). -/
def execCopyStart (core : Nat) (c : Q8) (s : State) : Host.Outcome State Fault Refusal :=
  s.onHead core c fun g =>
    let t := s.track core g.track
    let start := s.modHead core c.val fun g => { g with started := true, rm := resolveRm .dyn t.arith, seed := t.srseed, map := s.remoteMap }
    if g.started then s
    else if !g.cr.graph then start
    else if s.slotAwaited (clusterOf core) g.cr.slot
        || (s.core core).copies.any fun o => o.cr.graph && o.cr.slot == g.cr.slot && decide (o.id < g.id) then s
    else if s.graphBad core g then s.suspendCopy core c.val g .illegal 0 0 false
    else match s.slotGraph core g.cr.slot with
      | some gr => start.modHead core c.val fun g => { g with nodes := gr.nodes.map (fun _ => {}), graph := some gr }
      | none => start

/-- Whether the copy writes every byte of a line (R182). -/
def CopyCmd.covers (c : CopyCmd) (line : Nat) : Bool :=
  (span (64 * line) 64).all fun v => (indexAt c.cr.dst c.cr.dstride c.cr.length c.cr.rows v).isSome

/-- The value of a source byte: where an earlier byte of the command was written to it, either that or what it was (R145). -/
def aliasByte (c : CopyCmd) (pa : Option Nat) (now : Nat) : Nat :=
  match pa.bind (mfind · c.orig) with
  | some old => if Config.aliasOld c.id c.done then old.toNat else now
  | none => now

/-- `n` source bytes, read as the number `v`, with the aliased ones chosen. -/
def State.aliasBytes (s : State) (w : Who) (g : CopyCmd) (v : Nat) (n : Nat) : Nat :=
  if g.orig.isEmpty then v
  else ofBytes ((toBytes n v).zipIdx.map fun b => BitVec.ofNat 8 (aliasByte g (s.peek w (g.srcAddr (g.done + b.2)) .read) b.1.toNat))

/-- Bytes that the command writes next at once: an aligned granule that lies within its row whole (R178), or one byte. -/
def CopyCmd.piece (g : CopyCmd) : Nat := if g.dstAddr g.done % 8 = 0 ∧ g.done % g.cr.length + 8 ≤ g.cr.length then 8 else 1

/-- The cause and the ending of a fault at a destination, `off` bytes on (R155). -/
def State.dstFault (s : State) (core c : Nat) (g : CopyCmd) (cause : Cause) (va off : Nat) : State :=
  if cause = .linkDown then
    let w := g.who (s.core core) core
    let len := s.outLen core g
    let poisoned := (List.range (len - g.done)).foldl (fun s i => match s.peek w (g.dstAddr (g.done + i)) .write with
      | some pa => s.setPoison pa true
      | none => s) s
    poisoned.suspendCopy core c g cause (g.milestone len) g.done true
  else s.suspendCopy core c g cause va (g.done + off) false

/-- A fault at a source: a link that is lost ends the command (R276, R277), with LINKDOWN at its milestone. -/
def State.srcFault (s : State) (core c : Nat) (g : CopyCmd) (cause : Cause) (va off : Nat) : State :=
  if cause = .linkDown then s.suspendCopy core c g cause (g.milestone (s.outLen core g)) g.done true
  else s.suspendCopy core c g cause va (g.done + off) false

/-- Moves one piece: the state after it, and whether it moved. A write to another node counts once it is acknowledged (R155), and the last of
a line that the copy writes whole clears its poison. -/
def State.copyPiece (s : State) (core c : Nat) (g : CopyCmd) : State × Bool :=
  let w := g.who (s.core core) core
  let n := g.piece
  let sva := g.srcAddr g.done
  let dva := g.dstAddr g.done
  let whole := g.covers (dva / 64) && (dva + n) % 64 == 0
  let moved := fun (s : State) (orig : List Host.Cell) =>
    s.modHead core c fun g => { g with done := g.done + n, taken := g.done + n, orig := orig }
  match s.pieceSent core g.id with
  | some r =>
    if r.answer.isSome then
      let s := (moved (s.endRels r.pa n) g.orig).asked core (writeUnit g.id)
      (if whole && s.poisoned r.pa then s.setPoison r.pa false else s, true)
    else (s, false)
  | none =>
  match s.engineRead w g.id sva n with
  | .wait s => (s, false)
  | .fault cause a s => (s.srcFault core c g cause a (wrap ((a : Int) - sva)), false)
  | .ok v s =>
    let v := s.aliasBytes w g v n
    match s.engineChecks w g.covers dva n with
    | .wait s => (s, false)
    | .fault cause a s => (s.dstFault core c g cause a (wrap ((a : Int) - dva)), false)
    | .ok pas s =>
      let orig := pas.foldl (fun m pa => if mhas pa m then m else mput pa (s.byte pa) m) g.orig
      match area (pas.headD 0) with
      | .remote _ _ => ((s.ask core (writeUnit g.id) (pas.headD 0) 3 (toBytes n v) w.map).2, false)
      | _ => ((moved s orig).engineWrites w whole pas v, true)

/-- The trace port hears of a milestone that has crossed a 4 KiB boundary since `before`. -/
def State.noteMile (s : State) (core c ctx : Nat) (before : Word) : State :=
  let now := s.mile core c
  if before.toNat / 4096 < now.toNat / 4096 then s.emitCore core 4 c ctx now else s

/-- Whether a track's CPY.ABORT or EXIT waits for a channel's writes in flight: the channel sends no more of them (R150). -/
def State.stopping (s : State) (core c : Nat) (g : CopyCmd) : Bool :=
  match (s.track core g.track).wait with
  | some w => w.kind == .abort && (w.obj == c || w.obj == 8)
  | none => false

/-- Moves pieces, up to `n` bytes in all. -/
def State.copyBytes (s0 : State) (core c : Nat) : Nat → Nat → State
  | 0, _ => s0
  | fuel + 1, n =>
    match (mget {} c (s0.core core).chans).queue with
    | [] => s0
    | g :: _ =>
      if g.faulted || g.total ≤ g.done || n < g.piece || (s0.stopping core c g && (s0.pieceSent core g.id).isNone) then s0
      else match s0.copyPiece core c g with
        | (s, true) => ((s.moved core (8 + c) g.piece).noteMile core c g.ctx (s0.mile core c)).copyBytes core c fuel (n - g.piece)
        | (s, false) => s

/-- COPY_TRANSFER: the active command moves some of the bytes of a cycle, 64 at most (R146), whole granules at once (R178). -/
def execCopyTransfer (core : Nat) (c : Q8) (bytes : Nat) (s : State) : Host.Outcome State Fault Refusal :=
  s.onHead core c fun g => if g.started && !g.cr.graph then s.copyBytes core c.val (min bytes 64) (min bytes 64) else s

/-- COPY_COMPLETE: the junction receives the bytes written, once all are performed, and the command leaves its channel (R146, R167). -/
def execCopyComplete (core : Nat) (c : Q8) (s : State) : Host.Outcome State Fault Refusal :=
  s.onHead core c fun g =>
    let len := s.outLen core g
    let w := g.who (s.core core) core
    if !g.started || decide (g.done < len) || (g.cr.graph && (!s.sentLanded core || g.nodes.any fun n => !n.ended))
        || s.stopping core c.val g then s
    else match s.engineJct w g.id g.cr.junction len with
      | .wait s => s
      | .fault cause a s => s.suspendCopy core c.val g cause a (g.cr.length * g.cr.rows) false
      | .ok _ s =>
        let s := s.emitCore core 2 c.val g.ctx (BitVec.ofNat 64 len)
        (s.endHead core c.val g (BitVec.ofNat 64 (g.limit len))).deliverFlags core g.track g.flags

/-! MILE.WAIT. -/

/-- The waiter acquires the channel's writes below the milestone that it observes (R149, R359): of each command, of those that have ended too,
what it has written below that address. -/
def State.takeMile (s : State) (c : Nat) : State :=
  let ch := mget {} c s.myCore.chans
  let m := (s.mile s.cur.1 c).toNat
  (ch.ended ++ (ch.queue.take 1).filter (·.started)).foldl (fun s g =>
    if g.below m = 0 then s else s.learn (mput g.id (g.below m) g.clock)) s

/-- MILE.WAIT's own part (R149, R400): `seq` bounds the commands issued before it. -/
def mileBody (c : Q8) (v : Word) (s : State) : Out :=
  let seq := match s.me.wait with
    | some w => w.seq
    | none => s.nextId
  let ch := mget {} c.val s.myCore.chans
  if v.toNat ≤ (s.mile s.cur.1 c.val).toNat || ch.queue.all fun g => decide (seq < g.id) then .done (s.takeMile c.val)
  else .wait .milestone c.val s

def execMileWait (c : Q8) (a : Reg) (s : State) : Host.Outcome State Fault Refusal :=
  perform (.mileWait c a) (fun s => mileBody c (s.x a) s) s

def execMileWaitReturn (core t : Nat) (s : State) : Host.Outcome State Fault Refusal :=
  resumeWait core t .milestone (fun i s => match i with
    | .mileWait c a => mileBody c (s.x a) s
    | _ => .done s) s

/-! CPY.ABORT. -/

/-- What an aborted command leaves beyond its milestone (R150): in memory, each granule as it was or as the copy would make it. Where the copy
goes through a graph, or its source or destination is another node's, they stay as they were (DESIGN CHOICE, log entry 27). -/
def State.abortRest (s : State) (core : Nat) (g : CopyCmd) : State :=
  if !g.started || g.cr.graph then s
  else
    let w := g.who (s.core core) core
    (List.range (g.total - g.done)).foldl (fun s j =>
      let i := g.done + j
      match s.peek w (g.dstAddr i) .write, s.peek w (g.srcAddr i) .read with
      | some d, some r => match area d with
        | .scratch _ _ => s
        | .remote _ _ => s
        | _ => match area r with
          | .remote _ _ => s
          | _ => if Config.abortNew g.id (g.dstAddr i / 8) then s.engineWrite w d (s.byte r).toNat 255 false else s
      | _, _ => s) s

/-- A piece that another node has acknowledged counts before its command is ended (R150). -/
def State.landPiece (s : State) (core n c : Nat) : State :=
  match (mget {} c (s.core core).chans).queue with
  | [] => s
  | g :: _ => if g.track == n && !g.faulted && (s.pieceSent core g.id).isSome then (s.copyPiece core c g).1 else s

/-- Ends the commands of a track on a channel, as an abort does: MILE stays at the active one's milestone, their records go, and their nodes'
flags reach the issuer (R167). -/
def State.abortCopies (s : State) (core n c : Nat) : State :=
  let s := s.landPiece core n c
  let ch := mget {} c (s.core core).chans
  let mine := ch.queue.filter fun g => g.track == n
  let mile := s.mile core c
  let s := if mine.isEmpty then s else s.emitCore core 3 c (s.track core n).ctxid mile
  let s := mine.foldl (fun s g => s.abortRest core g) s
  let release := mine.foldl (fun r g => Clock.join r (g.who (s.core core) core).released) []
  let left : Chan :=
    { queue := ch.queue.filter (fun g => g.track != n), mile := mile, ended := ch.ended ++ (mine.filter (·.started)).map (·.spent) }
  let s := (mine.filter fun g => !g.ending).foldl (fun s g => s.deliverFlags core n g.flags) s
  let s := s.modCore core fun k => { k with chans := mput c left k.chans }
  s.modTrack core n fun t => { t with ended := t.ended.join release, records := t.records.filter fun r => !(mine.any fun g => g.id == r.cmd) }

/-- CPY.ABORT (R150, R359): the active command's writes in flight land first. -/
def execCpyAbort (d : Reg) (c : Q8) (s : State) : Host.Outcome State Fault Refusal :=
  perform (.cpyAbort d c) (fun s =>
    if s.writeInFlight s.cur.1 s.cur.2 c.val then .wait .abort c.val s
    else
    let n := ((mget {} c.val s.myCore.chans).queue.filter fun g => g.track == s.cur.2).length
    .done ((s.abortCopies s.cur.1 s.cur.2 c.val).setX d (BitVec.ofNat 64 n))) s

/-! Targets and links. -/

/-- Whether the active command's destination lies on an offload target (R155, R276). -/
def State.onOffload (s : State) (core : Nat) (g : CopyCmd) : Bool :=
  match s.peek (g.who (s.core core) core) (g.dstAddr g.done) .write with
  | some pa => match area pa with
    | .cxl p _ => Config.cxlOffload p
    | _ => false
  | none => false

/-- OFFLOAD_TARGET_FULL: the target has accepted the bytes written so far and takes no more (R155). -/
def execOffloadTargetFull (core : Nat) (c : Q8) (accepted : Nat) (s : State) : Host.Outcome State Fault Refusal :=
  s.onHead core c fun g =>
    if g.started && g.done == accepted && decide (g.done < s.outLen core g) && s.onOffload core g then
      s.suspendCopy core c.val g .targetFull (g.milestone (s.outLen core g)) g.done true
    else s

/-- CXL_RETRAIN_FAIL: the link is down from now on (R276, R281). -/
def execCxlRetrainFail (port : Nat) (s : State) : Host.Outcome State Fault Refusal :=
  .next { s with cxlDown := insertNat port s.cxlDown }

end Sys2Proof.Machine
end

