-- ==== Sys2Proof/Machine/Debug.lean ====
section
/-!
DEFINITION. The per-core debug block (R283 to R297): halting, stepping and access to state; stall reasons, the sampler and the lag table;
the trace window and the trace port's own moves (R299 to R302).
-/
namespace Sys2Proof.Machine

/-! Halting and stepping (R285 to R287, R293). -/

/-- A halt is requested of a track. -/
def Track.requestHalt (t : Track) (why : Nat) : Track := if t.halted || t.haltReq then t else { t with haltReq := true, haltWhy := why }

def Track.resumeHalt (t : Track) : Track := if t.halted then { t with halted := false, why := 0 } else t
def Track.stepHalt (t : Track) : Track := if t.halted then { t with halted := false, why := 0, stepping := true } else t

/-- Requests to a track through its DBGCTL: a frozen core's tracks keep their state, so resume and step change nothing there (R248). -/
def State.debugHalt (s : State) (core t : Nat) : State := s.modTrack core t (·.requestHalt 1)
def State.debugResume (s : State) (core t : Nat) : State := if (s.core core).frozen then s else s.modTrack core t (·.resumeHalt)
def State.debugStep (s : State) (core t : Nat) : State := if (s.core core).frozen then s else s.modTrack core t (·.stepHalt)

def execDbgctlHalt (core t : Nat) (s : State) : Host.Outcome State Fault Refusal := .next (s.debugHalt core t)
def execDbgctlResume (core t : Nat) (s : State) : Host.Outcome State Fault Refusal := .next (s.debugResume core t)
def execDbgctlStep (core t : Nat) (s : State) : Host.Outcome State Fault Refusal := .next (s.debugStep core t)

/-- GANG_HALT_REQUEST: a request reaches a member of the gang (R293). -/
def execGangHaltRequest (core t : Nat) (s : State) : Host.Outcome State Fault Refusal :=
  if s.gangHalts.contains (core, t) then
    .next ({ s with gangHalts := s.gangHalts.erase (core, t) }.modTrack core t (·.requestHalt 5))
  else .next s

/-! Reading and writing state (R245, R294). -/

/-- DREGSEL and its fields. -/
def Core.dregsel (k : Core) : Word := mget 0 0x40 k.dbg
def dregTrack (sel : Word) : Nat := fld sel 1 0
def dregSpace (sel : Word) : Nat := fld sel 4 2
def dregIndex (sel : Word) : Nat := fld sel 29 16

/-- Registers that DREGDATA may not write: RO ones (R331). -/
def sysReadOnly (reg : Nat) : Bool :=
  !(reg == 0x12 || reg == 0x13 || reg == 0x14 || reg == 0x30 || reg == 0x31 || (0x40 ≤ reg && reg < 0x50) || (0x100 ≤ reg && reg < 0x105)
    || reg == 0x106 || reg == 0x107)

/-- The value a debugger read gives; none where it is refused. -/
def State.dregValue (s : State) (core : Nat) (sel : Word) : Option Word :=
  let k := s.core core
  let n := dregTrack sel
  let t := k.track n
  let i := dregIndex sel
  let cell := BitVec.ofNat 64 (k.cell (i / 128 % 128) (i % 128)).toNat
  match dregSpace sel with
  | 0 => if t.halted && decide (i < 32) then some (t.getX (Fin.ofNat 32 i)) else none
  | 1 => if t.halted && decide (i < 8) then some (BitVec.ofNat 64 (t.getM (Fin.ofNat 8 i)).toNat) else none
  | 2 => if t.halted && decide (i < 8) then some (BitVec.ofNat 64 ((t.getM (Fin.ofNat 8 i)).toNat / 2 ^ 64)) else none
  | 3 => if t.halted && sysregNamed i then some (s.sysRead core n i) else none
  | 4 => some cell
  | 5 => some (cell ||| if k.busy (i / 128 % 128) then 0x8000000000000000#64 else 0#64)
  | _ => if t.halted && dregSpace sel == 6 then some t.pc else none

/-- A debugger write of a scalar register cancels the write-back of loads that are pending for it (R245). -/
def Track.debugX (t : Track) (r : Reg) (v : Word) : Track :=
  let hit := t.pending.any fun p => p.reg == r && !p.cancelled
  let t := t.setX r v
  if hit then { t with cancelled := true, pending := t.pending.map fun p => if p.reg = r then { p with cancelled := true } else p } else t

/-- A mask register with one half replaced. -/
def halfMask (m : Mask128) (high : Bool) (v : Word) : Mask128 :=
  let n := m.toNat
  BitVec.ofNat 128 (if high then v.toNat * 2 ^ 64 + n % 2 ^ 64 else n / 2 ^ 64 * 2 ^ 64 + v.toNat)

/-- What a debugger write does; none where it is refused. -/
def State.dregPut (s : State) (core : Nat) (sel v : Word) : Option State :=
  let k := s.core core
  let n := dregTrack sel
  let t := k.track n
  let i := dregIndex sel
  let mod := fun (f : Track → Track) => some (s.modTrack core n f)
  match dregSpace sel with
  | 0 => if t.halted && decide (0 < i) && decide (i < 32) then mod (·.debugX (Fin.ofNat 32 i) v) else none
  | 1 => if t.halted && decide (0 < i) && decide (i < 8) then mod fun t => t.setM (Fin.ofNat 8 i) (halfMask (t.getM (Fin.ofNat 8 i)) false v)
    else none
  | 2 => if t.halted && decide (0 < i) && decide (i < 8) then mod fun t => t.setM (Fin.ofNat 8 i) (halfMask (t.getM (Fin.ofNat 8 i)) true v)
    else none
  | 3 => if t.halted && sysregNamed i && !sysReadOnly i && !sysIllegal i v then some (s.sysWrite core n i v) else none
  | 4 => some (s.modCore core fun k => k.setCell (i / 128 % 128) (i % 128) (BitVec.ofNat 40 v.toNat))
  | 6 => if t.halted && fld v 1 0 == 0 then mod fun t => { t with pc := v } else none
  | _ => none

/-- An access to grid cells of a busy row, which waits. -/
def Core.dregBusy (k : Core) (sel : Word) : Bool := dregSpace sel == 4 && k.busy (dregIndex sel / 128 % 128)

/-- What a host core's load gives it. -/
def State.hostGets (s : State) (h : Nat) (v : Word) : State := { s with hostValues := mput h v s.hostValues }

/-- The answer to an access: DREGDATA holds it, and a host core whose load it is gets the bytes that it reads. -/
def State.dregAnswer (s : State) (core : Nat) (a : DbgAcc) (v : Word) : State :=
  let s := s.modCore core fun k => { k with dbg := mput 0x48 v k.dbg }
  match a.host with
  | none => s
  | some (h, byte, n) => s.hostGets h (BitVec.ofNat 64 (v.toNat / 2 ^ (8 * byte) % 2 ^ (8 * n)))

/-- A refused access reads 0 and sets DBGSTAT.refused (R294). -/
def State.dregRefuse (s : State) (core : Nat) (a : DbgAcc) : State :=
  (s.dregAnswer core a 0).modTrack core (dregTrack a.sel) fun t => { t with refused := true }

/-- Performs an access that need not wait. -/
def State.dregNow (s : State) (core : Nat) (a : DbgAcc) : State :=
  match a.write with
  | none => (match s.dregValue core a.sel with
    | none => s.dregRefuse core a
    | some v => s.dregAnswer core a v)
  | some v => match s.dregPut core a.sel v with
    | none => s.dregRefuse core a
    | some s => s.dregAnswer core a v

/-- Whether an access waits: at a busy row, while the core is frozen, and behind an older one. -/
def State.dregWaits (s : State) (core : Nat) (sel : Word) : Bool := (s.core core).frozen || (s.core core).dregBusy sel

/-- An access to DREGDATA (R245, R294); a peek read does not wait. -/
def State.dregAccess (s : State) (core : Nat) (write : Option Word) (host : Option (Nat × Nat × Nat)) : State :=
  let a : DbgAcc := { sel := (s.core core).dregsel, write := write, host := host }
  if dregSpace a.sel ≠ 5 && (s.dregWaits core a.sel || !(s.core core).debugWait.isEmpty) then
    s.modCore core fun k => { k with debugWait := k.debugWait ++ [a] }
  else s.dregNow core a

/-- The oldest access that waits is performed once it need not wait any more. -/
def State.dregRetry (s : State) (core : Nat) : State :=
  match (s.core core).debugWait with
  | [] => s
  | a :: rest =>
    if s.dregWaits core a.sel then s else (s.modCore core fun k => { k with debugWait := rest }).dregNow core a

def execDregdataRead (core : Nat) (s : State) : Host.Outcome State Fault Refusal := .next (s.dregAccess core none none)
def execDregdataWrite (core : Nat) (v : Word) (s : State) : Host.Outcome State Fault Refusal := .next (s.dregAccess core (some v) none)

/-- DEBUG_ACCESS_TIMEOUT: a grid access that has waited its 65,536 cycles at a busy row is refused (R245). -/
def execDebugAccessTimeout (core : Nat) (s : State) : Host.Outcome State Fault Refusal :=
  let k := s.core core
  match k.debugWait with
  | [] => .next s
  | a :: rest =>
    if 65536 ≤ a.cycles && k.dregBusy a.sel then .next ((s.modCore core fun k => { k with debugWait := rest }).dregRefuse core a)
    else .next s

/-! Stall reasons (R295). -/

/-- The reason code of a wait. -/
def WaitKind.reason : WaitKind → Nat
  | .busyRow => 3 | .gwait => 3 | .exit => 3 | .release => 3
  | .heldByte => 4 | .milestone => 4 | .abort => 4
  | .refill => 5 | .link => 5 | .stop => 5
  | .gridRoom => 6 | .copyRoom => 6 | .graphSlot => 6 | .xfload => 6
  | .tlb => 8
  | .remote => 9 | .cflush => 9 | .frozenCore => 9
  | .crossTake => 10 | .crossPost => 10
  | .junction => 11 | .barrier => 11 | .barrierNext => 11 | .meetSlot => 11 | .meetArrive => 11 | .meetWait => 11 | .vwait => 11
  | .freeze => 11
  | .yield => 12 | .band => 13 | .overlap => 14

/-- Why a track does not issue. -/
def State.stallOf (s : State) (core n : Nat) : Nat :=
  let t := s.track core n
  if t.trip.isNone || t.escalated || t.halted then 15
  else match t.wait with
    | some w => w.kind.reason
    | none =>
      if t.strip.closing then 14
      else if s.awaitsLoad core n then 9 else if 2 ≤ (s.core core).issued.length then 1 else 0

/-! The sampler (R296). -/

/-- SAMPLER_TICK: every 2^p cycles a record of the next track goes into the ring. -/
def execSamplerTick (core : Nat) (s : State) : Host.Outcome State Fault Refusal :=
  let k := s.core core
  let ctl := mget 0 0x1C0 k.dbg
  if !bitAt ctl.toNat 0 || s.time % 2 ^ fld ctl 5 1 ≠ 0 then .next s
  else
    let n := k.smphead % 4
    let t := k.track n
    let did := k.hasIssued n
    let at_ := fld (mget 0 0x1C8 k.dbg) 51 12 * 4096 + k.smphead % 2 ^ fld ctl 10 6 * 16
    let head := if t.trip.isNone then 0 else t.pc.toNat + 2 ^ 64 * (t.tripid % 2 ^ 32)
    let why := if did then 128 else s.stallOf core n
    .next ((s.setBytes at_ 16 (head + 2 ^ 96 * n + 2 ^ 104 * why)).modCore core fun k => { k with smphead := (k.smphead + 1) % 2 ^ 32 })

/-! The lag table (R297). -/

/-- The bytes that a copy still has to write below a scratchpad offset: between its milestone and a byte awaited. -/
def State.copyLag (s : State) (core : Nat) (g : CopyCmd) (o : Nat) : Nat :=
  ((List.range o).filter (s.copyWrites (s.core core) core g (s.outLen core g))).length

/-- The command that keeps a row busy, of the core or a ROWSEND of another, with the OPA updates that have not landed. -/
def State.rowLag (s : State) (core : Nat) (rows : List Nat) : Option (Word × Nat) :=
  let k := s.core core
  let left := fun (g : GridCmd) => match g.op with
    | .opa _ _ _ _ _ u _ _ _ _ => u - g.done
    | _ => 0
  match k.gq.find? fun g => rows.any g.keeps with
  | some g => some (g.fpc, left g)
  | none => (k.incoming.find? fun i => i.rows.any rows.contains).bind fun i =>
    ((s.core i.src).gq.find? fun g => g.id == i.cmd).map fun g => (g.fpc, 0)

/-- The producer of a stalled track and the lag behind it (R297). A wait for another node's answer is the load's own. -/
def State.lagOf (s : State) (core n : Nat) : Option (Word × Nat) :=
  let k := s.core core
  let t := k.track n
  match t.wait with
  | none => (t.pending.find? fun p => match s.nextInstr core n with
    | some i => { t with pending := [p] }.awaitsLoad i
    | none => false).map fun p => (p.pc, 0)
  | some w =>
    if w.kind.reason = 3 then
      match s.rowLag core (t.awaitedRows w) with
      | some x => some x
      | none => if w.kind = .exit then (k.copies.find? fun g => g.track == n).map fun g => (g.fpc, 0) else none
    else if w.kind = .heldByte then
      (k.copies.find? fun g => s.copyWrites k core g (s.outLen core g) t.awaited).map fun g => (g.fpc, s.copyLag core g t.awaited)
    else if w.kind = .milestone then
      ((mget {} w.obj k.chans).queue.head?).map fun g => (g.fpc, match w.instr with
        | .mileWait _ a => (t.getX a).toNat - (s.mile core w.obj).toNat
        | _ => 0)
    else if w.kind = .stop then (k.gq.find? fun g => match g.op with
      | .opa _ _ _ qa qb _ _ _ _ _ => qa.val == w.obj || qb.val == w.obj
      | _ => false).map fun g => (g.fpc, 0)
    else if w.kind.reason = 5 then
      (mfind w.obj k.streams).map fun st => (st.fpc, st.popSize t.vl - (st.buffer.length - (st.pos - st.freed)))
    else if w.kind.reason = 9 then some (t.pc, 0)
    else none

/-- The entry that a pair takes: its own, a free one, or the one with the fewest cycles; and whether one is replaced. -/
def lagSlot (l : List (Nat × LagEntry)) (p c : Word) : Nat × Bool :=
  match l.find? fun e => e.2.producer == p && e.2.consumer == c with
  | some e => (e.1, false)
  | none => match (span 0 64).find? fun i => !mhas i l with
    | some i => (i, false)
    | none => ((l.foldl (fun (b : Nat × Nat) e => if e.2.cycles < b.2 then (e.1, e.2.cycles) else b) (0, 2 ^ 64)).1, true)

/-- Charges a stalled cycle of a track. -/
def State.chargeLag (s : State) (core n : Nat) : State :=
  let k := s.core core
  let why := s.stallOf core n
  if k.frozen || k.hasIssued n || !(why == 3 || why == 4 || why == 5 || why == 7 || why == 9) then s
  else match s.lagOf core n with
    | none => s
    | some (p, lag) => s.modCore core fun k =>
      let c := (k.track n).pc
      let (i, replaced) := lagSlot k.lag p c
      let old := match mfind i k.lag with
        | some e => if e.producer = p && e.consumer = c then some e else none
        | none => none
      let e : LagEntry := ⟨p, c, min (((old.map (·.cycles)).getD 0) + 1) (2 ^ 32 - 1), min (max ((old.map (·.lag)).getD 0) lag) 65535, why⟩
      { k with lag := mput i e k.lag, lagLost := if replaced then min (k.lagLost + 1) (2 ^ 32 - 1) else k.lagLost }

/-- LAGCTL_CLEAR. -/
def Core.clearLag (k : Core) : Core := { k with lag := [], lagLost := 0 }
def execLagctlClear (core : Nat) (s : State) : Host.Outcome State Fault Refusal := .next (s.modCore core (·.clearLag))

/-! The trace window (R299, R300). -/

def windowBase (die : Nat) : Nat := 0xFE0000000 + die * 0x800000

/-- Whether a die's window records. -/
def Die.records (d : Die) : Bool := bitAt (d.reg 0x800).toNat 0 && !(d.twtriggered && d.twleft == 0)

/-- The oldest track of a core that holds a trip. -/
def Core.oldest (k : Core) : Option Nat :=
  ((k.tracks.filter fun e => e.2.trip.isSome).foldl (fun (b : Option (Nat × Nat)) e => match b with
    | none => some (e.1, e.2.tripid)
    | some x => if e.2.tripid < x.2 then some (e.1, e.2.tripid) else some x) none).map (·.1)

/-- The element that a track's waiting instruction waits at, where it has elements (R300). -/
def Track.elemAwaited (t : Track) : Option Nat :=
  match t.wait with
  | some w => if groupsOf w.instr 128 = 0 then none else t.awaitedElem
  | none => none

/-- The record of one slot of core `q` of the recorded cluster, and the anchor it may log. -/
def State.recordSlot (s : State) (die core q slot at_ : Nat) : State :=
  let k := s.core core
  match k.issued[slot]? with
  | some (n, pc) =>
    let near := match mfind n k.anchors with
      | some a => if a.toNat ≤ pc.toNat ∧ (pc.toNat - a.toNat) / 4 < 4096 then some ((pc.toNat - a.toNat) / 4) else none
      | none => none
    match near with
    | some o => s.setBytes at_ 2 (0x4000 + 4096 * n + o)
    | none =>
      let a := (s.die die).anchorsWritten
      let s := s.setBytes at_ 2 (0xC000 + 4096 * n + a % 4096)
      let s := s.setBytes (windowBase die + 0x400000 + a % 4096 * 8) 8 (pc.toNat % 2 ^ 57 + 2 ^ 57 * n + 2 ^ 59 * q)
      (s.modCore core fun k => { k with anchors := mput n pc k.anchors }).modDie die fun d =>
        { d with anchorsWritten := (d.anchorsWritten + 1) % 2 ^ 32 }
  | none =>
    match k.oldest with
    | some n =>
      let why := s.stallOf core n
      match (k.track n).elemAwaited with
      | some e => if why == 3 || why == 4 || why == 5 then s.setBytes at_ 2 (0x8000 + 4096 * n + 256 * why + e % 256)
        else s.setBytes at_ 2 (4096 * n + why)
      | none => s.setBytes at_ 2 (4096 * n + why)
    | none => s.setBytes at_ 2 15

/-- One cycle of recording: 32 records. -/
def State.recordCycle (s : State) (die : Nat) : State :=
  let d := s.die die
  let cl := die * 8 + fld (d.reg 0x800) 3 1
  let s := (span 0 16).foldl (fun s q => (span 0 2).foldl (fun s slot =>
    s.recordSlot die (16 * cl + q) q slot (windowBase die + (d.twcycle % 65536 * 32 + q * 2 + slot) * 2)) s) s
  s.modDie die fun d => { d with twcycle := d.twcycle + 1, twleft := if d.twtriggered then d.twleft - 1 else d.twleft }

/-- TRACE_WINDOW_STOP: the cycles after the trigger are recorded. -/
def execTraceWindowStop (die : Nat) (s : State) : Host.Outcome State Fault Refusal :=
  .next (s.modDie die fun d =>
    if bitAt (d.reg 0x800).toNat 0 && d.twtriggered && d.twleft == 0 then
      { d with stew := mput 0x800 (setFld (d.reg 0x800) 0 0 0) d.stew, twstopped := true }
    else d)

/-! The trace port (R302). -/

/-- TRACE_PORT_DROP_REPORT: the number of records dropped leaves as one record once there is room. -/
def execTracePortDropReport (die : Nat) (s : State) : Host.Outcome State Fault Refusal :=
  .next (s.modDie die fun d =>
    if d.dropped ≠ 0 && decide (d.port.length < 256) && s.portSends 0x1F 0 then
      { d with port := d.port ++ [⟨s.time, 0x1F, 0, 0x8000 + die * 8, 0, BitVec.ofNat 64 d.dropped⟩], dropped := 0 }
    else d)

end Sys2Proof.Machine
end

