-- ==== Sys2Proof/Machine/Gcm.lean ====
section
/-!
DEFINITION. The authentication tag of images (R258): AES-256-GCM of an empty plaintext, the module's key opaque.
-/
namespace Sys2Proof.Machine

/-! AES-256. -/

/-- Doubling in GF(2^8) modulo 0x11B. -/
def aesDouble (a : Nat) : Nat := if 128 ≤ a then Nat.xor (2 * a) 0x11B else 2 * a

/-- The product in GF(2^8), by `n` bits of `b`. -/
def aesMulBits (a b : Nat) : Nat → Nat
  | 0 => 0
  | n + 1 => Nat.xor (if b % 2 = 1 then a else 0) (aesMulBits (aesDouble a) (b / 2) n)
def aesMul (a b : Nat) : Nat := aesMulBits a b 8

/-- The inverse in GF(2^8), 0 for 0: the 254th power. -/
def aesInverse (a : Nat) : Nat := (List.range 7).foldl (fun r _ => aesMul (aesMul r r) a) 1 |> fun r => aesMul r r

/-- A byte turned left. -/
def aesTurn (b n : Nat) : Nat := (b * 2 ^ n % 256) + b * 2 ^ n / 256

/-- SubBytes of one byte. -/
def aesSub (a : Nat) : Nat :=
  let b := aesInverse a
  (List.range 4).foldl (fun r i => Nat.xor r (aesTurn b (i + 1))) (Nat.xor b 0x63)

def xorLists (a b : List Nat) : List Nat := (a.zip b).map fun x => Nat.xor x.1 x.2

/-- The words of the key schedule, latest first: `n` more. -/
def aesWords (l : List (List Nat)) : Nat → List (List Nat)
  | 0 => l
  | n + 1 =>
    let i := l.length
    let last := l.headD []
    let t := if i % 8 = 0 then
        xorLists ((last.drop 1 ++ last.take 1).map aesSub) [(List.range (i / 8 - 1)).foldl (fun r _ => aesDouble r) 1, 0, 0, 0]
      else if i % 8 = 4 then last.map aesSub else last
    aesWords (xorLists (l.getD 7 []) t :: l) n

/-- The fifteen round keys of a key of 32 bytes. -/
def aesKeys (key : List Nat) : List (List Nat) :=
  let first := (List.range 8).map fun i => (key.drop (4 * i)).take 4
  let words := (aesWords first.reverse 52).reverse
  (List.range 15).map fun r => ((words.drop (4 * r)).take 4).flatMap id

/-- ShiftRows, the block column by column. -/
def aesShift (b : List Nat) : List Nat := (List.range 16).map fun i => b.getD ((i / 4 + i % 4) % 4 * 4 + i % 4) 0

/-- MixColumns. -/
def aesMix (b : List Nat) : List Nat := (List.range 16).map fun i =>
  let c := fun (j : Nat) => b.getD (i / 4 * 4 + (i + j) % 4) 0
  Nat.xor (Nat.xor (aesMul (c 0) 2) (aesMul (c 1) 3)) (Nat.xor (c 2) (c 3))

/-- Encrypts a block under round keys that are still to come. -/
def aesRounds : List (List Nat) → List Nat → List Nat
  | [], b => b
  | [k], b => xorLists (aesShift (b.map aesSub)) k
  | k :: t, b => aesRounds t (xorLists (aesMix (aesShift (b.map aesSub))) k)

def aesBlock (key b : List Nat) : List Nat :=
  match aesKeys key with
  | [] => b
  | k :: t => aesRounds t (xorLists b k)

/-! GHASH and the tag. -/

/-- The number that a byte string is, its first byte highest. -/
def bigEndian (l : List Nat) : Nat := l.foldl (fun n b => 256 * n + b) 0

/-- The product in GF(2^128) of `x`, its highest bits first, with `v`. -/
def ghashMul (x v : Nat) : Nat → Nat
  | 0 => 0
  | n + 1 => Nat.xor (if x / 2 ^ n % 2 = 1 then v else 0)
    (ghashMul x (if v % 2 = 1 then Nat.xor (v / 2) (0xE1 * 2 ^ 120) else v / 2) n)

/-- GHASH of `n` blocks. -/
def ghash (h y : Nat) : Nat → List Nat → Nat
  | 0, _ => y
  | n + 1, l =>
    let block := l.take 16
    ghash h (ghashMul (Nat.xor y (bigEndian (block ++ List.replicate (16 - block.length) 0))) h 128) n (l.drop 16)

/-- The tag of additional data under a key and a nonce of 12 bytes, with no plaintext: a number of 16 bytes, the highest first. -/
def gcmTag (key nonce : List Nat) (data : List Nat) : Nat :=
  let h := bigEndian (aesBlock key (List.replicate 16 0))
  let y := ghash h 0 ((data.length + 15) / 16) data
  let y := ghashMul (Nat.xor y (8 * data.length * 2 ^ 64)) h 128
  Nat.xor y (bigEndian (aesBlock key (nonce ++ [0, 0, 0, 1])))

/-- The tag of an image's covered bytes (R258), its bytes in their order in the header. -/
def imageTag (nonce covered : List Byte) : List Byte :=
  (toBytes 16 (gcmTag ((toBytes 32 Config.moduleKey).map (·.toNat)) (nonce.map (·.toNat)) (covered.map (·.toNat)))).reverse

end Sys2Proof.Machine
end

