-- ==== Sys2Proof/Machine/Objects.lean ====
section
/-!
DEFINITION. Crossings (R75 to R77, R360), junction instructions (R195, R383 to R386) and barriers (R215 to R220, R345 to R348), with
the events that end their waits.
-/
namespace Sys2Proof.Machine

/-! Crossings. -/

/-- Whether a crossing operation could take effect now: a post within 255, a take from a counter that is not zero. -/
def Core.crossFits (k : Core) (t : Track) (i : Instr) : Bool :=
  match i with
  | .crossPost q a => decide (mget 0 q.val k.cross + (t.getX a).toNat ≤ 255)
  | .crossTake _ q => decide (0 < mget 0 q.val k.cross)
  | _ => false

/-- The waiting posts, or the waiting takes, of a queue: place in the order of waits, and whether it could take effect now. -/
def Core.crossWaiters (k : Core) (kind : WaitKind) (q me : Nat) : List (Nat × Bool) :=
  k.tracks.filterMap fun (n, t) => if n = me then none else match t.wait with
    | some w => if w.kind == kind && w.obj == q then some (w.seq, k.crossFits t w.instr) else none
    | none => none

/-- R77: operations that wait resume oldest first, posts among posts and takes among takes; a new one goes after the oldest where that
resumes now (log entry 11). -/
def State.crossTurn (s : State) (kind : WaitKind) (q : Nat) : Bool :=
  let others := s.myCore.crossWaiters kind q s.cur.2
  let fresh := others.all fun o => !o.2 || others.any fun p => decide (p.1 < o.1)
  match s.me.wait with
  | some w => if w.kind = kind ∧ w.obj = q then others.all fun o => decide (w.seq < o.1) else fresh
  | none => fresh

/-- CROSS.POST's own part: a release at core scope (R76). -/
def crossPostBody (q : Q8) (a : Reg) (s : State) : Out :=
  let v := (s.x a).toNat
  if 255 < v then faulty .illegal s
  else if !s.myCore.crossFits s.me (.crossPost q a) || !s.crossTurn .crossPost q.val then .wait .crossPost q.val s
  else
    let rels := s.relsOf true .core
    let s := s.modMyCore fun k =>
      { k with cross := mput q.val (mget 0 q.val k.cross + v) k.cross
               crossRels := mupd [] q.val (fun l => addPending l rels) k.crossRels }
    .done s.newRegion

/-- CROSS.TAKE's own part: an acquire at core scope (R76). As it writes the counter, it carries the track's release fences (R369). -/
def crossTakeBody (d : Reg) (q : Q8) (s : State) : Out :=
  if !s.myCore.crossFits s.me (.crossTake d q) || !s.crossTurn .crossTake q.val then .wait .crossTake q.val s
  else
    let n := mget 0 q.val s.myCore.cross - 1
    let rels := s.relsOf false .core
    let s := s.syncRead (mget [] q.val s.myCore.crossRels) true .core
    let s := s.modMyCore fun k =>
      { k with cross := mput q.val n k.cross
               crossRels := if rels.isEmpty then k.crossRels else mupd [] q.val (fun l => addPending l rels) k.crossRels }
    .done (s.newRegion.setX d (BitVec.ofNat 64 n))

def execCrossPost (q : Q8) (a : Reg) (s : State) : Host.Outcome State Fault Refusal :=
  perform (.crossPost q a) (crossPostBody q a) s

def execCrossTake (d : Reg) (q : Q8) (s : State) : Host.Outcome State Fault Refusal :=
  perform (.crossTake d q) (crossTakeBody d q) s

/-- CROSS_POST_WAKE: a waiting post takes effect. -/
def execCrossPostWake (core t : Nat) (s : State) : Host.Outcome State Fault Refusal :=
  resumeWait core t .crossPost (fun i s => match i with
    | .crossPost q a => crossPostBody q a s
    | _ => .done s) s

/-- CROSS_TAKE_WAKE: a waiting take takes effect. -/
def execCrossTakeWake (core t : Nat) (s : State) : Host.Outcome State Fault Refusal :=
  resumeWait core t .crossTake (fun i s => match i with
    | .crossTake d q => crossTakeBody d q s
    | _ => .done s) s

/-! Junctions. -/

/-- A junction operation at its home: the answer of a remote home, or `here` at the physical address; `rels` is what an addition releases. -/
def State.atJunction (s : State) (va : Word) (op units : Nat) (rels : List Rel) (here : Nat → State → Out) (there : Nat → Nat → State → Out) : Out :=
  match s.jctFind s.who va.toNat with
  | .fault c s => faulty c s va
  | .wait k s => .wait k 0 s
  | .ok pa s =>
    match area pa with
    | .remote _ _ => match s.ask s.cur.1 s.cur.2 pa 5 (jctWire op units) with
      | (some b, s) => there pa (ofBytes b) s
      | (none, s) => .wait .remote 0 (s.askRels s.cur.1 s.cur.2 pa rels)
    | _ => here pa s

/-- JCT.INIT (R384). -/
def execJctInit (a b : Reg) (s : State) : Host.Outcome State Fault Refusal :=
  perform (.jctInit a b) (fun s =>
    let v := (s.x b).toNat
    s.atJunction (s.x a) 17 v [] (fun pa s => .done (s.jctReset pa v).newRegion) (fun _ _ s => .done s.newRegion)) s

/-- Notes releases that come with the next addition to a junction. -/
def State.jctNote (s : State) (pa : Nat) (l : List Rel) : State :=
  let j := mget {} (s.loc pa) s.jcts
  { s with jcts := mput (s.loc pa) { j with current := l ++ j.current } s.jcts }

/-- JCT.ADD (R385): a release at its scope. -/
def execJctAdd (a b : Reg) (sc : Scope) (s : State) : Host.Outcome State Fault Refusal :=
  perform (.jctAdd a b sc) (fun s =>
    let v := (s.x b).toNat
    s.atJunction (s.x a) 16 v (s.relsOf true sc)
      (fun pa s =>
        let s := s.jctNote pa (s.relsOf false sc)
        .done ((s.addUnits s.me.ctxid pa v ⟨s.myLoc, sc, s.who.released⟩).newRegion))
      (fun _ _ s => .done s.newRegion)) s

/-- An observed phase goes to xd: an acquire that synchronises with the additions up to its flip (R386). -/
def State.observe (s : State) (d : Reg) (pa : Nat) (sc : Scope) : State :=
  (s.syncRead (mget {} (s.loc pa) s.jcts).flipped true sc).newRegion.setX d (BitVec.ofNat 64 (s.bytes (pa + 16) 4))

/-- A phase observed of a junction at another node (log entry 58). -/
def State.observeFar (s : State) (d : Reg) (pa p : Nat) (sc : Scope) : State :=
  let l := (mget {} (s.loc pa) s.jcts).far.filter fun e => decide ((p + 2 ^ 32 - e.1) % 2 ^ 32 < 2 ^ 31)
  (s.syncRead (l.map (·.2)) true sc).newRegion.setX d (BitVec.ofNat 64 (p % 2 ^ 32))

/-- JCT.WAIT's own part: another package's junction is read again at each return. -/
def jctWaitBody (d a b : Reg) (sc : Scope) (s : State) : Out :=
  let seen := fld (s.x b) 31 0
  s.atJunction (s.x a) 18 0 []
    (fun pa s => if s.bytes (pa + 16) 4 = seen then .wait .junction pa s else .done (s.observe d pa sc))
    (fun pa p s =>
      if p % 2 ^ 32 = seen then .wait .junction pa (s.asked s.cur.1 s.cur.2) else .done (s.observeFar d pa p sc))

def execJctWait (d a b : Reg) (sc : Scope) (s : State) : Host.Outcome State Fault Refusal :=
  perform (.jctWait d a b sc) (jctWaitBody d a b sc) s

/-- JCT_WAIT_RETURN: the phase has moved. -/
def execJctWaitReturn (core t : Nat) (s : State) : Host.Outcome State Fault Refusal :=
  resumeWait core t .junction (fun i s => match i with
    | .jctWait d a b sc => jctWaitBody d a b sc s
    | _ => .done s) s

/-- JCT.TEST (R386). -/
def execJctTest (d a : Reg) (sc : Scope) (s : State) : Host.Outcome State Fault Refusal :=
  perform (.jctTest d a sc) (fun s => s.atJunction (s.x a) 18 0 [] (fun pa s => .done (s.observe d pa sc))
    (fun pa p s => .done (s.observeFar d pa p sc))) s

/-! Objects of the synchronisation engine (R206, R216). -/

/-- The checks of an object's address (R216): the physical address. -/
def State.objFind (s : State) (va : Word) : Acc :=
  if windowOf va.toNat ≠ some 0 then .fault .window s
  else if va.toNat % 64 ≠ 0 then .fault .align s
  else match s.find s.who va.toNat .rmw with
    | .fault c s => .fault c s
    | .ok pa s => if s.underTest (dieOf s.cur.1) pa then .wait .remote s else .ok pa s

/-- Marks or unmarks `n` lines of sync memory from a physical address. -/
def State.mark (s : State) (pa n : Nat) (on : Bool) : State :=
  match area pa with
  | .sync d _ => s.modDie d fun x =>
    { x with marked := (span (pa / 64) n).foldl (fun l i => if on then insertNat i l else l.erase i) x.marked }
  | _ => s

/-- The synchronisation engine's die. -/
def syncDie (pa : Nat) : Nat := match area pa with
  | .sync d _ => d
  | _ => 0

/-- Whether a line is marked as a barrier, and whether as a meeting. -/
def State.barLine (s : State) (pa : Nat) : Bool := s.isMarked pa && mhas pa s.bars
def State.meetLine (s : State) (pa : Nat) : Bool := s.isMarked pa && !mhas pa s.bars

/-! Barriers (R217, R218). -/

def State.barMembers (s : State) (pa : Nat) : Nat := s.bytes pa 4
def State.barArrived (s : State) (pa : Nat) : Nat := s.bytes (pa + 4) 4
def State.barPhase (s : State) (pa : Nat) : Nat := s.bytes (pa + 8) 4
def State.barBroken (s : State) (pa : Nat) : Bool := bitAt (s.bytes (pa + 12) 1) 0
def State.barScope (s : State) (pa : Nat) : Scope := (Scope.ofCode (s.bytes (pa + 13) 1)).getD .track
def State.barGang (s : State) (pa : Nat) : Nat := s.bytes (pa + 16) 8
def State.setBroken (s : State) (pa : Nat) (b : Bool) : State := s.setBytes (pa + 12) 1 b.toNat

/-- The identity of a gang: never 0. -/
def gangId (g : Nat × Nat) : Nat := (g.1 * 2 ^ 24 + g.2 + 1) % 2 ^ 64

/-- A phase completes: its arrivals join those of earlier phases (R219). -/
def State.barComplete (s : State) (ctx pa : Nat) : State :=
  let b := mget {} pa s.bars
  let s := (s.setBytes (pa + 4) 4 0).setBytes (pa + 8) 4 (s.barPhase pa + 1)
  { s with bars := mput pa { current := [], past := b.current ++ b.past } s.bars }.emitAt (.die (syncDie pa)) 9 0 ctx (BitVec.ofNat 64 pa)

/-- BAR.LEAVE at the object (R218). Where it completes the phase, it carries the release fences `rels` of its track (R369). -/
def State.barWithdraw (s : State) (ctx pa : Nat) (rels : List Rel) : State :=
  let n := s.barMembers pa - 1
  let s := s.setBytes pa 4 n
  if 0 < n ∧ n ≤ s.barArrived pa then
    { s with bars := mupd {} pa (fun b => { b with current := rels ++ b.current }) s.bars }.barComplete ctx pa
  else s

/-- Changes the waits of the tracks that can move: on a frozen core a form has taken no effect (R216). -/
def State.mapWaits (s : State) (f : Track → Wait → Wait) : State :=
  { s with cores := s.cores.map fun e => (e.1, if e.2.frozen then e.2 else
      { e.2 with tracks := e.2.tracks.map fun (x : Nat × Track) => (x.1, { x.2 with wait := x.2.wait.map (f x.2) }) }) }

/-- The result that an event at its object has given a waiting instruction already. -/
def State.verdict (s : State) (i : Instr) : Option Nat :=
  match s.me.wait with
  | some w => if w.instr = i then w.verdict else none
  | none => none

/-- A barrier breaks: every waiting BAR.WAIT returns BROKEN, whatever follows (R220). -/
def State.breakBarrier (s : State) (ctx pa : Nat) : State :=
  ((s.setBroken pa true).emitAt (.die (syncDie pa)) 0xA 0 ctx (BitVec.ofNat 64 pa)).mapWaits fun _ w =>
    if w.kind = .barrier ∧ w.obj = pa then { w with verdict := some 1 } else w

/-- A track is withdrawn from every barrier it has joined; a kill breaks them (R43, R220). -/
def State.withdraw (s : State) (core n : Nat) (killed : Bool) : State :=
  let s' := (s.track core n).barriers.foldl (fun s b =>
    let ctx := (s.track core n).ctxid
    let s := s.barWithdraw ctx b.1 ((s.track core n).fenceRel.map fun f => ⟨.core core, f.1, f.2⟩)
    if killed then s.breakBarrier ctx b.1 else s) s
  s'.modTrack core n fun t => { t with barriers := [] }

/-- The checks of R346 for every form but BAR.RESET.I, and GANG for a track that has not joined; the track's record. -/
def State.atBarrier (s : State) (va : Word) (joined : Bool) (f : Nat → Option Nat → State → Out) : Out :=
  match s.objFind va with
  | .fault c s => faulty c s va
  | .wait k s => .wait k 0 s
  | .ok pa s =>
    if !s.barLine pa then faulty .protect s va
    else if s.poisoned pa then faulty .poison s va
    else match s.me.barriers.find? fun b => b.1 == pa with
      | some b => f pa b.2 s
      | none => if joined then faulty .gang s va else f pa none s

/-- BAR.JOIN. -/
def execBarJoin (a : Reg) (s : State) : Host.Outcome State Fault Refusal :=
  perform (.barJoin a) (fun s =>
    let va := s.x a
    s.atBarrier va false fun pa _ s =>
      match s.me.trip.bind (·.gang) with
      | none => faulty .gang s va
      | some g =>
        if s.barGang pa ≠ 0 ∧ s.barGang pa ≠ gangId g then faulty .gang s va
        else if 4 ≤ s.me.barriers.length || s.me.barriers.any fun b => b.1 == pa then faulty .illegal s
        else
          let s := (s.setBytes (pa + 16) 8 (gangId g)).setBytes pa 4 (s.barMembers pa + 1)
          .done (s.newRegion.modMe fun t => { t with barriers := t.barriers ++ [(pa, none)] })) s

/-- BAR.ARRIVE's own part: a release at the object's scope (R219). It reads the phase, so a later acquire fence acquires what has completed
it (R369). -/
def barArriveBody (d a : Reg) (s : State) : Out :=
  s.atBarrier (s.x a) true fun pa last s =>
    let p := s.barPhase pa
    if s.barBroken pa then .done ((s.syncRead (mget {} pa s.bars).past false (s.barScope pa)).newRegion.setX d (BitVec.ofNat 64 p))
    else if last = some p then .wait .barrierNext pa s
    else
      let b := mget {} pa s.bars
      let rels := s.relsOf true (s.barScope pa)
      let n := s.barArrived pa + 1
      let s := { s with bars := mput pa { b with current := rels ++ b.current } s.bars }.syncRead b.past false (s.barScope pa)
      let s := (s.setBytes (pa + 4) 4 n).modMe fun t =>
        { t with barriers := t.barriers.map fun x => if x.1 = pa then (pa, some p) else x }
      let s := s.emitCore s.cur.1 8 0 s.me.ctxid (BitVec.ofNat 64 pa)
      let s := if s.barMembers pa ≤ n then s.barComplete s.me.ctxid pa else s
      .done (s.newRegion.setX d (BitVec.ofNat 64 p))

def execBarArrive (d a : Reg) (s : State) : Host.Outcome State Fault Refusal :=
  perform (.barArrive d a) (barArriveBody d a) s

/-- BAR_ARRIVE_NEXT_PHASE: the phase in which the member had arrived is over. -/
def execBarArriveNextPhase (core t : Nat) (s : State) : Host.Outcome State Fault Refusal :=
  resumeWait core t .barrierNext (fun i s => match i with
    | .barArrive d a => barArriveBody d a s
    | _ => .done s) s

/-- BAR.WAIT's own part: COMPLETE is an acquire at the object's scope; BROKEN synchronises with nothing (R219, R220). -/
def barWaitBody (d a b : Reg) (s : State) : Out :=
  let seen := fld (s.x b) 31 0
  s.atBarrier (s.x a) true fun pa _ s =>
    if s.barBroken pa then .done (s.newRegion.setX d 1)
    else if s.barPhase pa = seen then .wait .barrier pa s
    else .done ((s.syncRead (mget {} pa s.bars).past true (s.barScope pa)).newRegion.setX d 0)

def execBarWait (d a b : Reg) (s : State) : Host.Outcome State Fault Refusal :=
  perform (.barWait d a b) (barWaitBody d a b) s

/-- BAR_WAIT_RETURN: the phase has completed, or the barrier is broken. -/
def execBarWaitReturn (core t : Nat) (s : State) : Host.Outcome State Fault Refusal :=
  resumeWait core t .barrier (fun i s => match i with
    | .barWait d a b =>
      (match s.verdict i with
      | some v => .done (s.newRegion.setX d (BitVec.ofNat 64 v))
      | none => barWaitBody d a b s)
    | _ => .done s) s

/-- BAR.LEAVE. -/
def execBarLeave (a : Reg) (s : State) : Host.Outcome State Fault Refusal :=
  perform (.barLeave a) (fun s => s.atBarrier (s.x a) true fun pa _ s =>
    .done ((s.barWithdraw s.me.ctxid pa (s.relsOf false (s.barScope pa))).newRegion.modMe fun t => { t with barriers := t.barriers.filter fun b => b.1 != pa })) s

/-- BAR.RESET: the arrivals of the phase in progress are discarded (R347). -/
def execBarReset (d a : Reg) (s : State) : Host.Outcome State Fault Refusal :=
  perform (.barReset d a) (fun s => s.atBarrier (s.x a) true fun pa _ s =>
    let s := (s.setBroken pa false).setBytes (pa + 4) 4 0
    .done ({ s with bars := mupd {} pa (fun b => { b with current := [] }) s.bars }.newRegion.setX d 0)) s

/-- BAR.RESET.I: marks the line, whether or not the object is busy (R346). -/
def execBarResetI (d a : Reg) (sc : Scope) (s : State) : Host.Outcome State Fault Refusal :=
  perform (.barResetI d a sc) (fun s =>
    let va := s.x a
    match s.objFind va with
    | .fault c s => faulty c s va
    | .wait k s => .wait k 0 s
    | .ok pa s =>
      if s.meetLine pa then faulty .protect s va
      else if s.poisoned pa then faulty .poison s va
      else
        let s := s.mark pa 1 true
        if s.barMembers pa ≠ 0 then .done ({ s with bars := mupd {} pa id s.bars }.newRegion.setX d 1)
        else
          let s := (s.setBytes pa 64 0).setBytes (pa + 13) 1 sc.code
          .done ({ s with bars := mput pa {} s.bars }.newRegion.setX d 0)) s

end Sys2Proof.Machine
end

