-- ==== Sys2Proof/Machine/Launch.lean ====
section
/-!
DEFINITION. Launches as the device holds them (R21 to R39, R44, R48, R49): records and their checks, the level tree, ready trips, and
completions.
-/
namespace Sys2Proof.Machine

/-! The record (R21 to R24). -/

/-- A level entry, from the sixteen bytes at an offset. -/
def levelRec (w off : Nat) : LevelRec :=
  let a := recField w off 4
  { domain := bitsOf a 2 0, scope := bitsOf a 5 3, gang := bitAt a 6, epilogue := bitAt a 7, count := a / 256,
    code := BitVec.ofNat 64 (recField w (off + 8) 8) }

/-- A launch record of 256 bytes read as one number. -/
def launchRec (w : Nat) : LaunchRec :=
  let f := fun (o n : Nat) => recField w o n
  let b := fun (o : Nat) => BitVec.ofNat 64 (f o 8)
  let nl := f 0x4C 1
  let np := f 0x4D 1
  let levels := (span 0 (min nl 8)).map fun i => levelRec w (0x70 + 16 * i)
  { version := f 0 2, flags := f 2 2, frameSize := f 4 4, entry := b 8, frameBase := b 0x10, pool := f 0x18 8, lane := f 0x20 4,
    trigger := f 0x24 4, tag := f 0x28 4, ctx := f 0x2C 4, junction := b 0x30, status := b 0x38, stackBase := b 0x40,
    stackSize := f 0x48 4, nlevels := nl, npreds := np, preds := (span 0 (min np 4)).map fun i => b (0x50 + 8 * i), levels := levels,
    reservedOk := f 2 2 < 64 && f 0x4E 2 == 0 && f 0xF0 16 == 0
      && (span 0 4).all (fun i => if i < np then decide (f (0x50 + 8 * i) 8 < 2 ^ 33) else f (0x50 + 8 * i) 8 == 0)
      && (span 0 8).all (fun i => if i < nl then f (0x74 + 16 * i) 4 == 0 else f (0x70 + 16 * i) 16 == 0)
      && levels.all (fun l => decide (l.domain < 5) && decide (l.scope < 6) && (l.epilogue || l.code == 0)) }

def LaunchRec.afterAll (r : LaunchRec) : Bool := bitAt r.flags 0
def LaunchRec.super (r : LaunchRec) : Bool := bitAt r.flags 1
def LaunchRec.prio (r : LaunchRec) : Nat := bitsOf r.flags 3 2
def LaunchRec.home (r : LaunchRec) : Nat := bitsOf r.flags 5 4
/-- Leaf trips in all. -/
def LaunchRec.total (r : LaunchRec) : Nat := r.levels.foldl (fun n l => n * l.count) 1
/-- E (R21). -/
def LaunchRec.early (r : LaunchRec) : Nat := if r.trigger = 0 then r.total else r.trigger

/-- R73: a valid pool word. -/
def poolValid (w : Nat) : Bool :=
  let s := w % 16
  let p := bitsOf w 9 4
  w / 1024 == 0 && decide (5 ≤ s) && decide (s ≤ 14) && decide (p ≤ 32) && decide (s * 64 + p * 20 ≤ 960)

/-- The narrowest scope under a parent's domain (R25), as a code. -/
def needScope (domain : Nat) : Nat := if domain ≤ 1 then 3 else if domain = 2 then 2 else if domain = 3 then 1 else 0

/-- The tracks of a domain instance (R36). -/
def domainTracks (domain : Nat) : Nat :=
  if domain = 0 then 2048 else if domain = 1 then 512 else if domain = 2 then 64 else if domain = 3 then 4 else 1

/-- Each level with the domain above it, and whether it is the last. -/
def withParents : Nat → List LevelRec → List (Nat × LevelRec × Bool)
  | _, [] => []
  | p, l :: t => (p, l, t.isEmpty) :: withParents l.domain t

/-- The codes of the checks that a record fails by itself (R25). -/
def LaunchRec.fails (r : LaunchRec) : List Nat :=
  let ls := withParents 0 r.levels
  let bad := fun (c : Nat) (b : Bool) => if b then [c] else []
  bad 1 (r.version != 1) ++ bad 2 (!r.reservedOk) ++ bad 3 (r.nlevels == 0 || decide (8 < r.nlevels) || decide (4 < r.npreds))
    ++ bad 4 (ls.any fun l => decide (l.2.1.domain < l.1)) ++ bad 5 (ls.any fun l => decide (l.2.1.scope < needScope l.1))
    ++ bad 6 (ls.any (fun l => l.2.1.count == 0 || (l.2.1.gang && (!l.2.2 || decide (domainTracks l.1 < l.2.1.count))))
        || decide (2 ^ 40 ≤ r.total))
    ++ bad 7 (!poolValid r.pool || !laneValid r.lane)
    ++ bad 10 (fld r.entry 1 0 != 0 || r.levels.any (fun l => fld l.code 1 0 != 0) || fld r.frameBase 5 0 != 0
        || r.frameSize % 64 != 0 || fld r.stackBase 5 0 != 0 || r.stackSize % 64 != 0)

/-! The context table (R272). -/

/-- A context's descriptor in the table of a die. Its reserved bits, flags 31:4 and the bytes from 0x38 on, are not looked at: for a nonzero
one no chapter names a fault or a status (DESIGN CHOICE, log entry 62). -/
def State.readDesc (s : State) (die ctx : Nat) : CtxDesc :=
  let a := fld (s.stew die 0x18) 51 12 * 4096 + ctx * 64
  { root := BitVec.ofNat 64 (s.bytes a 8), handler := BitVec.ofNat 64 (s.bytes (a + 8) 8), tstack := BitVec.ofNat 64 (s.bytes (a + 16) 8),
    tsize := s.bytes (a + 0x18) 4, flags := s.bytes (a + 0x1C) 4, spill := BitVec.ofNat 64 (s.bytes (a + 0x20) 8),
    spillSize := BitVec.ofNat 64 (s.bytes (a + 0x28) 8) }

/-! Launches. -/

def State.launch? (s : State) (serial : Nat) : Option Launch := mfind serial s.launches
def State.modLaunch (s : State) (serial : Nat) (f : Launch → Launch) : State :=
  match s.launch? serial with
  | some l => { s with launches := mput serial (f l) s.launches }
  | none => s

/-- The launch holds its record in the home die's pool (R27, R44). A host queue's rejected record holds none, not even while a write of its
completion awaits the steward (DESIGN CHOICE, log entry 63). -/
def Launch.pooled (l : Launch) : Bool := l.phase != .done && l.phase != .rejected

/-- The slots of a home die's pool in use. -/
def State.poolSlots (s : State) (home : Nat) : List Nat :=
  (s.launches.filter fun l => l.2.pooled && l.2.rec_.home == home).map (·.2.slot)

/-- Complete for its dependants (R27, R32). -/
def Launch.isOver (l : Launch) : Bool :=
  match l.phase with
  | .finishing => true | .waitingWrite => true | .done => true | .rejected => true | .pending => false | .started => false

/-- The launch that a tag resolves to: the last one taken (R23). -/
def State.resolveTag (s : State) (ctx tag : Nat) : Option (Nat × Launch) :=
  (s.launches.filter fun l => l.2.ctx == ctx && l.2.rec_.tag == tag).getLast?

/-- The predecessors of a record as they stand: the launches, and whether one was rejected. -/
def State.predsOf (s : State) (r : LaunchRec) (ctx : Nat) : List (Nat × Bool) × Bool :=
  let found := r.preds.filterMap fun p => (s.resolveTag ctx (fld p 31 0)).map fun l => (l.1, bitAt p.toNat 32, l.2)
  (found.map fun f => (f.1, f.2.1), found.any fun f => f.2.2.phase == .rejected)

/-! The device's writes for a launch (R26, R27). -/

/-- The home die as an agent in a launch's context. -/
def State.homeWho (s : State) (serial : Nat) (l : Launch) : Who :=
  { core := 128 * l.rec_.home, ctx := l.ctx, super := l.rec_.super, desc := s.readDesc l.rec_.home l.ctx, agent := serial,
    clock := l.doneClock, fromDie := true }

/-- Checks the bytes of a device's write. -/
def State.deviceFind (s : State) (w : Who) (va : Nat) : Nat → ETry (List Nat)
  | 0 => .ok [] s
  | n + 1 => if s.walkHeld w va .write then .wait s else match s.find w va .write with
    | .fault c s => .fault c va s
    | .ok pa s =>
      if s.isMarked pa then .fault .protect va s
      else if s.poisoned pa then .fault .poison va s
      else if s.linkDown pa then .fault .linkDown va s
      else if s.underTest w.die pa || !s.storeRoom w pa || s.engineWaits w pa 1 true then .wait s
      else (s.deviceFind w (wrap (va + 1)) n).bind fun l s => .ok (pa :: l) s

/-- Writes a launch's status block with a state code: a fault, or done (R26). -/
def State.writeStatus (s : State) (serial : Nat) (code : Nat) : ETry Unit :=
  match s.launch? serial with
  | none => .ok () s
  | some l =>
    if l.rec_.status = 0 then .ok () s
    else
      let v := code + 2 ^ 32 * l.code + 2 ^ 64 * l.completed + 2 ^ 128 * l.triggers + 2 ^ 192 * l.killed
      (s.deviceFind (s.homeWho serial l) l.rec_.status.toNat 32).bind fun pas s => .ok () (s.engineWrites (s.homeWho serial l) false pas v)

/-- Writes the block as the launch goes on; a fault there is only reported. -/
def State.noteStatus (s : State) (serial : Nat) : State :=
  match s.launch? serial with
  | none => s
  | some l =>
    match s.writeStatus serial (if l.phase = .pending then 1 else 2) with
    | .ok _ s => s
    | .wait s => s
    | .fault c _ s => { s with reports := s.reports ++ [.launchWrite serial l.rec_.tag l.rec_.status c] }

/-- The completion's writes from the status block (`0`) or the junction (`1`) on; a fault holds the rest (R27), and one that waits is made
again. -/
def State.finishWrites (s : State) (serial : Nat) (fromStep : Nat) : State :=
  match s.launch? serial with
  | none => s
  | some l =>
    let hold := fun (s : State) (a : Word) (c : Cause) (j : Bool) =>
      { s.modLaunch serial (fun l =>
          { l with held := some (a, c, j), phase := if l.phase = .rejected then .rejected else .waitingWrite }) with
        reports := s.reports ++ [.launchWrite serial l.rec_.tag a c] }
    let fin := fun (s : State) => s.modLaunch serial fun l =>
      { l with held := none, phase := if l.phase = .rejected then .rejected else .done }
    let later := fun (s : State) (step : Nat) => s.modLaunch serial fun l => { l with held := none, todo := some step }
    let s := s.modLaunch serial fun l => { l with todo := none }
    let jct := fun (s : State) =>
      match s.engineJct (s.homeWho serial l) serial l.rec_.junction 1 (.die l.rec_.home) with
      | .ok _ s => fin s
      | .wait s => later s 1
      | .fault c _ s => hold s l.rec_.junction c true
    let code := if l.phase = .rejected then 4 else if l.killed ≠ 0 then 5 else 3
    if fromStep = 0 then
      match s.writeStatus serial code with
      | .ok _ s => jct s
      | .wait s => later s 0
      | .fault c _ s => hold s l.rec_.status c false
    else if fromStep = 1 then jct s
    else fin s

/-- Takes a launch into its home die's pool, or takes it as rejected with a code (R23, R25). -/
def State.takeLaunch (s : State) (r : LaunchRec) (ctx : Nat) (queue : Option Nat) (after : List Nat) (rels : List Rel) (code : Nat) :
    State × Nat :=
  let (serial, s) := s.fresh
  let used := s.poolSlots r.home
  let slot := ((span 0 256).find? fun i => !used.contains i).getD 0
  let l : Launch :=
    { rec_ := r, slot := slot, ctx := ctx, queue := queue, phase := if code = 0 then .pending else .rejected, code := code,
      preds := (s.predsOf r ctx).1, after := after, root := (r.levels.headD ⟨0, 0, false, false, 0, 0⟩).count, rels := rels }
  let s := { s with launches := mput serial l s.launches }
  (if code = 0 then s.noteStatus serial else s.finishWrites serial 0, serial)

/-! The level tree (R33, R34, R38). -/

/-- Instances of a domain within one of the domain above it, `n` steps down from `d`. -/
def fanOut (d : Nat) : Nat → Nat
  | 0 => 1
  | n + 1 => (if d = 0 then 4 else if d = 1 then 8 else if d = 2 then 16 else 4) * fanOut (d + 1) n

/-- For each level: its count, and the number of its instances within an instance of the level above. -/
def fans : Nat → List LevelRec → List (Nat × Nat)
  | _, [] => []
  | p, l :: t => (l.count, fanOut p (l.domain - p)) :: fans l.domain t

/-- Mixed-radix digits of an index over levels, the first level's most significant. -/
def digitsOf : List (Nat × Nat) → Nat → List Nat
  | [], _ => []
  | (_, _) :: t, i =>
    let below := t.foldl (fun n x => n * x.1) 1
    i / below :: digitsOf t (i % below)

/-- The number of the instance to which the node with an index is bound. -/
def bindNumber (fs : List (Nat × Nat)) (ds : List Nat) : Nat :=
  (fs.zip ds).foldl (fun n x => n * x.1.2 + x.2 % x.1.2) 0

/-- The domain instance with a number; the package list is named later. -/
def instOf (domain number : Nat) : Inst :=
  if domain = 0 then .package 0
  else if domain = 1 then .die number
  else if domain = 2 then .cluster number
  else if domain = 3 then .core number
  else .track (number / 4) (number % 4)

def instNumber : Inst → Nat
  | .package _ => 0 | .die n => n | .cluster n => n | .core n => n | .track c t => 4 * c + t
def instDomain : Inst → Nat
  | .package _ => 0 | .die _ => 1 | .cluster _ => 2 | .core _ => 3 | .track _ _ => 4

/-- The instance of a node of level `l` (or a leaf) with an index over levels 0 to l. -/
def LaunchRec.instAt (r : LaunchRec) (l i : Nat) : Inst :=
  let ls := r.levels.take (l + 1)
  let fs := fans 0 ls
  instOf ((ls.getLast?.map (·.domain)).getD 0) (bindNumber fs (digitsOf fs i))

/-- The residues that a level's digits must have for an instance number, last level first. -/
def residues : List (Nat × Nat) → Nat → List (Nat × Nat × Nat)
  | [], _ => []
  | (c, n) :: t, k => (c, n, k % n) :: residues t (k / n)

/-- The least digits with given residues. -/
def firstDigits : List (Nat × Nat × Nat) → Option (List Nat)
  | [] => some []
  | (c, _, r) :: t => if r < c then (firstDigits t).map (r :: ·) else none

/-- The least digits with given residues that are not below given ones. -/
def nextDigits : List ((Nat × Nat × Nat) × Nat) → Option (List Nat)
  | [] => some []
  | ((c, n, r), d) :: t =>
    let j := d + (r + n - d % n) % n
    let bump := fun (j : Nat) => if j < c then (firstDigits (t.map (·.1))).map (j :: ·) else none
    if j ≠ d then bump j
    else if c ≤ j then none
    else match nextDigits t with
      | some l => some (d :: l)
      | none => bump (d + n)

/-- The least index from `start` on whose node over the levels is bound to an instance (R37). -/
def nextIndex (levels : List LevelRec) (inst : Inst) (start : Nat) : Option Nat :=
  let fs := fans 0 levels
  let total := fs.foldl (fun n x => n * x.1) 1
  if total ≤ start then none
  else
    let rs := (residues fs.reverse (instNumber inst)).reverse
    (nextDigits (rs.zip (digitsOf fs start))).map fun ds => (fs.zip ds).foldl (fun n x => n * x.1.1 + x.2) 0

/-! Ready trips (R35, R48, R49). -/

/-- The queue that holds a trip bound to an instance: a track's trips wait in its core's. -/
def queueOf : Inst → Inst
  | .track c _ => .core c
  | .package d => .package d | .die n => .die n | .cluster n => .cluster n | .core n => .core n

/-- The cluster queue that a core's queue spills to. -/
def spillsTo : Inst → Option Inst
  | .core c => some (.cluster (clusterOf c))
  | .package _ => none | .die _ => none | .cluster _ => none | .track _ _ => none

def queueRoom : Inst → Nat
  | .core _ => 64
  | .package _ => Config.queueRoom | .die _ => Config.queueRoom | .cluster _ => Config.queueRoom | .track _ _ => 0

/-- Entries that a queue's own store holds: its own, and those its cores have spilled to it. -/
def State.queueLoad (s : State) (q : Inst) : Nat :=
  (s.ready.filter fun e => (e.place == 0 && queueOf e.trip.inst == q)
    || (e.place == 1 && spillsTo (queueOf e.trip.inst) == some q)).length

/-- Ready entries of a queue. -/
def State.queueLength (s : State) (q : Inst) : Nat := (s.ready.filter fun e => queueOf e.trip.inst == q).length

/-- A free slot of a context's spill area. -/
def State.spillSlot (s : State) (die ctx : Nat) : Option Nat :=
  let used := mget [] ctx s.spilled
  (span 0 (used.length + 1)).find? fun i => !used.contains i && decide (32 * (i + 1) ≤ (s.readDesc die ctx).spillSize.toNat)

/-- Where an entry of a queue goes now: its own store, the cluster's queue, or a slot of the spill area; none has room. -/
def State.placeFor (s : State) (t : Trip) (home : Nat) : Option (Nat × Nat) :=
  let q := queueOf t.inst
  if s.queueLoad q < queueRoom q then some (0, 0)
  else match spillsTo q with
    | some c => if s.queueLoad c < queueRoom c then some (1, 0) else (s.spillSlot home t.ctx).map fun i => (2, i)
    | none => (s.spillSlot home t.ctx).map fun i => (2, i)

/-- The handle of a parent in a trip record (R35): for a node 2^63 and its level and index, for a continuation its number. R35 calls the
handle opaque; this coding is the model's (DESIGN CHOICE, log entry 64). -/
def parentHandle : Parent → Nat
  | .root => 0
  | .node l p => 2 ^ 63 + l * 2 ^ 40 + p
  | .cont id => id

/-- A trip record (R35). -/
def tripBytes (t : Trip) (slot : Nat) : List Byte :=
  toBytes 8 t.code.toNat ++ toBytes 8 t.frame.toNat ++ toBytes 4 0
    ++ toBytes 4 (t.level + 8 * t.prio + 32 * t.gang.isSome.toNat + 64 * t.super.toNat + 128 * t.epilogue.toNat + 256 * slot)
    ++ toBytes 8 (parentHandle t.parent)

def State.setList (s : State) (pa : Nat) : List Byte → State
  | [] => s
  | b :: t => (s.setByte pa b).setList (pa + 1) t

def State.homeOf (s : State) (serial : Nat) : Nat := (s.launch? serial).elim 0 fun l => l.rec_.home

/-- Puts an entry in a place; one in the spill area has its record in memory. -/
def State.putReady (s : State) (e : Ready) (place : Nat × Nat) : State :=
  let s := { s with ready := s.ready ++ [{ e with place := place.1, slot := place.2 }] }
  if place.1 = 2 then
    let home := s.homeOf e.trip.serial
    let s := { s with spilled := mupd [] e.trip.ctx (fun l => place.2 :: l) s.spilled }
    s.setList ((s.readDesc home e.trip.ctx).spill.toNat + 32 * place.2) (tripBytes e.trip ((s.launch? e.trip.serial).elim 0 (·.slot)))
  else s

/-- Frees an entry's slot of the spill area. -/
def State.freeSlot (s : State) (e : Ready) : State :=
  if e.place = 2 then { s with spilled := mupd [] e.trip.ctx (fun l => l.erase e.slot) s.spilled } else s

/-- Where a new trip may be queued: nowhere while an older one that could not be queued waits in the continuation store (R49). -/
def State.roomFor (s : State) (t : Trip) (home : Nat) : Option (Nat × Nat) :=
  if s.ready.any fun x => x.place == 3 && queueOf x.trip.inst == queueOf t.inst then none else s.placeFor t home

/-- The home die tells its steward of a full spill area (R49). -/
def State.reportFull (s : State) (ctx : Nat) : State := { s with reports := s.reports ++ [.spillFull ctx] }

/-- Queues a trip that must be queued: where there is no room it stays in the continuation store, and the steward hears of it. -/
def State.enqueue (s : State) (t : Trip) : State :=
  let (n, s) := s.fresh
  let e : Ready := { seq := n, trip := t }
  match s.roomFor t (s.homeOf t.serial) with
  | some p => s.putReady e p
  | none => (s.putReady e (3, 0)).reportFull t.ctx

/-- The package list that a package-bound trip is dealt to next (R48). -/
def State.deal (s : State) (serial : Nat) (i : Inst) : State × Inst :=
  match i with
  | .package _ =>
    match s.launch? serial with
    | some l => (s.modLaunch serial fun l => { l with dealt := l.dealt + 1 }, .package ((l.rec_.home + l.dealt) % 4))
    | none => (s, i)
  | .die n => (s, .die n) | .cluster n => (s, .cluster n) | .core n => (s, .core n) | .track c t => (s, .track c t)

/-- A leaf trip's record (R34). -/
def leafTrip (serial : Nat) (l : Launch) (i : Nat) (inst : Inst) : Trip :=
  let r := l.rec_
  let last := r.levels.length - 1
  let n := (r.levels.getLast?.map (·.count)).getD 1
  let gang := (r.levels.getLast?.map (·.gang)).getD false
  { serial := serial, ctx := l.ctx, tag := r.tag, code := r.entry, frame := r.frameBase + BitVec.ofNat 64 (i * r.frameSize), levelidx := i,
    level := last, prio := r.prio, super := r.super, leaf := some i, gang := if gang then some (serial, i / n) else none,
    parent := if last = 0 then .root else .node (last - 1) (i / n), inst := inst, acquires := l.rels, scope := .system }

/-! Completions (R38, R39, R42). -/

/-- The scope of a level as an ordering scope. -/
def LaunchRec.scopeAt (r : LaunchRec) (l : Nat) : Scope := ((r.levels[l]?).bind fun x => Scope.ofCode x.scope).getD .system

/-- One more trigger counted, with its release (R45). -/
def State.countTrigger (s : State) (serial : Nat) (rels : List Rel) : State :=
  (s.modLaunch serial fun l =>
    { l with triggers := l.triggers + 1, trigRels := if l.triggers < l.rec_.early then rels ++ l.trigRels else l.trigRels }).noteStatus serial

/-- A leaf trip or level epilogue has completed with all its chain: it counts, and a leaf that has not triggered does (R26, R45). -/
def State.countChain (s : State) (t : Trip) (rels : List Rel) : State :=
  let s := s.modLaunch t.serial fun l => { l with completed := l.completed + 1 }
  match s.launch? t.serial, t.leaf with
  | some l, some i =>
    if t.epilogue || l.triggered.contains i then s.noteStatus t.serial
    else (s.modLaunch t.serial fun l => { l with triggered := insertNat i l.triggered }).countTrigger t.serial rels
  | _, _ => s.noteStatus t.serial

/-- One decrement of a parent with the releases that come with it; `n` bounds the chain it may go up. The continuation of a trip bound to the
package stays in the package list of that trip: R48 deals trips round robin, but does not say so of continuations (DESIGN CHOICE, log entry
79). -/
def State.decrement (s : State) (serial : Nat) (p : Parent) (rels : List Rel) : Nat → State
  | 0 => s
  | n + 1 =>
    match s.launch? serial with
    | none => s
    | some l =>
      match p with
      | .root =>
        s.modLaunch serial fun l => { l with root := l.root - 1, phase := if l.root ≤ 1 then .finishing else l.phase }
      | .node lv i =>
        let key := lv * 2 ^ 40 + i
        let children := ((l.rec_.levels[lv + 1]?).map (·.count)).getD 1
        let left := (mfind key l.nodes).getD children - 1
        let all := rels ++ mget [] key l.nodeRels
        let up : Parent := if lv = 0 then .root else .node (lv - 1) (i / ((l.rec_.levels[lv]?).map (·.count)).getD 1)
        if left ≠ 0 then s.modLaunch serial fun l => { l with nodes := mput key left l.nodes, nodeRels := mput key all l.nodeRels }
        else
          let s := s.modLaunch serial fun l => { l with nodes := mdel key l.nodes, nodeRels := mdel key l.nodeRels }
          let r := l.rec_
          match r.levels[lv]? with
          | none => s
          | some e =>
            if e.epilogue then
              let below := (r.levels.drop (lv + 1)).foldl (fun n x => n * x.count) 1
              let (s, inst) := s.deal serial (r.instAt lv i)
              s.enqueue
                { serial := serial, ctx := l.ctx, tag := r.tag, code := e.code
                  frame := r.frameBase + BitVec.ofNat 64 (i * below * r.frameSize), levelidx := i, level := lv, prio := r.prio
                  super := r.super, epilogue := true, parent := up, inst := inst, acquires := all, scope := r.scopeAt (lv + 1) }
            else s.decrement serial up (all.map fun x => { x with scope := r.scopeAt lv }) n
      | .cont id =>
        match mfind id s.conts with
        | none => s
        | some c =>
          let all := rels ++ c.rels
          if 1 < c.join then { s with conts := mput id { c with join := c.join - 1, rels := all } s.conts }
          else
            let s := { s with conts := mdel id s.conts }
            if c.code ≠ 0 then
              s.enqueue { c.trip with code := c.code, frame := c.frame, gang := none, acquires := all, scope := l.rec_.scopeAt c.trip.level }
            else
              let s := match c.trip.parent with
                | .cont _ => s
                | .root => s.countChain c.trip all
                | .node _ _ => s.countChain c.trip all
              s.decrement serial c.trip.parent all n

/-- The end of a trip that is not a chain's last: its continuation, or its parent, is decremented (R38, R42, R43). -/
def State.passCompletion (s : State) (t : Trip) (cont : Option Nat) (rels : List Rel) (clock : Clock) : State :=
  let s := s.modLaunch t.serial fun l => { l with doneClock := l.doneClock.join clock }
  let fuel := s.conts.length + 16
  match cont with
  | some id => s.decrement t.serial (.cont id) rels fuel
  | none =>
    let s := match t.parent with
      | .cont _ => s
      | .root => s.countChain t rels
      | .node _ _ => s.countChain t rels
    s.decrement t.serial t.parent rels fuel

end Sys2Proof.Machine
end

