-- ==== Sys2Proof/Machine/Work.lean ====
section
/-!
DEFINITION. The work instructions (R40 to R46, R236, R356, R363, R389, R414, R427, R446), and the device's moves that make, place and
start trips and complete launches (R27, R29, R31, R32, R36, R37, R47 to R51).
-/
namespace Sys2Proof.Machine

/-! The end of a trip. -/

/-- Stops the streams that a track owns (R43, R143). -/
def State.stopOwned (s : State) (core n : Nat) : State :=
  ((s.core core).streams.filter fun e => e.2.owner == n).foldl (fun s e => s.stopStream core e.1) s

/-- Ends every command that a track has on the engines, as CPY.ABORT ends one (R236). -/
def State.endCommands (s : State) (core n : Nat) : State :=
  let s := (span 0 8).foldl (fun s c => s.abortCopies core n c) s
  let mine := ((s.core core).gq.filter fun g => g.track == n).map (·.id)
  let s := s.modCore core fun k =>
    { k with gq := k.gq.filter fun g => g.track != n, cbkCmds := k.cbkCmds.filter fun g => g.track != n }
  { s with cores := s.cores.map fun (c, k) =>
      (c, { k with incoming := k.incoming.filter fun i => !(i.src == core && mine.contains i.cmd) }) }

/-- The track becomes idle: its trip's completion is a release at its level's scope (R39, R43). A trigger that is only counted now, since
the leaf trip executed no TRIGGER, releases to early dependants at that scope too: R45 names none (DESIGN CHOICE, log entry 65). -/
def State.endTrip (s : State) (core n : Nat) (killed : Bool) : State :=
  let s := s.withdraw core n killed
  let t := s.track core n
  match t.trip with
  | none => s
  | some tr =>
    let sc := (s.launch? tr.serial).elim .system fun l => l.rec_.scopeAt tr.level
    let w := { { s with cur := (core, n) }.who with clock := t.clock.join t.ended }
    let s := s.modTrack core n fun t =>
      { t with
          trip := none, cont := none, wait := none, strip := {}, fq := [], band := 0, bands := 0, held := 0, pending := [], records := []
          opaTraps := [], frames := [], entries := [], left := [], leftNotes := [], level := 0, acked := false, pmode := false, resume := none, escalated := false, launches := []
          inline := [], owed := none, touched := [], pendAcq := [], fenceRel := [], ended := [], clock := w.released }
    let s := s.modCore core fun k => if k.tracks.any fun e => e.2.trip.isSome then k else { k with ctx := none }
    let s := if killed then s.modLaunch tr.serial fun l => { l with killed := l.killed + 1 } else s
    s.passCompletion tr t.cont [⟨.core core, sc, w.released⟩] w.released

/-- Kills a track's trip (R236). -/
def State.killTrip (s : State) (core n : Nat) : State := ((s.endCommands core n).stopOwned core n).endTrip core n true

/-- SCTL.run of a core's die is clear (R274). -/
def State.runClear (s : State) (core : Nat) : Bool := !bitAt (s.stew (dieOf core) 0).toNat 0

/-! EXIT. -/

/-- Takes back an inline child's record (R41 step 3). The registers that it sets wait for loads of the child that are still to come. -/
def inlineReturn (ra : Word) (xd : Reg) (s : State) : Out :=
  let a := ra.toNat
  if s.me.stillLoads [1, 2, 3, 4, xd] then .wait .remote 0 s
  else (s.load a 8 0).out fun x1 s => (s.load (wrap (a + 8)) 8 0).out fun x2 s => (s.load (wrap (a + 16)) 8 0).out fun x3 s =>
    (s.load (wrap (a + 24)) 8 0).out fun x4 s => (s.load (wrap (a + 32)) 8 0).out fun pc s =>
      let w := fun (v : Nat) => BitVec.ofNat 64 v
      .goes (s.modMe fun t =>
        ({ ((((t.setX 1 (w x1)).setX 2 (w x2)).setX 3 (w x3)).setX 4 (w x4)) with inline := t.inline.drop 1, pc := w pc }).setX xd 1)

/-- Whether the writes of an output stream that a track owns are still on their way: stopping it waits for them (R143). -/
def State.stopWaits (s : State) (core n : Nat) : Bool :=
  !s.sentLanded core && (s.core core).streams.any fun e => e.2.owner == n && e.2.pat.dir == 1

/-- EXIT's own part: the trip ends, or is killed at trap level 1 and deeper, once its copies' writes in flight have landed (R150, R236), or an
inline child returns. -/
def exitBody (s : State) : Out :=
  if 1 ≤ s.me.level then if s.killHeld s.cur.1 s.cur.2 then .wait .abort 8 s else .goes (s.killTrip s.cur.1 s.cur.2)
  else match s.me.inline with
    | (ra, xd) :: _ => inlineReturn ra xd s
    | [] => if s.myCore.exitWaits s.cur.2 || s.stopWaits s.cur.1 s.cur.2 then .wait .exit 0 s else .goes ((s.stopOwned s.cur.1 s.cur.2).endTrip s.cur.1 s.cur.2 false)

def execExit (s : State) : Host.Outcome State Fault Refusal := perform .exit exitBody s

/-! SPAWN and CONT. -/

/-- The trip's continuation, made where there is none (R42). -/
def State.myCont (s : State) : Nat × State :=
  match s.me.cont, s.me.trip with
  | some id, _ => (id, s)
  | none, none => (0, s)
  | none, some tr =>
    let (id, s) := s.fresh
    (id, { s with conts := mput id { join := 1, trip := tr } s.conts }.modMe fun t => { t with cont := some id })

/-- The instance and the scope of a placement (R41). -/
def placeInst (core : Nat) : Place → Inst
  | .core => .core core
  | .cluster => .cluster (clusterOf core)
  | .die => .die (dieOf core)
def placeScope : Place → Scope
  | .core => .core
  | .cluster => .cluster
  | .die => .die

/-- Records that a core's spawn pool holds (R41, R414). -/
def State.spawned (s : State) (core : Nat) : Nat := (s.ready.filter fun e => e.spawnCore == some core).length

/-- The child runs at once on the spawning track (R41), once the registers that its record saves have come. -/
def spawnInline (d : Reg) (code frame : Word) (s : State) : Out :=
  if s.me.stillLoads [1, 2, 3, 4] then .wait .remote 0 s
  else
  let ra := wrap ((s.x 2).toNat - 40) / 8 * 8
  let vs := [s.x 1, s.x 2, s.x 3, s.x 4, s.me.pc + 4]
  (checks ra 5 s).out fun pas s =>
    let gs := (pas.zip vs).map fun (p, v) => (⟨p, v, BitVec.allOnes 64⟩ : Granule)
    match gs.findSome? fun g => s.storeWaits s.cur.1 g.pa g.mask.toNat with
    | some k => .wait k 0 s
    | none =>
      let (s, _, _) := performGranules s.cur.1 s.me.strip.notes gs s
      let at_ := BitVec.ofNat 64 ra
      .goes (s.modMe fun t =>
        { ((t.setX 2 at_).setX 3 frame).setX 4 at_ with pc := code, inline := (at_, d) :: t.inline })
where
  checks (va : Nat) : Nat → State → Try (List Nat)
    | 0, s => .ok [] s
    | n + 1, s => (s.check1 va 8 0).bind fun p s => (checks (wrap (va + 8)) n s).bind fun l s => .ok (p :: l) s

/-- SPAWN's own part (R41, R414). -/
def spawnBody (d a b : Reg) (p : Place) (s : State) : Out :=
  let code := s.x a
  let frame := s.x b
  let c := s.cur.1
  if fld code 1 0 ≠ 0 then faulty .align s code
  else match s.me.trip with
    | none => .done s
    | some tr =>
      let child := fun (id : Nat) (rels : List Rel) =>
        { tr with code := code, frame := frame, parent := .cont id, inst := placeInst c p, epilogue := tr.epilogue, gang := none,
                  acquires := rels, scope := placeScope p }
      match (if 64 ≤ s.spawned c then none else s.roomFor (child 0 []) (s.homeOf tr.serial)) with
      | none => spawnInline d code frame (if 64 ≤ s.spawned c then s else s.reportFull tr.ctx)
      | some place =>
        let (id, s) := s.myCont
        let rels := s.relsOf true (placeScope p)
        let s := { s with conts := mupd { join := 0, trip := tr } id (fun k => { k with join := k.join + 1 }) s.conts }
        let (n, s) := s.fresh
        let s := s.putReady { seq := n, trip := child id rels, spawnCore := some c } place
        .done (s.newTick.setX d 0)

def execSpawn (d a b : Reg) (p : Place) (s : State) : Host.Outcome State Fault Refusal :=
  perform (.spawn d a b p) (spawnBody d a b p) s

/-- CONT (R42, R356). -/
def execCont (a b : Reg) (s : State) : Host.Outcome State Fault Refusal :=
  perform (.cont a b) (fun s =>
    let code := s.x a
    let frame := s.x b
    if fld code 1 0 ≠ 0 then faulty .align s code
    else match s.me.trip with
      | none => .done s
      | some tr =>
        let (id, s) := s.myCont
        .done { s with conts := mupd { join := 1, trip := tr } id (fun k => { k with code := code, frame := frame }) s.conts }) s

/-! LAUNCH, TRIGGER, YIELD. -/

/-- LAUNCH (R44, R389). A user trip is one in user mode at the LAUNCH: R25 does not say whether it means that or the trip's own privilege
(DESIGN CHOICE, log entry 66). -/
def execLaunch (d a : Reg) (s : State) : Host.Outcome State Fault Refusal :=
  perform (.launch d a) (fun s =>
    let va := s.x a
    if va.toNat % 64 ≠ 0 then faulty .align s va
    else (s.readRecord va.toNat 32).out fun w s =>
      let r := launchRec w
      let ctx := s.me.ctxid
      let codes := r.fails ++ (if r.super && !s.me.super then [8] else []) ++ (if (s.predsOf r ctx).2 then [9] else [])
        ++ (if r.ctx ≠ 0 then [12] else [])
      if s.routeTested (dieOf s.cur.1) r.home then .wait .remote 0 s
      else if 256 ≤ (s.poolSlots r.home).length then .done (s.setX d 1)
      else match codes with
        | c :: t => .done (s.setX d (BitVec.ofNat 64 (0x100 + t.foldl min c)))
        | [] =>
          let (s', serial) := s.takeLaunch r ctx none s.me.launches [⟨s.myLoc, .system, s.who.released⟩] 0
          .done ((s'.modMe fun t => { t with launches := t.launches ++ [serial] }).newTick.setX d 0)) s

/-- TRIGGER (R45, R427): a release at package scope, and the first one of its leaf trip counts. -/
def execTrigger (s : State) : Host.Outcome State Fault Refusal :=
  perform .trigger (fun s =>
    let rels := s.relsOf true .package
    match s.me.trip with
    | none => .done s
    | some tr =>
      let s := s.newTick
      match tr.leaf, s.launch? tr.serial with
      | some i, some l =>
        if tr.epilogue || l.triggered.contains i then .done s
        else .done ((s.modLaunch tr.serial fun l => { l with triggered := insertNat i l.triggered }).countTrigger tr.serial rels)
      | _, _ => .done s) s

/-- Whether a YIELD is over: its cycles have passed, and each track it waits for has issued, from the cycle after it on, or has ceased to be
ready (R46). -/
def yieldOver (n : Nat) (s : State) : Bool :=
  match s.me.wait with
  | some w => decide (n ≤ w.cycles) && (s.yieldsTo s.cur.1 w).isEmpty
  | none => n == 0 && s.readyOthers.isEmpty

/-- YIELD's own part (R46, R446). -/
def yieldBody (n : Fin 32) (s : State) : Out := if yieldOver n.val s then .done s else .wait .yield 0 s

def execYield (n : Fin 32) (s : State) : Host.Outcome State Fault Refusal := perform (.yield n) (yieldBody n) s

/-- YIELD_END. -/
def execYieldEnd (core t : Nat) (s : State) : Host.Outcome State Fault Refusal :=
  resumeWait core t .yield (fun i s => match i with
    | .yield n => yieldBody n s
    | _ => .done s) s

/-! Host queues (R29, R31, R32). -/

def State.lqReg (s : State) (q off : Nat) : Word := mget (if off = 8 then 4#64 else 0#64) (q * 0x40 + off) s.lq
def State.setLq (s : State) (q off : Nat) (v : Word) : State := { s with lq := mput (q * 0x40 + off) v s.lq }

/-- What the host cores have released: their accesses before a record was queued (R30). -/
def State.hostReleased (s : State) : Rel := ⟨.host 0, .system, s.hostClocks.foldl (fun c h => c.join h.2) []⟩

/-- QUEUE_RECORD_READ (R25, R29). -/
def execQueueRecordRead (queue : Nat) (s : State) : Host.Outcome State Fault Refusal :=
  let st := s.lqReg queue 0x20
  let head := fld (s.lqReg queue 0x10) 31 0
  if !bitAt st.toNat 0 || head == fld (s.lqReg queue 0x18) 31 0 then .next s
  else
    let a := fld (s.lqReg queue 0) 51 12 * 4096 + head % 2 ^ fld (s.lqReg queue 8) 4 0 * 256
    let r := launchRec (s.bytes a 256)
    if 256 ≤ (s.poolSlots r.home).length then .next s
    else
      let ctx := r.ctx
      let bad := fun (c : Nat) (b : Bool) => if b then [c] else []
      let codes := r.fails ++ bad 8 (r.super && !bitAt st.toNat 1) ++ bad 9 (s.predsOf r ctx).2 ++ bad 11 (r.prio != queue)
        ++ bad 12 (!bitAt (s.readDesc r.home ctx).flags 0)
      let code := match codes with
        | c :: t => t.foldl min c
        | [] => 0
      let before := (s.launches.filter fun l => l.2.queue == some queue && !l.2.isOver).map (·.1)
      let (s, _) := s.takeLaunch r ctx (some queue) before [s.hostReleased] code
      let s := s.setLq queue 0x10 (BitVec.ofNat 64 ((head + 1) % 2 ^ 32))
      .next (if code = 0 then s else s.setLq queue 0x20 (setFld (s.lqReg queue 0x20) 15 8 code))

/-! Placement (R48, R50). -/

/-- The instances that a launch's leaf trips are bound to. -/
def LaunchRec.leafInsts (r : LaunchRec) : List Inst :=
  let d := (r.levels.getLast?.map (·.domain)).getD 0
  ((fans 0 r.levels).foldl (fun ns x => ns.flatMap fun n => (List.range (min x.1 x.2)).map fun k => n * x.2 + k) [0]).map (instOf d)

/-- Context, pool word and lane word of a trip's launch (R50). -/
def State.wordsOf (s : State) (core : Nat) (t : Trip) : Nat × Nat × Nat :=
  match s.launch? t.serial with
  | some l => (l.ctx, l.rec_.pool, l.rec_.lane)
  | none => (t.ctx, (s.core core).pool, (s.core core).lane)

/-- The core that serves a core's instance: itself, or the one the steward has mapped it to (R282). -/
def State.servedBy (s : State) (core : Nat) : Nat := mget core core s.hostMap

/-- Whether a domain instance holds a track. -/
def State.instHolds (s : State) (i : Inst) (core n : Nat) : Bool :=
  match i with
  | .package d => d == dieOf core
  | .die d => d == dieOf core
  | .cluster c => c == clusterOf core
  | .core c => s.servedBy c == core
  | .track c t => s.servedBy c == core && t == n

/-- Whether an idle track may take a trip (R48, R50). -/
def State.canTake (s : State) (core n : Nat) (t : Trip) : Bool :=
  let k := s.core core
  let me := k.track n
  !k.frozen && !k.removed && !k.departed && me.trip.isNone && !me.halted && s.instHolds t.inst core n
    && k.tracks.all fun (u, o) => u == n || (match o.trip with
      | none => true
      | some x => s.wordsOf core x == s.wordsOf core t)

/-- The members of a gang (R36). -/
def State.gangMembers (s : State) (g : Gang) : List Trip :=
  match s.launch? g.serial with
  | none => []
  | some l =>
    let n := (l.rec_.levels.getLast?.map (·.count)).getD 1
    (span (g.parent * n) n).map fun i => leafTrip g.serial l i (match g.inst with
      | .package d => (match l.rec_.instAt (l.rec_.levels.length - 1) i with
        | .package _ => .package d
        | x => x)
      | _ => l.rec_.instAt (l.rec_.levels.length - 1) i)

/-- Whether a member may be placed on a track: a package-bound one on any (R36). -/
def State.memberFits (s : State) (core n : Nat) (t : Trip) : Bool :=
  match t.inst with
  | .package _ => s.canTake core n { t with inst := .package (dieOf core) }
  | _ => s.canTake core n t

/-- Whether a gang became ready before another: ties go to the lower launch slot, then to the lower home die (R36). -/
def State.gangBefore (s : State) (a b : Gang) : Bool :=
  let key := fun (g : Gang) => [g.time, (s.launch? g.serial).elim 0 (·.slot), s.homeOf g.serial, g.parent]
  decide (key a < key b)

/-- The first of some gangs in the order of readiness. -/
def State.firstGang (s : State) (l : List Gang) : Option Gang :=
  l.foldl (fun best g => match best with
    | none => some g
    | some b => if s.gangBefore g b then some g else some b) none

/-- The gangs that expanders reserve tracks for: the first that waits at each instance (R36). For a gang of the package that is its home die's
expander, so that each of the four may have one: R36 does not say whether the package counts once (DESIGN CHOICE, log entry 78). -/
def State.heads (s : State) : List Gang :=
  s.gangs.filter fun g => s.firstGang (s.gangs.filter fun h => h.inst == g.inst) == some g

/-- The gang that a track is reserved for (R36). -/
def State.reservedFor (s : State) (core n : Nat) : Option Gang :=
  s.firstGang (s.heads.filter fun g => (s.gangMembers g).any fun t => s.memberFits core n t)

/-- The rank of a queue in the order of R48. -/
def queueRank : Inst → Nat
  | .track _ _ => 0 | .core _ => 0 | .cluster _ => 1 | .die _ => 2 | .package _ => 3

/-- R51: the class of a ready trip. -/
def Ready.cls (e : Ready) : Nat := min 3 (e.trip.prio + e.raised)

/-- Whether entry `a` goes before `b`: higher class, then the queue, then age. -/
def Ready.before (a b : Ready) : Bool :=
  if a.cls ≠ b.cls then b.cls < a.cls
  else if queueRank a.trip.inst ≠ queueRank b.trip.inst then queueRank a.trip.inst < queueRank b.trip.inst
  else a.seq < b.seq

/-- The trip that an idle track takes. -/
def State.nextTrip (s : State) (core n : Nat) : Option Ready :=
  (s.ready.filter fun e => e.place != 3 && s.canTake core n e.trip).foldl (fun best e => match best with
    | none => some e
    | some b => if e.before b then some e else some b) none

/-! Starting a trip (R47). -/

/-- Adds a core's energy to its context's descriptor, and clears it (R279). -/
def State.foldEnergy (s : State) (core : Nat) : State :=
  let k := s.core core
  match k.lastCtx with
  | none => s
  | some c =>
    let a := fld (s.stew (dieOf core) 0x18) 51 12 * 4096 + c * 64 + 0x30
    (s.setBytes a 6 (min (s.bytes a 6 + k.energy) (2 ^ 48 - 1))).modCore core fun k => { k with energy := 0 }

/-- Zeroes what a change of context zeroes: the grid, the pool, the codebooks, the crossings, the counters, the lag table, the sampler's
ring and the running byte counts (R75, R81, R127, R180, R297, R298, R463). -/
def State.wipeCore (s : State) (core : Nat) : State :=
  let mine := fun (pa : Nat) => scratchPa core 0 ≤ pa && pa < scratchPa (core + 1) 0
  let s := { s with
    mem := s.mem.filter fun e => !mine e.1
    poison := s.poison.filter fun e => !mine (e.1 * 64)
    rels := s.rels.filter fun e => !mine e.1
    jcts := s.jcts.filter fun e => !mine e.1 }
  s.modCore core fun k =>
    { k with
        grid := [], cbk := [], cross := [], crossRels := [], bytes6 := [], evc := [], lag := [], lagLost := 0, smphead := 0
        dirtyBlocks := span 0 256, dirtyRows := span 0 128, upsets := []
        tracks := k.tracks.map fun (u, t) => (u, { t with bytes5 := 0 }) }

/-- The core takes up a trip's context and words where no other track of it holds a trip (R50). -/
def State.takeContext (s : State) (core : Nat) (t : Trip) : State :=
  let k := s.core core
  if k.tracks.any fun e => e.2.trip.isSome then s
  else
    let s := if k.lastCtx = some t.ctx || k.lastCtx.isNone then s else (s.foldEnergy core).wipeCore core
    let (_, pool, lane) := s.wordsOf core t
    s.modCore core fun k => { k with ctx := some t.ctx, lastCtx := some t.ctx, pool := pool, lane := lane }

/-- The track state at a trip's start (R47, R113, R114, R231), with the context's descriptor as it stands then (R272); what a track keeps from trip to trip is its clock, its byte count and its
debug state. -/
def State.startTrip (s : State) (core n : Nat) (tr : Trip) : State :=
  let s := s.takeContext core tr
  let d := s.readDesc (dieOf core) tr.ctx
  let id := mget 0 tr.ctx s.tripCount
  let stack := match s.launch? tr.serial with
    | some l => l.rec_.stackBase + BitVec.ofNat 64 ((core * 4 + n + 1) * l.rec_.stackSize)
    | none => 0
  let s := { s with tripCount := mput tr.ctx ((id + 1) % 2 ^ 32) s.tripCount }
  let (_, s) := s.fresh
  s.modTrack core n fun o =>
    let t : Track :=
      { pc := tr.code, prio := tr.prio, super := tr.super, trip := some tr, tripid := id, levelidx := BitVec.ofNat 64 tr.levelidx
        ctxid := tr.ctx, desc := d, tvec := d.handler &&& ~~~3#64
        tstack := (d.tstack + BitVec.ofNat 64 ((core * 4 + n + 1) * d.tsize)) &&& ~~~63#64
        clock := Clock.join (mput (core * 4 + n) (mget 0 (core * 4 + n) o.clock + 1) o.clock) (acquired (.core core) tr.scope tr.acquires)
        region := mget 0 (core * 4 + n) o.clock + 2
        bytes5 := o.bytes5, haltReq := o.haltReq, haltWhy := o.haltWhy, stepsync := o.stepsync, cancelled := o.cancelled
        refused := o.refused }
    (t.setX 3 tr.frame).setX 2 stack

/-- TRIP_START (R48). -/
def execTripStart (core t : Nat) (s : State) : Host.Outcome State Fault Refusal :=
  if (s.reservedFor core t).isSome then .next s
  else match s.nextTrip core t with
    | none => .next s
    | some e => .next (({ s with ready := s.ready.filter fun x => x.seq != e.seq }.freeSlot e).startTrip core t e.trip)

/-- All the tracks of the package that may hold a member. -/
def allTracks : List (Nat × Nat) := (List.range 512).flatMap fun c => (span 0 4).map fun t => (c, t)

/-- Tracks for the members of a gang, each another one (R36). -/
def State.gangPlaces (s : State) (g : Gang) : List Trip → List (Nat × Nat) → Option (List (Trip × Nat × Nat))
  | [], _ => some []
  | t :: rest, used =>
    match allTracks.find? fun p => !used.contains p && s.memberFits p.1 p.2 t
        && (s.reservedFor p.1 p.2).any fun h => h.serial == g.serial && h.parent == g.parent with
    | none => none
    | some p => (s.gangPlaces g rest (p :: used)).map fun l => (t, p.1, p.2) :: l

/-- GANG_START: all the members of a gang start together. -/
def execGangStart (serial parent : Nat) (s : State) : Host.Outcome State Fault Refusal :=
  match s.gangs.find? fun g => g.serial == serial && g.parent == parent with
  | none => .next s
  | some g =>
    match s.gangPlaces g (s.gangMembers g) [] with
    | none => .next s
    | some l =>
      let s := { s with gangs := s.gangs.filter fun x => !(x.serial == serial && x.parent == parent) }
      .next (l.foldl (fun s x => s.startTrip x.2.1 x.2.2 x.1) s)

/-! The home die and the expanders. -/

/-- Whether a launch may start (R31, R32). -/
def State.mayStart (s : State) (serial : Nat) (l : Launch) : Bool :=
  l.phase == .pending
    && (l.preds.all fun p => match s.launch? p.1 with
      | some x => x.isOver || (p.2 && decide (x.rec_.early ≤ x.triggers))
      | none => true)
    && (!l.rec_.afterAll || l.after.all fun a => (s.launch? a).elim true (·.isOver))
    && (l.queue.isNone || s.launches.all fun x => !(x.2.queue == l.queue && x.1 < serial && x.2.phase == .pending))
    && l.rec_.leafInsts.any fun i =>
      let t := leafTrip serial l 0 i
      allTracks.any fun p => (s.reservedFor p.1 p.2).isNone && s.memberFits p.1 p.2 t

/-- What a launch's predecessors release to its trips (R44, R45). -/
def State.predRels (s : State) (l : Launch) : List Rel :=
  l.preds.flatMap fun p => match s.launch? p.1 with
    | none => []
    | some x => (if x.isOver then [⟨.die x.rec_.home, .system, x.doneClock⟩] else []) ++ (if p.2 then x.trigRels else [])

/-- LAUNCH_START: its first trip can be placed (R31). -/
def execLaunchStart (serial : Nat) (s : State) : Host.Outcome State Fault Refusal :=
  match s.launch? serial with
  | none => .next s
  | some l =>
    if s.mayStart serial l then
      let rels := l.rels ++ s.predRels l
      .next ((s.modLaunch serial fun l => { l with phase := .started, rels := rels }).noteStatus serial)
    else .next s

/-- A number for an instance. -/
def instKey : Inst → Nat
  | .package _ => 0 | .die n => 1 + n | .cluster n => 16 + n | .core n => 64 + n | .track c t => 1024 + 4 * c + t

/-- EXPANDER_PUSH: an instance's expander makes the next record of a launch that is bound to it (R37), or the next gang (R36). R37 does not
say how gangs count toward its 16 ready entries: 16 gangs may wait at each parent instance, and no member is a ready entry (DESIGN CHOICE,
log entry 67). -/
def execExpanderPush (serial : Nat) (at_ : Inst) (s : State) : Host.Outcome State Fault Refusal :=
  match s.launch? serial with
  | none => .next s
  | some l =>
    let r := l.rec_
    let gang := (r.levels.getLast?.map (·.gang)).getD false
    let levels := if gang then r.levels.dropLast else r.levels
    let d := (levels.getLast?.map (·.domain)).getD 0
    let turn := match at_ with
      | .package x => x == (if gang then r.home else (r.home + l.dealt) % 4)
      | _ => true
    if l.phase != .started || instDomain at_ != d || !turn then .next s
    else match nextIndex levels at_ (mget 0 (instKey at_) l.cursor) with
      | none => .next s
      | some i =>
        let next := fun (s : State) => s.modLaunch serial fun l => { l with cursor := mput (instKey at_) (i + 1) l.cursor }
        if gang then
          if 16 ≤ (s.gangs.filter fun g => g.inst == at_).length then .next s
          else .next (next { s with gangs := s.gangs ++ [⟨serial, i, at_, s.time⟩] })
        else if 16 ≤ s.queueLength (queueOf at_) then .next s
        else
          let t := leafTrip serial l i at_
          match s.roomFor t r.home with
          | none => .next (s.reportFull l.ctx)
          | some p =>
            let (n, s) := s.fresh
            let (s, _) := s.deal serial at_
            .next (next (s.putReady { seq := n, trip := t } p))

/-- AGING_THRESHOLD: a ready trip that has waited one threshold rises a class (R51), after the older ones of its launch that are bound to its
instance, which start before it (R37). The threshold is the SAGE of the launch's home die,
whichever die's queue holds the trip: R51 does not say which (DESIGN CHOICE, log entry 68). -/
def execAgingThreshold (seq : Nat) (s : State) : Host.Outcome State Fault Refusal :=
  .next { s with ready := s.ready.map fun e =>
    let sage := fld (s.stew (s.homeOf e.trip.serial) 0x28) 31 0
    let behind := s.ready.any fun x =>
      decide (x.seq < e.seq) && x.trip.serial == e.trip.serial && x.trip.inst == e.trip.inst && decide (x.cls ≤ e.cls)
    if e.seq = seq && sage ≠ 0 && decide (sage ≤ e.waited) && decide (e.cls < 3) && !behind then
      { e with raised := e.raised + 1, waited := e.waited - sage } else e }

/-- SPILL_RETURN: the oldest entry of a queue that is not in its own store moves up as room returns, and the oldest of the continuation store
enters its queue, or what that has spilled to (R49). -/
def execSpillReturn (seq : Nat) (s : State) : Host.Outcome State Fault Refusal :=
  match s.ready.find? fun e => e.seq == seq && e.place != 0 with
  | none => .next s
  | some e =>
    let older := s.ready.any fun x => x.place != 0 && (e.place != 3 || x.place == 3) && x.seq < e.seq && queueOf x.trip.inst == queueOf e.trip.inst
    let s' := { s with ready := s.ready.filter fun x => x.seq != seq }.freeSlot e
    if older then .next s
    else match s'.placeFor e.trip (s.homeOf e.trip.serial) with
      | none => .next s
      | some p => if p.1 ≠ 0 && e.place ≠ 3 then .next s else .next (s'.putReady e p)

/-- LAUNCH_COMPLETE: the final status block, the junction, and the pool's record (R27), or what of it has had to wait. -/
def execLaunchComplete (serial : Nat) (s : State) : Host.Outcome State Fault Refusal :=
  match s.launch? serial with
  | none => .next s
  | some l => .next (if l.phase = .finishing || l.todo.isSome then s.finishWrites serial (l.todo.getD 0) else s)

/-- STEWARD_WRITE_RETRY: a completion write that faulted is made again (R27). -/
def execStewardWriteRetry (serial : Nat) (s : State) : Host.Outcome State Fault Refusal :=
  match (s.launch? serial).bind (·.held) with
  | some (_, _, j) => .next (s.finishWrites serial (if j then 1 else 0))
  | none => .next s

/-- STEWARD_WRITE_DISCARD: it is not made, and the device goes on. -/
def execStewardWriteDiscard (serial : Nat) (s : State) : Host.Outcome State Fault Refusal :=
  match (s.launch? serial).bind (·.held) with
  | some (_, _, j) => .next (s.finishWrites serial (if j then 2 else 1))
  | none => .next s

end Sys2Proof.Machine
end

