-- ==== Sys2Proof/Machine/Images.lean ====
section
/-!
DEFINITION. Waypoint images (R246 to R269, R372, R381, R421, R456): freezing, the seal, thawing and vacating, the image's layout, and the
image engines.
-/
namespace Sys2Proof.Machine

/-! Freezing and the seal (R248 to R253). -/

/-- Requests of a core that have no answer yet (R250); a meeting's forwarded arrival is the synchronisation engine's. -/
def State.outstanding (s : State) (core : Nat) : Bool :=
  s.requests.any (fun r => r.2.core == core && r.2.answer.isNone && r.2.kind != 7)
    || (s.core core).tracks.any fun e => e.2.pending.any fun p => !p.landed

/-- The sequence number of the image that a core's image events concern (R301): a running save's or load's, the last of its freeze, or its
reference (log entry 69). -/
def State.imageNumber (s : State) (core : Nat) : Nat :=
  let k := s.core core
  match (s.cluster (clusterOf core)).images.find? (fun g => g.core == core && g.running), k.freezeImages.getLast?, k.reference with
  | some g, _, _ => g.seqNo
  | none, some n, _ => n
  | none, none, some r => r.1
  | none, none, none => 0

/-- A trace-port record of an image event of a core. -/
def State.emitImage (s : State) (core kind : Nat) : State :=
  s.emitCore core kind 0 ((s.core core).ctx.getD 0) (BitVec.ofNat 64 (s.imageNumber core))

/-- A core's clock stops: the hold notices of its link-in streams are on their way (R248, R250, R252). -/
def State.freeze (s : State) (core : Nat) : State :=
  let s := s.modCore core fun k =>
    { k with
        frozen := true, sealed := false, restored := false, freezeNo := k.freezeNo + 1, freezeTime := s.time, freezeImages := []
        holds := (k.streams.filter fun e => e.2.pat.dir == 3 && e.2.linked).map (·.1) }
  s.emitImage core 0x10

/-- The target of an image instruction, where it names a core (R247). -/
def imgTarget (a : Word) : Option Nat := if a.toNat < 512 then some a.toNat else none

/-- FREEZE's own part: the request is on its way until FREEZE_ARRIVAL says that it has stopped the core (R248, R372). -/
def freezeBody (d a : Reg) (s : State) : Out :=
  if !s.me.super then faulty .priv s
  else match imgTarget (s.x a) with
    | none => faulty .illegal s
    | some c =>
      if c = s.cur.1 then faulty .illegal s
      else
        let mine : Bool := match s.me.wait with
          | some w => w.kind == .freeze && w.others == [1]
          | none => false
        if mine then .done (s.setX d 0)
        else if (s.core c).frozen then .done (s.setX d 1)
        else .wait .freeze c s

def execFreeze (d a : Reg) (s : State) : Host.Outcome State Fault Refusal := perform (.freeze d a) (freezeBody d a) s

/-- The tracks that wait for a core to freeze, with their places in the order of waits. -/
def State.freezers (s : State) (core : Nat) : List (Nat × Nat × Nat) :=
  s.cores.flatMap fun (c, k) => k.tracks.filterMap fun (n, t) => match t.wait with
    | some w => if w.kind = .freeze ∧ w.obj = core ∧ w.others = [] then some (w.seq, c, n) else none
    | none => none

/-- A steward's own operation gives it a status (R247). -/
def State.answerSteward (s : State) (core code : Nat) : State := { s with reports := s.reports ++ [.answer core code] }

/-- FREEZE_ARRIVAL: a stop request reaches a core: the oldest FREEZE's, or the steward's where none waits, which learns FROZEN or, of a core
that is frozen already, ALREADY. -/
def execFreezeArrival (core : Nat) (s : State) : Host.Outcome State Fault Refusal :=
  if (s.core core).frozen then .next (if (s.freezers core).isEmpty then s.answerSteward core 1 else s)
  else
    let first := (s.freezers core).foldl (fun (b : Option (Nat × Nat × Nat)) x => match b with
      | none => some x
      | some y => if x.1 < y.1 then some x else some y) none
    if first.any fun x => s.routeTested (dieOf x.2.1) (dieOf core) then .next s
    else
    let s := match first with
      | none => s.answerSteward core 0
      | some (_, c, n) => s.modTrack c n fun t => { t with wait := t.wait.map fun (w : Wait) => { w with others := [1] } }
    .next (s.freeze core)

/-- IMAGE_SEAL (R250). -/
def execImageSeal (core : Nat) (s : State) : Host.Outcome State Fault Refusal :=
  let k := s.core core
  if k.frozen && !s.tripped && !k.sealed && !s.outstanding core && k.holds.isEmpty then
    .next ((s.modCore core fun k => { k with sealed := true }).emitImage core 0x11)
  else .next s

/-- Changes the partner of a link-in stream. -/
def State.modPartner (s : State) (core q : Nat) (f : Stream → Stream) : State :=
  match (mfind q (s.core core).streams).bind (·.partner) with
  | none => s
  | some (c, r) => match mfind r (s.core c).streams with
    | none => s
    | some o => s.modCore c fun k => { k with streams := mput r (f o) k.streams }

/-- Whether what a link's ends tell each other waits for the test of a Causeway link (R281). -/
def State.partnerFar (s : State) (core q : Nat) : Bool :=
  ((mfind q (s.core core).streams).bind (·.partner)).any fun p => s.routeTested (dieOf core) (dieOf p.1)

/-- HOLD_NOTICE (R252). -/
def execHoldNotice (core : Nat) (q : Q8) (s : State) : Host.Outcome State Fault Refusal :=
  .next (if (s.core core).frozen && (s.core core).holds.contains q.val && !s.partnerFar core q.val then
    s.modPartner core q.val fun o => { o with held := true, heldAck := true } else s)

/-- HOLD_ACK: the flits sent before the notice have landed (R252); a partner that is no longer configured has none. -/
def execHoldAck (core : Nat) (q : Q8) (s : State) : Host.Outcome State Fault Refusal :=
  let k := s.core core
  let ready := match (mfind q.val k.streams).bind (·.partner) with
    | none => true
    | some (c, r) => match mfind r (s.core c).streams with
      | none => true
      | some o => o.heldAck && o.inFlight.isEmpty
  if k.frozen && ready && !s.partnerFar core q.val then .next (s.modCore core fun k => { k with holds := k.holds.filter (· ≠ q.val) }) else .next s

/-- RELEASE_NOTICE: at thaw or at restore the partner may push again, with credits for the buffer's free space (R252, R266). -/
def execReleaseNotice (core : Nat) (q : Q8) (s : State) : Host.Outcome State Fault Refusal :=
  let k := s.core core
  match mfind q.val k.streams with
  | none => .next s
  | some st =>
    if (k.frozen && !k.restored) || st.pat.dir ≠ 3 || (st.partner.any fun p => (s.core p.1).frozen) || s.partnerFar core q.val then .next s
    else .next (s.modPartner core q.val fun o => if o.held then
      { o with held := false, heldAck := false, credits := k.refillRoom st.pat - st.buffer.length - o.inFlight.length } else o)

/-- FROZEN_CORE_RETRY: the sender of a request that a frozen core answered with a retry reissues it (R251). -/
def execFrozenCoreRetry (core t : Nat) (s : State) : Host.Outcome State Fault Refusal :=
  match (s.track core t).wait with
  | some w => if w.kind = .frozenCore then .next (s.modTrack core t fun u => { u with wait := some { w with kind := .remote } }) else .next s
  | none => .next s

/-! Thawing and vacating (R249, R421). -/

/-- A wait goes on after a freeze: a VWAIT evaluates every element again (R214), a TLBINV begins again (R423), and an XF.LOAD reads its record
again and takes its place anew (R444). -/
def Track.waitsAnew (place : Nat) (t : Track) : Track :=
  match t.wait with
  | some w =>
    { t with
        graph := none
        wait := if w.kind = .tlb then none
          else some { w with again := w.again || w.kind == .vwait, seq := if w.kind = .xfload then place else w.seq } }
  | none => t

/-- What has landed in the arrival buffer reaches the tracks as the clock restarts. -/
def Core.landLoads (place : Nat) (k : Core) : Core :=
  { k with tracks := k.tracks.map fun (n, t) =>
      (n, ((t.pending.filter (·.landed)).foldl Track.landLoad t).waitsAnew (place + n)) }

/-- The clock restarts. -/
def State.restart (s : State) (core : Nat) : State :=
  { s with nextId := s.nextId + 4 }.modCore core fun k =>
    { k.landLoads s.nextId with frozen := false, sealed := false, restored := false, freezeImages := [], holds := [] }

/-- Whether an image of the core's current freeze holds a track's trip (R249). -/
def State.imageHolds (s : State) (core n : Nat) : Bool :=
  (s.core core).freezeImages.any fun i => match mfind i s.images with
    | none => false
    | some img => (img.core.track n).trip.isSome && (img.core.track n).tripid == (s.track core n).tripid
        && (img.core.track n).ctxid == (s.track core n).ctxid

/-- Whether an image of the core's current freeze holds the context of its ENERGY (R279, R456). -/
def State.imageHoldsCtx (s : State) (core : Nat) : Bool :=
  (s.core core).freezeImages.any fun i => match mfind i s.images with
    | none => false
    | some img => img.core.lastCtx.isSome && img.core.lastCtx == (s.core core).lastCtx

/-- The flits that the router has accepted from a core's link-out streams reach their partners (R250). -/
def State.leaveFlits (s : State) (core : Nat) : State :=
  (s.core core).streams.foldl (fun s e => match e.2.partner with
    | none => s
    | some (c, r) =>
      if c = core ∨ e.2.inFlight = [] then s
      else s.modCore c fun k => match mfind r k.streams with
        | none => k
        | some o => { k with streams := mput r { o with buffer := o.buffer ++ e.2.inFlight } k.streams }) s

/-- A core with no trip and no context; what stays is what belongs to the core itself, its reference (R262) and its tracks' sticky debug
status (R285) among it. -/
def Core.bare (k : Core) : Core :=
  { stopped := k.stopped, dbg := k.dbg, frozen := k.frozen, freezeNo := k.freezeNo, freezeTime := k.freezeTime, tlb := k.tlb,
    banksFailed := k.banksFailed, removed := k.removed, reference := k.reference, loadNo := k.loadNo
    debugWait := k.debugWait, dirtyBlocks := span 0 256, dirtyRows := span 0 128
    tracks := k.tracks.map fun (n, t) =>
      (n, { clock := t.clock, haltReq := t.haltReq, haltWhy := t.haltWhy, stepsync := t.stepsync
            cancelled := t.cancelled, refused := t.refused }) }

/-- Vacates a core: trips that no image holds are killed (R236, R249); where `held` is false none counts as held. -/
def State.vacate (s : State) (core : Nat) (held : Bool) : State :=
  let fold := !(held && s.imageHoldsCtx core)
  let s := (s.core core).tracks.foldl (fun s e =>
    if e.2.trip.isNone || (held && s.imageHolds core e.1) then s else s.killTrip core e.1) s
  let s := if fold then s.foldEnergy core else s
  let s := (s.leaveFlits core).wipeCore core
  { s with requests := s.requests.filter fun r => r.2.core != core }.setCore core (s.core core).bare

/-- A save or load of the core is queued or streaming. -/
def State.imgQueued (s : State) (core : Nat) : Bool := (s.cluster (clusterOf core)).images.any fun g => g.core == core

/-- A load onto the core is paused. -/
def State.loadPaused (s : State) (core : Nat) : Bool := (s.cluster (clusterOf core)).paused.any fun g => g.core == core && g.load

/-- Ends the paused commands of a core that `which` selects: a resume finds them no longer (R261). -/
def State.endPaused (s : State) (core : Nat) (which : ImgCmd → Bool) : State :=
  s.modCluster (clusterOf core) fun c => { c with paused := c.paused.filter fun g => !(g.core == core && which g) }

/-- A band of the core's MAC rows is under test, so the core stays frozen (R281). -/
def State.bandTested (s : State) (core : Nat) : Bool := s.testing.any fun u => match u with
  | .macBand c _ => c == core
  | _ => false

/-- THAW on a target: the status (R249, R421). A core under test, or stopped by a thermal trip, which only a module reset lifts, is BUSY
(R275, R281; log entry 69). -/
def State.thaw (s : State) (core : Nat) (vacate : Bool) : State × Nat :=
  let k := s.core core
  if s.runClear core || s.tripped || s.bandTested core then (s, 2)
  else if !k.frozen then (s, 1)
  else if s.imgQueued core || (!vacate && s.loadPaused core) || (vacate && s.outstanding core) then (s, 2)
  else if !vacate && k.departed then (s, 3)
  else
    let held := !s.loadPaused core
    let s := (s.endPaused core fun _ => true).emitImage core 0x14
    ((if vacate then s.vacate core held else s).restart core, 0)

/-- The shared part of THAW and THAW.V. -/
def thawBody (vacate : Bool) (d a : Reg) (s : State) : Out :=
  if !s.me.super then faulty .priv s
  else match imgTarget (s.x a) with
    | none => faulty .illegal s
    | some c =>
      let (s, code) := s.thaw c vacate
      .done (s.setX d (BitVec.ofNat 64 code))

def execThaw (d a : Reg) (s : State) : Host.Outcome State Fault Refusal := perform (.thaw d a) (thawBody false d a) s
def execThawV (d a : Reg) (s : State) : Host.Outcome State Fault Refusal := perform (.thawV d a) (thawBody true d a) s

/-! IMG.SAVE and IMG.LOAD (R259, R260, R264, R381). -/

/-- A record that breaks R259 or R264. -/
def imgRecordBad (load : Bool) (w : Nat) : Bool :=
  let f := fun (o n : Nat) => recField w o n
  if load then decide (2 ≤ f 0x28 4) || f 0x38 8 % 64 != 0
  else f 0 8 % 4096 != 0 || f 8 8 % 4096 != 0 || decide (2 ≤ f 0x1C 4) || f 0x20 8 % 64 != 0 || f 0x2C 4 != 0

/-- The engine as an agent in its command's context, whose windows serve it (R179, R259); a steward's own command has none. -/
def ImgCmd.who (g : ImgCmd) : Who :=
  { core := g.issuer, ctx := g.ctx, super := g.super, desc := g.desc, agent := g.id, clock := g.clock
    engine := some (512 + clusterOf g.issuer, 0), fromDie := g.steward
    outside := !g.steward, plain := g.steward }

/-- The record belongs to the command's region as long as it runs: the issuer that changes it races (R381). -/
def State.ownRecord (s : State) (g : ImgCmd) : State :=
  match s.peek s.who g.record.toNat .read with
  | none => s
  | some pa => (span 0 8).foldl (fun s i => s.enter g.who (pa + 8 * i) 8 true false false) s

/-- The shared part of IMG.SAVE and IMG.LOAD. -/
def imgBody (load : Bool) (d a b : Reg) (s : State) : Out :=
  if !s.me.super then faulty .priv s
  else match imgTarget (s.x a) with
    | none => faulty .illegal s
    | some c =>
      let va := s.x b
      if c = s.cur.1 then faulty .illegal s
      else if va.toNat % 64 ≠ 0 then faulty .align s va
      else (s.readRecord va.toNat 8).out fun w s =>
        if s.imgQueued c || (!load && s.loadPaused c) || s.runClear c then .done (s.setX d 1)
        else if !(s.core c).frozen then .done (s.setX d 2)
        else if imgRecordBad load w then .done (s.setX d 3)
        else
          let (id, s) := s.fresh
          let t := s.me
          let g : ImgCmd :=
            { id := id, core := c, load := load, record := va, data := w, ctx := t.ctxid, super := t.super, issuer := s.cur.1,
              desc := s.me.desc, clock := s.who.released }
          .done (((s.ownRecord g).newTick.modCluster (clusterOf c) fun k => { k with images := k.images ++ [g] }).setX d 0)

def execImgSave (d a b : Reg) (s : State) : Host.Outcome State Fault Refusal := perform (.imgSave d a b) (imgBody false d a b) s
def execImgLoad (d a b : Reg) (s : State) : Host.Outcome State Fault Refusal := perform (.imgLoad d a b) (imgBody true d a b) s

/-! The image (R254 to R258, R263). -/

/-- Fills up with zeros to `n` bytes. -/
def padTo (n : Nat) (l : List Byte) : List Byte := l ++ List.replicate (n - l.length) 0

/-- The elements of a grid command that are done (R256): for an OPA its updates landed; else a mask of the elements of the row in progress,
or for a command that moves whole rows of its rows (log entry 37). -/
def GridCmd.doneMask (g : GridCmd) : Nat :=
  match g.op with
  | .opa _ _ _ _ _ _ _ _ _ _ => g.done
  | .fill et _ => 2 ^ (g.done % (if et = .fp64 then 64 else 128)) - 1
  | .drain _ _ _ _ _ _ => 2 ^ min g.done 128 - 1
  | .save _ => 2 ^ (g.done % 128) - 1
  | .load _ => 2 ^ (g.done % 128) - 1
  | .zero => 2 ^ min (4 * g.done) 128 - 1
  | .park _ => 2 ^ min g.done 128 - 1
  | .unpark _ => 2 ^ min g.done 128 - 1
  | .send _ _ => 2 ^ min g.done 128 - 1

/-- The mask register of a vector access to memory. -/
def instrMask : Instr → MReg
  | .vld _ _ _ _ p => p.mask | .vldx _ _ _ _ p => p.mask | .vldff _ _ _ _ p => p.mask
  | .vst _ _ _ cv => cv.mask | .vstx _ _ _ cv => cv.mask | .vatom _ _ _ _ _ _ _ _ p => p.mask
  | _ => 0

/-- The elements that a waiting instruction has done: those before the one whose access waits. -/
def Track.doneMask (t : Track) : Nat :=
  match t.wait with
  | some w =>
    if (w.kind = .heldByte ∨ w.kind = .remote ∨ w.kind = .frozenCore) ∧ groupsOf w.instr 128 ≠ 0 then
      maskOf (fun i => t.active (instrMask w.instr) i && decide (i < t.awaitedElem.getD 0)) |>.toNat
    else 0
  | none => 0

/-- The work of a track in flight (R256): an EXIT that waits (R363), else its oldest grid command that is part done, else its waiting
instruction: the PC, and what is done. -/
def Core.inFlight (k : Core) (n : Nat) : Word × Nat :=
  let t := k.track n
  if t.wait.any (·.instr == .exit) then (t.pc, 0)
  else match k.gq.find? fun g => g.track == n && g.entered with
    | some g => (g.fpc, g.doneMask)
    | none => if t.wait.isSome then (t.pc, t.doneMask) else (0, 0)

/-- A track block (R256). -/
def Image.trackBlock (img : Image) (n : Nat) : List Byte :=
  let t := img.core.track n
  let w := fun (v : Word) => toBytes 8 v.toNat
  let inFlight := img.core.inFlight n
  let flags := t.trip.isSome.toNat + 2 * t.escalated.toNat + 4 * t.halted.toNat + 8 * t.wait.isSome.toNat + 16 * t.super.toNat
  padTo 4096 (
    w t.pc ++ (t.x.toList.drop 1).flatMap w ++ (t.m.toList.drop 1).flatMap (fun m => toBytes 16 m.toNat)
      ++ toBytes 8 t.vl ++ toBytes 8 t.vlmax ++ w t.sbase ++ w t.srseed ++ w t.arith ++ toBytes 8 t.prio ++ toBytes 8 t.gridown
      ++ toBytes 8 t.fq.length ++ padTo 32 (t.fq.flatMap fun f => toBytes 4 f.toNat) ++ toBytes 8 flags
      ++ toBytes 8 (if t.trip.isSome then Config.recordAddr t.tripid else 0)
      ++ toBytes 8 (match t.cont with
        | some id => Config.contAddr id
        | none => 0)
      ++ toBytes 8 t.tripid ++ w t.levelidx ++ toBytes 8 0
      ++ w t.tcause ++ w t.taddr ++ w t.tepc ++ w t.tfpc ++ w t.telem ++ toBytes 8 (t.level + 32 * t.acked.toNat + 64 * t.pmode.toNat)
      ++ w t.tvec ++ w t.tstack ++ padTo 64 (t.tsave.flatMap w)
      ++ padTo 64 ((t.barriers.take 4).flatMap fun b => toBytes 8 b.1 ++ toBytes 4 (b.2.getD 0) ++ toBytes 4 1)
      ++ w (if t.strip.isOpen then t.strip.start.pc else t.pc) ++ w inFlight.1 ++ toBytes 16 inFlight.2)

/-- The core block (R255). -/
def Image.coreBlock (img : Image) : List Byte :=
  let k := img.core
  let busy := (span 0 128).foldl (fun m r => if k.busy r then m + 2 ^ r else m) 0
  padTo 4096 (toBytes 8 k.lane ++ toBytes 8 k.pool ++ (span 0 8).flatMap (fun i => toBytes 1 (mget 0 i k.cross)) ++ toBytes 8 k.energy
    ++ toBytes 8 img.race.toNat ++ toBytes 8 (k.ctx.getD 0) ++ toBytes 16 busy
    ++ (span 0 16).flatMap fun i => toBytes 8 (mget 0 i k.evc).toNat)

/-- A stream register (R255). -/
def Image.streamBlock (img : Image) (q : Nat) : List Byte :=
  match mfind q img.core.streams with
  | none => List.replicate 256 0
  | some st =>
    let ix := match st.index with
      | some (a, _) => (a.toNat, st.pat.counts.getD 1 0)
      | none => (0, 0)
    let p := st.partner.getD (0, 0)
    padTo 256 (padTo 64 st.record ++ toBytes 8 ix.1 ++ toBytes 8 ix.2 ++ toBytes 8 st.pos ++ toBytes 1 (st.owner + 1) ++ toBytes 1 p.2
      ++ toBytes 2 p.1 ++ toBytes 4 (1 + 2 * st.linked.toNat + 4 * st.told.toNat + 8 * st.cut.toNat))

/-- A copy channel (R255). -/
def Image.chanBlock (img : Image) (c : Nat) : List Byte :=
  let ch := mget {} c img.core.chans
  let told := match ch.queue with
    | g :: _ => if g.faulted then g.record3 else none
    | [] => none
  padTo 512 (padTo 0x140 ((ch.queue.take 5).flatMap fun g => padTo 63 (g.record.take 63) ++ toBytes 1 g.track)
    ++ toBytes 8 (img.miles.getD c 0).toNat ++ toBytes 8 ((ch.queue.head?.map (·.done)).getD 0)
    ++ (match told with
      | some r => toBytes 8 r.1.toNat ++ toBytes 8 r.2.1.toNat ++ toBytes 8 r.2.2.toNat
      | none => []))

/-- The parts from offset 0x11_4000 on. -/
def Image.tail (img : Image) : List Byte :=
  (span 0 4).flatMap img.trackBlock ++ img.coreBlock
    ++ (List.range 8192).map (fun i => mget 0 i img.core.cbk)
    ++ (span 0 8).flatMap img.streamBlock ++ (span 0 8).flatMap img.chanBlock ++ List.replicate 2048 0

/-- Where the parts of the pool begin that the device uses for itself (R74). -/
def Core.ownFrom (k : Core) : Nat := if k.ctx.isSome then k.pool % 16 * 0x10000 + k.parks * 20480 else 0xF0000
def Image.poolBytes (img : Image) (from_ n : Nat) : List Byte := (span from_ n).map fun o =>
  if img.core.ownFrom ≤ o then Config.ownByte img.seq o else mget 0 o img.pool
def Image.rowBytes (img : Image) (r : Nat) : List Byte := (span 0 128).flatMap fun c => toBytes 5 (img.core.cell r c).toNat
/-- Whether a pool block was dirty (R262). -/
def Image.isDirty (img : Image) (b : Nat) : Bool :=
  img.core.dirtyBlocks.contains b || (decide (img.core.ownFrom ≤ 4096 * b) && Config.ownDirty img.seq b)
def Image.blocks (img : Image) : List Nat := (span 0 256).filter img.isDirty
def Image.rows (img : Image) : List Nat := (span 0 128).filter img.core.dirtyRows.contains
def Image.isDelta (img : Image) : Bool := img.base != 0

/-- The architectural section (R255, R263). -/
def Image.arch (img : Image) : List Byte :=
  if img.isDelta then
    toBytes 32 (img.blocks.foldl (fun m b => m + 2 ^ b) 0) ++ toBytes 16 (img.rows.foldl (fun m r => m + 2 ^ r) 0) ++ toBytes 16 0
      ++ img.blocks.flatMap (fun b => img.poolBytes (4096 * b) 4096) ++ img.rows.flatMap img.rowBytes ++ img.tail
  else img.poolBytes 0 0x100000 ++ (span 0 128).flatMap img.rowBytes ++ img.tail

def Image.archLength (img : Image) : Nat :=
  if img.isDelta then 64 + 4096 * img.blocks.length + 640 * img.rows.length + 0x9000 else 0x11D000

/-- Image bytes, header included. -/
def Image.length (img : Image) : Nat := 0x1000 + img.archLength + Config.implLength

/-- The implementation section of an image (R257). -/
def implBytes (seq : Nat) : List Byte := (List.range Config.implLength).map (Config.implByte seq)

/-- Header bytes 0x00 to 0xEF (R254). -/
def Image.head (img : Image) (seq : Nat) : List Byte :=
  let k := img.core
  let rev := Config.revision img.origin
  toBytes 8 0x00004B34494D0001 ++ toBytes 4 rev ++ toBytes 4 (img.isDelta.toNat + 2 * img.sealed.toNat) ++ toBytes 8 (Config.layoutHash rev)
    ++ toBytes 4 (k.ctx.getD 0) ++ toBytes 2 img.origin ++ toBytes 2 img.depth ++ toBytes 8 seq ++ toBytes 8 img.base
    ++ toBytes 16 img.baseTag ++ toBytes 8 k.energy ++ toBytes 8 img.length ++ toBytes 4 0x1000 ++ toBytes 4 img.archLength
    ++ toBytes 4 (0x1000 + img.archLength) ++ toBytes 4 Config.implLength ++ toBytes 8 k.freezeTime ++ toBytes 12 (Config.nonce seq)
    ++ List.replicate 124 0

/-- What the tag covers: header bytes 0x00 to 0xEF and both sections (R258). -/
def Image.covered (img : Image) (seq : Nat) : List Byte := img.head seq ++ img.arch ++ implBytes seq

/-- The tag (R258). -/
def Image.tagOf (img : Image) (seq : Nat) : Nat := ofBytes (imageTag (toBytes 12 (Config.nonce seq)) (img.covered seq))

/-- Whether the key authenticates bytes read as an image: their tag is that of what it covers, under the nonce in their header (R258). -/
def authentic (l : List Byte) : Bool :=
  imageTag ((l.drop 0x68).take 12) (l.take 0xF0 ++ l.drop 0x1000) == (l.drop 0xF0).take 16

/-- The whole image. -/
def Image.bytes (img : Image) (seq : Nat) : List Byte :=
  padTo 0x1000 (img.head seq ++ toBytes 16 img.tag) ++ img.arch ++ implBytes seq

/-- The entries of a table by offset from `lo`, of those below `lo + n`. -/
def sliceOf {α : Type} (lo n : Nat) (l : List (Nat × α)) : List (Nat × α) :=
  (l.filter fun e => decide (lo ≤ e.1) && decide (e.1 < lo + n)).map fun e => (e.1 - lo, e.2)

/-- The flits of a link-out stream that the router has accepted are the partner's (R250), but for a stream linked to its own core. -/
def Stream.unsent (core : Nat) (st : Stream) : Stream := if st.partner.any fun p => p.1 == core then st else { st with inFlight := [] }

/-- The image of a frozen core now (R255, R262, R263). Deliveries from other cores that have not landed are retried (R251). -/
def State.imageOf (s : State) (core seq base : Nat) : Image :=
  let k := s.core core
  let r := k.reference.getD (0, 0, 0)
  let lo := scratchPa core 0
  let img : Image :=
    { seq := seq, core := { k with incoming := [], streams := k.streams.map fun e => (e.1, e.2.unsent core) }, requests := s.requests.filter fun r => r.2.core == core
      pool := sliceOf lo 0x100000 s.mem
      poison := sliceOf (lo / 64) 0x4000 s.poison, rels := sliceOf lo 0x100000 s.rels, jcts := sliceOf lo 0x100000 s.jcts
      race := s.raceReg (k.ctx.getD 0), miles := (span 0 8).map (s.mile core), origin := core, sealed := k.sealed
      depth := if base = 0 then 0 else r.2.2 + 1, base := base, baseTag := if base = 0 then 0 else r.2.1, tag := 0 }
  { img with tag := img.tagOf seq }

/-! The image engines (R260 to R266). -/

/-- A steward's own THAW or THAW.V (R247): it learns the status. -/
def State.stewardThaw (s : State) (core : Nat) (vacate : Bool) : State :=
  let (s, code) := s.thaw core vacate
  s.answerSteward core code

/-- A steward's own IMG.SAVE or IMG.LOAD (R247), with its record at an address of a context (log entry 34). A record that it cannot
read is no command. -/
def State.stewardImage (s : State) (load : Bool) (core ctx : Nat) (record : Word) : State :=
  let (id, s') := s.fresh
  let g : ImgCmd :=
    { id := id, core := core, load := load, record := record, data := 0, ctx := ctx, super := true, issuer := 128 * dieOf core,
      desc := s.readDesc (dieOf core) ctx, steward := true }
  let answer := fun (s : State) (code : Nat) => s.answerSteward core code
  if record.toNat % 64 ≠ 0 then s
  else match s'.engineRead g.who id record.toNat 64 with
    | .wait _ => s
    | .fault _ _ _ => s
    | .ok w s' =>
      if s.imgQueued core || (!load && s.loadPaused core) || s.runClear core then answer s 1
      else if !(s.core core).frozen then answer s 2
      else if imgRecordBad load w then answer s 3
      else answer (s'.modCluster (clusterOf core) fun k => { k with images := k.images ++ [{ g with data := w }] }) 0

/-- A field of the command's record. -/
def ImgCmd.field (g : ImgCmd) (off n : Nat) : Nat := recField g.data off n
def ImgCmd.junction (g : ImgCmd) : Word := BitVec.ofNat 64 (if g.load then g.field 0x38 8 else g.field 0x20 8)
def ImgCmd.resume (g : ImgCmd) : Bool := bitAt (if g.load then g.field 0x28 4 else g.field 0x1C 4) 0
def ImgCmd.chain (g : ImgCmd) : List Nat := ((span 0 5).map fun i => g.field (8 * i) 8).takeWhile (· ≠ 0)

/-- How a part of an engine's work stops. -/
inductive ImgStop
  | no
  | waits
  | fault (c : Cause) (addr : Nat)
deriving DecidableEq, Repr

/-- Work done: what it gave, the state, and why it stopped. -/
structure Part (α : Type) where
  got : α
  s : State
  stop : ImgStop

/-- Writes fields of the record. -/
def State.imgPut (s : State) (g : ImgCmd) (off n v : Nat) : ETry Unit :=
  (s.engineChecks g.who (fun _ => false) (wrap (g.record.toNat + off)) n).bind fun l s => .ok () (s.engineWrites g.who false l v)

/-- Writes status, offset and, for a save's image, the sequence number. -/
def State.imgStatus (s : State) (g : ImgCmd) (status off : Nat) (seq : Option Nat) : ETry Unit :=
  (s.imgPut g (if g.load then 0x2C else 0x28) 4 status).bind fun _ s => (s.imgPut g 0x30 8 off).bind fun _ s => match seq with
    | none => .ok () s
    | some n => s.imgPut g 0x38 8 n

/-- Takes a command off its engine. -/
def State.imgDrop (s : State) (cl : Nat) : State := s.modCluster cl fun c => { c with images := c.images.drop 1 }

/-- A report to the steward, with the record's address (R261). -/
def State.imgTell (s : State) (g : ImgCmd) (status : Nat) : State :=
  { s with reports := s.reports ++ [.image g.core status g.record.toNat] }

/-- How a command stands after its engine has done what it can. -/
inductive ImgOut
  | ended (s : State)
  | stuck (c : Cause) (off : Nat) (g : ImgCmd) (s : State)
  | small (n : Nat) (g : ImgCmd)
  | waits

/-- Ends a command: status and offset first, then the junction; `after` is what the end does beside (R260, R261). -/
def State.imgEnd (s : State) (cl : Nat) (g : ImgCmd) (status off units : Nat) (seq : Option Nat) (after : State → State) : ImgOut :=
  match s.imgStatus g status off seq with
  | .wait _ => .waits
  | .fault c _ s => .stuck c off g s
  | .ok _ s =>
    let fin := fun (s : State) =>
      let s := after ((if status = 1 then s.imgTell g 1 else s).imgDrop cl)
      .ended (s.emit (dieOf g.core) (if g.load then 0x13 else 0x12) status (0x8000 + cl) g.ctx (BitVec.ofNat 64 g.seqNo))
    match s.engineJct g.who g.id g.junction units (.cluster cl) with
    | .wait _ => .waits
    | .fault _ _ s => fin (s.imgTell g 2)
    | .ok _ s => fin s

/-- Pieces of 64 bytes with their offsets. -/
def linesOf : Nat → Nat → List Byte → List (Nat × List Byte)
  | 0, _, _ => []
  | n + 1, o, l => if l.isEmpty then [] else (o, l.take 64) :: linesOf n (o + 64) (l.drop 64)

/-- Writes pieces of an image in order, but for the `skip` bytes that are written already: the bytes written now. -/
def State.imgLines (s : State) (w : Who) (area : Nat) : List (Nat × List Byte) → Nat → Part Nat
  | [], _ => ⟨0, s, .no⟩
  | (o, l) :: t, skip =>
    if l.length ≤ skip then s.imgLines w area t (skip - l.length)
    else match s.engineChecks w (fun _ => true) (wrap (area + o)) l.length with
      | .wait s => ⟨0, s, .waits⟩
      | .fault c a s => ⟨0, s, .fault c a⟩
      | .ok pas s =>
        let p := (s.engineWrites w true pas (ofBytes l)).imgLines w area t 0
        { p with got := p.got + l.length }

/-- The image is complete: the reference and the dirty bits where it is sealed (R262), and the freeze's list of images. It has the answers that have
landed while it was written (R253). -/
def State.saved (s : State) (g : ImgCmd) (img : Image) : State :=
  let s := { s with images := mput g.seqNo { img with requests := s.requests.filter fun r => r.2.core == g.core } s.images }
  s.modCore g.core fun k =>
    let k := { k with freezeImages := k.freezeImages ++ [g.seqNo] }
    if img.sealed then { k with reference := some (g.seqNo, img.tag, img.depth), dirtyBlocks := [], dirtyRows := [] } else k

/-- A save's work from where it stands: the sections, then the header (R254, R260). What it has begun to write it goes on with, so that a
resume changes nothing of the image (R261). -/
def State.saveRun (s : State) (cl : Nat) (g : ImgCmd) : ImgOut :=
  let s := s.settleAll g.core
  let img := g.image.getD (s.imageOf g.core g.seqNo (g.field 0x10 8))
  if !img.sealed && !g.timedOut then .waits
  else if g.field 8 8 < img.length then .small img.length { g with image := some img }
  else
    let b := img.bytes g.seqNo
    let parts := linesOf b.length 0x1000 (b.drop 0x1000) ++ linesOf 64 0 (b.take 0x1000)
    let p := s.imgLines g.who (g.field 0 8) parts g.done
    match p.stop with
    | .waits => .waits
    | .fault c _ => .stuck c (g.done + p.got) { g with done := g.done + p.got, image := some img } p.s
    | .no => p.s.imgEnd cl { g with done := img.length, image := some img } (if img.sealed then 0 else 1) img.length img.length (some g.seqNo)
      (·.saved g img)

/-! Loading. -/

/-- Reads the headers of a chain. -/
def State.readHeads (s : State) (g : ImgCmd) : List Nat → Part (List Nat)
  | [] => ⟨[], s, .no⟩
  | a :: t => match s.engineRead g.who g.id a 256 with
    | .wait s => ⟨[], s, .waits⟩
    | .fault c a s => ⟨[], s, .fault c a⟩
    | .ok v s =>
      let p := s.readHeads g t
      { p with got := v :: p.got }

/-- Whether a chain's headers are malformed (R265 step 1). -/
def chainBad : Option Nat → List Nat → Bool
  | _, [] => false
  | prev, h :: t =>
    let f := fun (o n : Nat) => recField h o n
    let bad := f 0 8 != 0x00004B34494D0001 || match prev with
      | none => bitAt (f 0x0C 4) 0 || f 0x1E 2 != 0
      | some p => !bitAt (f 0x0C 4) 0 || f 0x1E 2 != recField p 0x1E 2 + 1 || f 0x28 8 != recField p 0x20 8
          || f 0x30 16 != recField p 0xF0 16
    bad || chainBad (some h) t

/-- The status that the checks of the headers give, 0 where they hold (R265). -/
def loadCheck (target : Nat) (words : List Nat) (hs : List Nat) : Nat :=
  let rev := Config.revision target
  if hs.isEmpty || (words.drop hs.length).any (· ≠ 0) || chainBad none hs then 9
  else if hs.any fun h => recField h 8 4 != rev % 2 ^ 32 || recField h 0x10 8 != Config.layoutHash rev % 2 ^ 64 then 7
  else if hs.any fun h => !bitAt (recField h 0x0C 4) 1 && recField h 0x1C 2 != target then 10
  else 0

/-- A restored track: its own accesses before the image happen before what it does now, under its new agent number. -/
def moveTrack (origin target n : Nat) (old t : Track) : Track :=
  let a := origin * 4 + n
  let b := target * 4 + n
  let own := max (mget 0 b old.clock) (mget 0 b t.clock) + 1
  { t with clock := mput b own (if origin = target then t.clock else mput a (mget 0 a t.clock + 1) t.clock) }

/-- The core a context's origin core now runs on (R266). -/
def State.relocated (s : State) (ctx core : Nat) : Nat := mget core (ctx * 512 + core) s.reloc

/-- A buffered store to the origin's own scratchpad is one to the target's (R266). -/
def moveGranule (origin target : Nat) (g : Granule) : Granule :=
  match area g.pa with
  | .scratch c o => if c = origin then { g with pa := scratchPa target o } else g
  | _ => g

/-- A release made from a core that an image has moved holds from where it now runs (R191, R266). -/
def Rel.moved (origin target : Nat) (r : Rel) : Rel := if r.loc = .core origin then { r with loc := .core target } else r

/-- What a track's registers, buffers and pending acquires become on a target. -/
def Track.placed (origin target : Nat) (t : Track) : Track :=
  let granule := List.map (moveGranule origin target)
  let rels := List.map (Rel.moved origin target)
  { t with
      strip := { t.strip with buf := granule t.strip.buf, pushes := granule t.strip.pushes }
      left := granule t.left, pendAcq := rels t.pendAcq
      wait := t.wait.map fun (w : Wait) => { w with watch := w.watch.map fun (x : Watched) => { x with rels := rels x.rels } }
      pending := t.pending.map fun p => { p with landed := true } }

/-- A track as an image gives it on a target. Its sticky debug status, its stepsync and a halt that is requested are the target's, which only
software changes (R285). -/
def placedTrack (origin target n : Nat) (old t : Track) : Track :=
  { (moveTrack origin target n old t).placed origin target with
      cancelled := old.cancelled, refused := old.refused, stepsync := old.stepsync, haltReq := old.haltReq && !t.halted
      haltWhy := if t.halted then t.haltWhy else old.haltWhy }

/-- The core as an image gives it, placed on a target (R265, R266). The target keeps its reference and dirty bits until the load ends
(R262), what belongs to its freeze, and the accesses of its debuggers that wait; its pool's codewords are written anew (R183). -/
def State.placedCore (s : State) (target : Nat) (img : Image) (grid : List (Nat × Row)) : Core :=
  let old := s.core target
  let ctx := img.core.ctx.getD 0
  let shift := fun (line : Nat) => line - scratchPa img.origin 0 / 64 + scratchPa target 0 / 64
  { img.core with
      grid := grid, stopped := old.stopped, loadNo := old.loadNo + 1, restored := false, dbg := old.dbg, smphead := old.smphead, lag := old.lag, lagLost := old.lagLost
      issued := old.issued, anchors := old.anchors, frozen := true, departed := false, freezeNo := old.freezeNo
      freezeTime := old.freezeTime, freezeImages := old.freezeImages, sealed := old.sealed, holds := [], banksFailed := old.banksFailed
      removed := old.removed, reference := old.reference, dirtyBlocks := old.dirtyBlocks, dirtyRows := old.dirtyRows
      debugWait := old.debugWait, upsets := []
      crossRels := img.core.crossRels.map fun e => (e.1, e.2.map (Rel.moved img.origin target))
      streams := img.core.streams.map fun (q, st) => (q, { st with partner := st.partner.map fun p => (s.relocated ctx p.1, p.2) })
      dir := img.core.dir.map fun e =>
        { e with line := shift e.line, engine := e.engine.map fun x => (if x.1 = img.origin then target else x.1, x.2) }
      tracks := (span 0 4).map fun n => (n, placedTrack img.origin target n (old.track n) (img.core.track n)) }

/-- Puts entries at offsets from `lo` in place of what a table has in the `n` keys from there. -/
def unslice {α : Type} (lo n : Nat) (new : List (Nat × α)) (l : List (Nat × α)) : List (Nat × α) :=
  new.foldl (fun m e => mput (lo + e.1) e.2 m) (l.filter fun e => !(decide (lo ≤ e.1) && decide (e.1 < lo + n)))

/-- Writes one image of a chain to the target: a delta's dirty blocks and rows over what stands there (R263, R265). The requests of
an unsealed image have the answers that have landed since (`State.answer`, R253). -/
def State.applyImage (s : State) (target : Nat) (img : Image) : State :=
  let s := s.settleAll target
  let lo := scratchPa target 0
  let now := sliceOf lo 0x100000 s.mem
  let inBlock := fun (e : Host.Cell) => img.isDirty (e.1 / 4096)
  let pool := if img.isDelta then (img.pool.filter inBlock).foldl (fun m e => mput e.1 e.2 m) (now.filter fun e => !inBlock e) else img.pool
  let grid := if img.isDelta then
      (img.core.grid.filter fun e => img.rows.contains e.1).foldl (fun m e => mput e.1 e.2 m)
        ((s.core target).grid.filter fun e => !img.rows.contains e.1)
    else img.core.grid
  let kept := s.requests.filter fun r => r.2.core != target
  let moved := List.map (Rel.moved img.origin target)
  { s.leaveFlits target with
      mem := unslice lo 0x100000 pool s.mem
      poison := unslice (lo / 64) 0x4000 img.poison s.poison
      rels := unslice lo 0x100000 (img.rels.map fun (e : Nat × List Rel) => (e.1, moved e.2)) s.rels
      jcts := unslice lo 0x100000 (img.jcts.map fun (e : Nat × JctObj) => (e.1, { e.2 with current := moved e.2.current, flipped := moved e.2.flipped })) s.jcts
      requests := img.requests.foldl (fun m (r : Nat × Request) => mput r.1 { r.2 with core := target } m) kept
      racestat := match img.core.ctx with
        | some c => mput c img.race s.racestat
        | none => s.racestat }.setCore target (s.placedCore target img grid)

/-- A load ends DONE: the reference, and no dirty bit (R262). -/
def State.referenced (s : State) (target seq : Nat) : State :=
  match mfind seq s.images with
  | none => s
  | some img => s.modCore target fun k => { k with reference := some (seq, img.tag, img.depth), dirtyBlocks := [], dirtyRows := [] }

/-- The last image of the chain is loaded: the relocation map, the other ends of links and deliveries, whose release notices may go out, and the
origin that still holds the freeze (R252, R266). -/
def State.loadedFrom (s : State) (target : Nat) (img : Image) : State :=
  let ctx := img.core.ctx.getD 0
  let o := img.origin
  let ids := img.core.gq.map (·.id)
  let s := s.modCore target fun k => { k with restored := true }
  let s := { s with reloc := mput (ctx * 512 + o) target (s.reloc.map fun e => if e.1 / 512 = ctx && e.2 = o then (e.1, target) else e) }
  if o = target then s
  else
    let s := { s with cores := s.cores.map fun (c, k) => (c, if c = target then k else
      { k with
          incoming := k.incoming.map fun i => if i.src = o && ids.contains i.cmd then { i with src := target } else i
          streams := k.streams.map fun (q, st) =>
            (q, if st.ctx = ctx && (st.partner.any fun p => p.1 == o) then
              { st with partner := st.partner.map fun p => (target, p.2) } else st) }) }
    if (s.core o).frozen && (s.core o).freezeNo == img.core.freezeNo && (s.core o).loadNo == img.core.loadNo then
      s.modCore o fun k => { k with departed := true, incoming := [] }
    else s

/-- What applying a chain comes to. -/
inductive Applied
  | whole (s : State)
  | stuck (c : Cause) (read : Nat) (applied : Nat) (s : State)
  | auth (read : Nat) (s : State)
  | waits

/-- Reads, authenticates and applies the images of a chain from where it stands (R258, R265). -/
def State.applyChain (s : State) (g : ImgCmd) : List (Nat × Nat) → Nat → Nat → Applied
  | [], _, _ => .whole s
  | (a, h) :: t, read, n =>
    let len := recField h 0x48 8
    let seq := recField h 0x20 8
    match s.engineRead g.who g.id a len with
    | .wait _ => .waits
    | .fault c x s => .stuck c (read + (x - a)) n s
    | .ok v s =>
      let l := toBytes len v
      let good := match mfind seq s.images with
        | none => none
        | some img => if authentic l ∧ l.take 0xF0 ++ l.drop 0x1000 = img.covered seq then some img else none
      match good with
      | none => .auth (read + len) s
      | some img =>
        let s := if n = 0 && !s.imageHoldsCtx g.core then s.foldEnergy g.core else s
        let s := (s.endPaused g.core fun p => !p.load).applyImage g.core img
        (if t.isEmpty then s.loadedFrom g.core img else s).applyChain g t (read + len) (n + 1)

/-- A load's work from where it stands (R265). -/
def State.loadRun (s : State) (cl : Nat) (g : ImgCmd) : ImgOut :=
  let words := (span 0 5).map fun i => g.field (8 * i) 8
  let p := s.readHeads g g.chain
  match p.stop with
  | .waits => .waits
  | .fault c _ => .stuck c (256 * p.got.length) g p.s
  | .no =>
    let hs := p.got
    let s := p.s
    let code := if g.applied = 0 then loadCheck g.core words hs else 0
    if code ≠ 0 then s.imgEnd cl g code (256 * hs.length) 1 none id
    else if s.outstanding g.core && hs.any fun h => !bitAt (recField h 0x0C 4) 1 then .waits
    else
      let total := hs.foldl (fun n h => n + recField h 0x48 8) 0
      let before := (hs.take g.applied).foldl (fun n h => n + recField h 0x48 8) 0
      let g := { g with seqNo := (hs.getLast?.map fun h => recField h 0x20 8).getD 0 }
      match s.applyChain g ((g.chain.zip hs).drop g.applied) before g.applied with
      | .waits => .waits
      | .stuck c read n s => .stuck c read { g with done := read, applied := n } s
      | .auth read s => (s.vacate g.core false).imgEnd cl g 8 read 1 none id
      | .whole s => match s.imgEnd cl { g with applied := hs.length, done := total } 0 total total none (·.referenced g.core g.seqNo) with
        | .stuck c off g s => .stuck c off g s
        | o => o

/-- The command at the head of a cluster's engine, where it is running and not held by a stopped steward (R260, R274). -/
def State.imgHead (s : State) (cl : Nat) : Option ImgCmd :=
  match (s.cluster cl).images with
  | g :: _ => if g.running && !s.runClear g.core then some g else none
  | [] => none

/-- The work of the engine's command: a command that does not begin only ends, with its status (R261). -/
def State.imgRun (s : State) (cl : Nat) (g : ImgCmd) : ImgOut :=
  match g.refused with
  | some status => s.imgEnd cl g status 0 1 none id
  | none => if g.load then s.loadRun cl g else s.saveRun cl g

/-- The head of the engine becomes the running command. -/
def State.imgBegin (s : State) (cl : Nat) (g : ImgCmd) : State :=
  s.modCluster cl fun c => { c with images := { g with running := true } :: c.images.drop 1 }

/-- A command does not begin: it is left with its status to write (R261). -/
def State.imgRefuse (s : State) (cl : Nat) (g : ImgCmd) (status : Nat) : State := s.imgBegin cl { g with refused := some status }

/-- The paused command that a record resumes. -/
def Cluster.pausedAt (c : Cluster) (g : ImgCmd) : Option ImgCmd :=
  c.paused.find? fun p => p.core == g.core && p.load == g.load && p.record == g.record

/-- Takes up a paused command again under a new number, from where it stopped. -/
def ImgCmd.resumed (g p : ImgCmd) : ImgCmd :=
  { g with
      done := p.done, applied := p.applied, seqNo := p.seqNo, freezeNo := p.freezeNo, timedOut := p.timedOut, cycles := p.cycles
      refused := p.refused, image := p.image }

/-- IMAGE_ENGINE_START: the next accepted command begins (R260 to R265). -/
def execImageEngineStart (cluster : Nat) (s : State) : Host.Outcome State Fault Refusal :=
  match (s.cluster cluster).images with
  | [] => .next s
  | g :: _ =>
    if g.running || s.runClear g.core then .next s
    else
      let k := s.core g.core
      if g.resume then
        match (s.cluster cluster).pausedAt g with
        | none => .next (s.imgRefuse cluster g 6)
        | some p =>
          let s := s.endPaused g.core fun x => x.load == g.load && x.record == g.record
          .next (if p.freezeNo ≠ k.freezeNo then s.imgRefuse cluster g 6 else s.imgBegin cluster (g.resumed p))
      else
        let s := if g.load && s.loadPaused g.core then s.vacate g.core false else s
        let s := s.endPaused g.core fun x => if g.load then x.load else x.record == g.record
        let base := g.field 0x10 8
        let r := k.reference.getD (0, 0, 0)
        if g.load then .next (s.imgBegin cluster { g with freezeNo := k.freezeNo })
        else if base ≠ 0 ∧ r.1 ≠ base then .next (s.imgRefuse cluster g 4)
        else if base ≠ 0 ∧ 4 ≤ r.2.2 then .next (s.imgRefuse cluster g 5)
        else .next ({ s with imageSeq := s.imageSeq + 1 }.imgBegin cluster { g with freezeNo := k.freezeNo, seqNo := s.imageSeq + 1 })

/-- IMAGE_SAVE_COMPLETE. -/
def execImageSaveComplete (cluster : Nat) (s : State) : Host.Outcome State Fault Refusal :=
  match s.imgHead cluster with
  | none => .next s
  | some g => if g.load then .next s else match s.imgRun cluster g with
    | .ended s => .next s
    | .stuck _ _ _ _ => .next s
    | .small _ _ => .next s
    | .waits => .next s

/-- IMAGE_LOAD_COMPLETE. -/
def execImageLoadComplete (cluster : Nat) (s : State) : Host.Outcome State Fault Refusal :=
  match s.imgHead cluster with
  | none => .next s
  | some g => if !g.load then .next s else match s.imgRun cluster g with
    | .ended s => .next s
    | .stuck _ _ _ _ => .next s
    | .small _ _ => .next s
    | .waits => .next s

/-- Pauses a command: its status where the record can be written, a report, and its place for a resume (R261, R265). -/
def State.imgPause (s : State) (cl : Nat) (g : ImgCmd) (status off : Nat) : State :=
  let s := match s.imgStatus g status off none with
    | .ok _ s => s
    | .fault _ _ s => s
    | .wait s => s
  (s.imgTell g (status % 256)).modCluster cl fun c =>
    { c with images := c.images.drop 1, paused := c.paused ++ [{ g with running := false }] }

/-- IMAGE_COMMAND_PAUSE: a fault on the area or the record, or an area that is too small. -/
def execImageCommandPause (cluster : Nat) (s : State) : Host.Outcome State Fault Refusal :=
  match s.imgHead cluster with
  | none => .next s
  | some g => match s.imgRun cluster g with
    | .ended _ => .next s
    | .waits => .next s
    | .small n g => .next (s.imgPause cluster g 3 n)
    | .stuck c off g s => .next (s.imgPause cluster g (2 + 256 * (causeWord c none).toNat % 65536) off)

/-- SEAL_TIMEOUT: the core's save goes on unsealed (R253, R259). -/
def execSealTimeout (core : Nat) (s : State) : Host.Outcome State Fault Refusal :=
  let cl := clusterOf core
  match s.imgHead cl with
  | none => .next s
  | some g =>
    let limit := if g.field 0x18 4 = 0 then 2 ^ 20 else g.field 0x18 4
    if g.core = core && !g.load && !(s.core core).sealed && decide (limit ≤ g.cycles) then
      .next (s.modCluster cl fun c => { c with images := { g with timedOut := true } :: c.images.drop 1 })
    else .next s

end Sys2Proof.Machine
end

