-- ==== Sys2Proof/Machine/Devices.lean ====
section
/-!
DEFINITION. The device registers (R28, R29, R271, R278, R283, R284, R299, R302, R459, R464) and what writing them does, and the stewards'
run bit and watchdog (R274).
-/
namespace Sys2Proof

/-- The mask of the bytes that a write covers, in its register. -/
def DevWrite.cover (w : DevWrite) : Nat := (2 ^ (8 * w.size.bytes) - 1) * 2 ^ (8 * (w.pa % 8))

/-- The written bytes at their places. -/
def DevWrite.value (w : DevWrite) : Nat := w.data.toNat % 2 ^ (8 * w.size.bytes) * 2 ^ (8 * (w.pa % 8))

end Sys2Proof

namespace Sys2Proof.Machine

/-! The map. -/

/-- A device register by its block. -/
inductive DevReg
  | debug (core off : Nat)
  | window (pa : Nat)
  | queue (n off : Nat)
  | steward (die off : Nat)
  | port (off : Nat)
  | remoteMap (off : Nat)
  | none
deriving DecidableEq, Repr

/-- The register that holds a byte of the device range. -/
def devReg (pa : Nat) : DevReg :=
  let a := pa / 8 * 8
  let in_ := fun (base n : Nat) => base ≤ a && a < base + n
  if in_ 0xFF0000000 0x200000 then .debug ((a - 0xFF0000000) / 0x1000) (a % 0x1000)
  else if in_ 0xFE0000000 0x2000000 && decide ((a - 0xFE0000000) % 0x800000 < 0x408000) then .window a
  else if in_ 0xFFFF00000 0x100 then .queue ((a - 0xFFFF00000) / 0x40) (a % 0x40)
  else if in_ 0xFFF000000 0x40000 then .steward ((a - 0xFFF000000) / 0x10000) (a % 0x10000)
  else if in_ 0xFFF100000 0x10 then .port (a % 0x10)
  else if in_ 0xFFF200000 0x10 then .remoteMap (a % 0x10)
  else .none

/-! Reading. -/

/-- A field of 8 bytes of a lag table entry (R297). -/
def lagWord (e : LagEntry) (off : Nat) : Word :=
  if off = 0 then e.producer
  else if off = 8 then e.consumer
  else if off = 16 then BitVec.ofNat 64 (e.cycles + 2 ^ 32 * e.lag + 2 ^ 48 * e.reason + 2 ^ 56)
  else 0

/-- A register of a core's debug block (R284); a read of DREGDATA is `State.dregAccess`. -/
def Core.debugRead (k : Core) (off : Nat) : Word :=
  let b := fun (v : Nat) => BitVec.ofNat 64 v
  let t := k.track (off / 16)
  if off < 0x40 then
    if off % 16 = 0 then b (t.haltReq.toNat + 8 * t.stepsync.toNat)
    else b (t.halted.toNat + 2 * t.why + 16 * t.unit + 128 * t.cancelled.toNat + 256 * t.exempt.toNat + 512 * t.refused.toNat)
  else if off = 0x1D0 then b k.smphead
  else if off = 0x1D8 then b (fld (mget 0 off k.dbg) 0 0 + 2 ^ 32 * k.lagLost)
  else if 0x800 ≤ off then match mfind ((off - 0x800) / 32) k.lag with
    | some e => lagWord e (off % 32)
    | none => 0
  else mget 0 off k.dbg

/-- A register of a steward's block (R271, R299). -/
def Die.stewardRead (d : Die) (off : Nat) : Word :=
  if off = 0x808 then
    BitVec.ofNat 64 (d.twcycle % 65536 + 2 ^ 16 * d.twtriggered.toNat + 2 ^ 17 * d.twstopped.toNat + 2 ^ 32 * d.anchorsWritten)
  else d.reg off

/-- The value of a register; 0 where no register is (R177). -/
def State.devRead (s : State) (r : DevReg) : Word :=
  match r with
  | .debug c off => (s.core c).debugRead off
  | .window pa => BitVec.ofNat 64 (s.bytes pa 8)
  | .queue n off => s.lqReg n off
  | .steward d off => (s.die d).stewardRead off
  | .port off => if off = 0 then s.portctl else s.portctx
  | .remoteMap off => if off = 0 then s.rmbase else s.rmnode
  | .none => 0

/-! Writing (R464). -/

/-- The covered RW bits of a register replaced. -/
def mergeBits (old : Word) (rw cover v : Nat) : Word :=
  let m := Nat.land rw cover
  BitVec.ofNat 64 (old.toNat - Nat.land old.toNat m + Nat.land v m)

/-- Bits `hi:lo` as a mask. -/
def bitMask (hi lo : Nat) : Nat := 2 ^ (hi + 1) - 2 ^ lo

/-- Whether a write covers a byte of bits `hi:lo`. -/
def coversField (cover hi lo : Nat) : Bool := Nat.land cover (bitMask hi lo) != 0

/-- The RW bits and the defined bits of a debug register that is plain storage (R284); none for the others. -/
def debugPlain (off : Nat) : Option (Nat × Nat) :=
  let same := fun (m : Nat) => some (m, m)
  if off = 0x40 then same (bitMask 4 0 + bitMask 29 16)
  else if 0x80 ≤ off ∧ off < 0x100 then if off % 16 = 0 then same (bitMask 8 0 + bitMask 31 16) else same (bitMask 63 2)
  else if 0x100 ≤ off ∧ off < 0x140 then if off % 16 = 0 then same (bitMask 12 0 + bitMask 31 16) else same (bitMask 63 0)
  else if 0x140 ≤ off ∧ off < 0x1C0 then
    if off % 32 = 0 then same (bitMask 31 0) else if off % 32 = 8 then same (bitMask 32 0) else same (bitMask 63 0)
  else if off = 0x1C0 then same (bitMask 10 0)
  else if off = 0x1C8 then same (bitMask 51 12)
  else none

/-- Whether a merged debug register has a reserved code in a field that the write covers (R283). -/
def debugCodeBad (off cover : Nat) (v : Word) : Bool :=
  let bad := fun (hi lo : Nat) (p : Nat → Bool) => coversField cover hi lo && p (fld v hi lo)
  if off = 0x40 then bad 4 2 (· == 7)
  else if 0x80 ≤ off ∧ off < 0x100 ∧ off % 16 = 0 then bad 5 3 (4 < ·)
  else if 0x100 ≤ off ∧ off < 0x140 ∧ off % 16 = 0 then bad 5 3 (4 < ·) || bad 11 8 (12 < ·)
  else if off = 0x1C0 then bad 5 1 (fun p => p < 4 || 24 < p) || bad 10 6 (fun n => n < 8 || 20 < n)
  else false

/-- A write to a core's debug block. A write of 0 to DBGCTL.halt leaves a pending request as it is: no rule says that it is withdrawn
(DESIGN CHOICE, log entry 54). -/
def State.debugWrite (s : State) (core off cover v : Nat) : State :=
  let bit := fun (i : Nat) => bitAt (Nat.land v cover) i
  let n := off / 16
  if off < 0x40 ∧ off % 16 = 0 then
    if Nat.land (Nat.land v cover) (bitMask 63 4) ≠ 0 then s
    else
      let s := if bitAt cover 3 then s.modTrack core n fun t => { t with stepsync := bit 3 } else s
      let s := if bit 1 then s.debugResume core n else s
      let s := if bit 2 then s.debugStep core n else s
      if bit 0 then s.debugHalt core n else s
  else if off < 0x40 then
    if Nat.land (Nat.land v cover) (bitMask 63 10) ≠ 0 then s
    else s.modTrack core n fun t => { t with cancelled := t.cancelled && !bit 7, refused := t.refused && !bit 9 }
  else if off = 0x48 then s.dregAccess core (some (mergeBits (mget 0 off (s.core core).dbg) (2 ^ 64 - 1) cover v)) none
  else if off = 0x1D8 then
    if Nat.land (Nat.land v cover) (bitMask 31 2) ≠ 0 then s
    else s.modCore core fun k =>
      let k := { k with dbg := mput off (mergeBits (mget 0 off k.dbg) 1 cover v) k.dbg }
      if bit 1 then k.clearLag else k
  else match debugPlain off with
    | none => s
    | some (rw, defined) =>
      let new := mergeBits (mget 0 off (s.core core).dbg) rw cover v
      if Nat.land (Nat.land v cover) (2 ^ 64 - 1 - defined) ≠ 0 || debugCodeBad off cover new then s
      else s.modCore core fun k => { k with dbg := mput off new k.dbg }

/-- Setting and clearing run (R274): the firmware starts with its watchdog restarted, and is ready again once it has completed its bring-up
(log entry 70). -/
def Die.setRun (d : Die) : Die := { d with stew := mput 0 (setFld (setFld (d.reg 0) 1 1 0) 0 0 1) d.stew, watchdog := 0 }
def Die.clearRun (d : Die) : Die := { d with stew := mput 0 (setFld (d.reg 0) 0 0 0) d.stew }
def Die.kick (d : Die) : Die := { d with watchdog := 0 }

/-- A write to SSYNC (R459). -/
def State.putSsync (s : State) (die : Nat) (v : Word) : State :=
  let size := fld v 6 0
  let base := fld v 51 21 * 0x200000
  let v := BitVec.ofNat 64 (size + base)
  if 126 < size ∨ base < hbmBase die ∨ hbmBase die + hbmSize < base + size * 0x200000 then s else s.setStew die 0x40 v

/-- A write to SLCAP (R271, R274). -/
def State.putSlcap (s : State) (core : Nat) (v : Word) : State :=
  let c := fld v 3 0
  if c = 0 ∨ 8 < c ∨ s.runClear core then s else s.setStew (dieOf core) (0x100 + 8 * (core % 128)) (BitVec.ofNat 64 c)

/-- Recording starts afresh as TWCTL.en is set (R299, R300). -/
def State.startWindow (s : State) (die : Nat) : State :=
  { s with cores := s.cores.map fun (e : Nat × Core) => if dieOf e.1 = die then (e.1, { e.2 with anchors := [] }) else e }.modDie die fun d =>
    { d with twcycle := 0, twtriggered := false, twstopped := false, twleft := 0, anchorsWritten := 0 }

/-- The RW bits of a plain steward register. -/
def stewardPlain (off : Nat) : Nat :=
  if off = 8 ∨ off = 0x18 ∨ off = 0x20 then bitMask 51 12
  else if off = 0x10 then bitMask 20 0
  else if off = 0x28 then bitMask 31 0
  else if off = 0x30 ∨ off = 0x38 then bitMask 63 0
  else if off = 0x800 then bitMask 4 0 + bitMask 31 16
  else 0

/-- A write to a steward's block. -/
def State.stewardWrite (s : State) (die off cover v : Nat) : State :=
  let old := s.stew die off
  let bit := fun (i : Nat) => bitAt (Nat.land v cover) i
  if off = 0 then
    if bitAt cover 0 then
      let s := if bit 2 then s.setStew die 0 (setFld old 2 2 0) else s
      let s := if bit 0 then (if bitAt old.toNat 0 then s else s.modDie die (·.setRun)) else s.modDie die (·.clearRun)
      if bit 3 then s.modDie die (·.kick) else s
    else s
  else if off = 0x40 then s.putSsync die (mergeBits old (2 ^ 64 - 1) cover v)
  else if 0x100 ≤ off ∧ off < 0x500 then s.putSlcap (128 * die + (off - 0x100) / 8) (mergeBits old 15 cover v)
  else if stewardPlain off = 0 then s
  else
    let new := mergeBits old (stewardPlain off) cover v
    let s' := s.setStew die off new
    if off = 0x800 && bitAt new.toNat 0 && !bitAt old.toNat 0 then s'.startWindow die else s'

/-- A write to a launch queue's registers (R28, R29). -/
def State.queueWrite (s : State) (n off cover v : Nat) : State :=
  let old := s.lqReg n off
  if off = 0 then s.setLq n 0 (mergeBits old (bitMask 51 12) cover v)
  else if off = 8 then
    let new := mergeBits old (bitMask 4 0) cover v
    if fld new 4 0 < 4 ∨ 20 < fld new 4 0 then s else s.setLq n 8 new
  else if off = 0x18 then
    let new := fld (mergeBits old (bitMask 31 0) cover v) 31 0
    let head := fld (s.lqReg n 0x10) 31 0
    if 2 ^ fld (s.lqReg n 8) 4 0 < (new + 2 ^ 32 - head) % 2 ^ 32 then s.setLq n 0x20 (setFld (s.lqReg n 0x20) 2 2 1)
    else s.setLq n 0x18 (BitVec.ofNat 64 new)
  else if off = 0x20 then
    let new := mergeBits old 3 cover v
    s.setLq n 0x20 (if bitAt (Nat.land v cover) 2 then setFld new 2 2 0 else new)
  else s

/-- A write to a device register; one that is not naturally aligned is not performed (R464). -/
def State.devWrite (s : State) (w : DevWrite) : State :=
  let c := w.cover
  let v := w.value
  if w.pa % w.size.bytes ≠ 0 then s
  else match devReg w.pa with
    | .debug core off => s.debugWrite core off c v
    | .queue n off => s.queueWrite n off c v
    | .steward die off => s.stewardWrite die off c v
    | .port off =>
      if off = 0 then { s with portctl := mergeBits s.portctl (bitMask 32 0) c v }
      else { s with portctx := mergeBits s.portctx (bitMask 31 0) c v }
    | .remoteMap off =>
      if off = 0 then { s with rmbase := mergeBits s.rmbase (bitMask 51 15) c v }
      else { s with rmnode := mergeBits s.rmnode (bitMask 32 0) c v }
    | .window _ => s
    | .none => s

/-- LQTAIL_WRITE (R29): the host cores that make it run once they are started (R273 step 2). -/
def execLqtailWrite (queue : Nat) (w : DevWrite) (s : State) : Host.Outcome State Fault Refusal :=
  if s.booted ∧ devReg w.pa = .queue queue 0x18 then .next (s.devWrite w) else .next s

/-- DEVICE_REGISTER_WRITE (R464): nothing outside a core writes before the host cores are started (R273). -/
def execDeviceRegisterWrite (w : DevWrite) (s : State) : Host.Outcome State Fault Refusal := .next (if s.booted then s.devWrite w else s)

/-! The stewards (R274). -/

/-- SCTL_RUN_SET: a host core's, once the host cores are started (R273 steps 2 and 3). -/
def execSctlRunSet (die : Nat) (s : State) : Host.Outcome State Fault Refusal :=
  .next (if !s.booted || bitAt (s.stew die 0).toNat 0 then s else s.modDie die (·.setRun))
def execSctlRunClear (die : Nat) (s : State) : Host.Outcome State Fault Refusal := .next (s.modDie die (·.clearRun))
def execWatchdogKick (die : Nat) (s : State) : Host.Outcome State Fault Refusal := .next (s.modDie die (·.kick))
def execSsyncWrite (die : Nat) (v : Word) (s : State) : Host.Outcome State Fault Refusal := .next (s.putSsync die v)
def execSlcapWrite (core : Nat) (v : Word) (s : State) : Host.Outcome State Fault Refusal := .next (s.putSlcap core v)

/-- Freezes each core that runs. -/
def State.freezeAll (s : State) (cores : List Nat) : State :=
  cores.foldl (fun s c => if (s.core c).frozen then s else s.freeze c) s

/-- WATCHDOG_EXPIRE: no kick for 2^24 cycles while run is set. -/
def execWatchdogExpire (die : Nat) (s : State) : Host.Outcome State Fault Refusal :=
  let d := s.die die
  if bitAt (d.reg 0).toNat 0 && decide (2 ^ 24 ≤ d.watchdog) then
    let s := (s.freezeAll (span (128 * die) 128)).modDie die fun d => { d.clearRun with watchdog := 0 }
    .next { s.setStew die 0 (setFld (s.stew die 0) 2 2 1) with reports := s.reports ++ [.watchdog die] }
  else .next s

end Sys2Proof.Machine
end

