-- ==== Sys2Proof/Machine/FloatScalar.lean ====
section
/-!
DEFINITION. Scalar floating point (R328, R365 to R368).
-/
namespace Sys2Proof.Machine

def fmtOf : Prec → FloatFmt
  | .f32 => .fp32
  | .f64 => .fp64

/-- An operand (R365): an FP32 value stands in bits 31:0. -/
def floatOf (p : Prec) (w : Word) : Num :=
  match p with
  | .f32 => FloatFmt.fp32.value (w.toNat % 2 ^ 32)
  | .f64 => FloatFmt.fp64.value w.toNat

/-- The mode and draw of a scalar operation (R365). -/
def scalarCtx (t : Track) (rm : Rounding) : RCtx := rctx rm t.arith t.srseed t.sbase

/-- An instruction that sets a register and raises flags. -/
def floating (i : Instr) (d : Reg) (f : Track → Word × Flags) (s : State) : Host.Outcome State Fault Refusal :=
  perform i (fun s =>
    let (v, fl) := f s.me
    .done ((s.setX d v).raiseAll [(0, fl)])) s

/-- Rounds an exact result (R366). -/
def roundTo (p : Prec) (c : RCtx) (x : Num × Flags) : Word × Flags :=
  let (w, f) := roundFloat c (fmtOf p) false x.1
  (BitVec.ofNat 64 w, x.2.or f)

/-- The encoding of a value that is exact in the precision. -/
def exactly (p : Prec) (v : Num) : Word := BitVec.ofNat 64 (roundFloat .rne (fmtOf p) false v).1

def isRdn (c : RCtx) : Bool := c.rm == .rdn

def fcompare (c : FCond) (a b : Num) : Bool :=
  match c with
  | .eq => numEq a b
  | .lt => numLt a b
  | .le => numLt a b || numEq a b
  | .un => a.isNan || b.isNan

/-- FCVT (R367). -/
def fconvert (p : Prec) (k : FCvtKind) (c : RCtx) (w : Word) : Word × Flags :=
  let toInt := fun (bits : Nat) (sg : Bool) =>
    let (n, f) := roundInt c bits sg true (floatOf p w)
    (if sg then BitVec.ofInt 64 (sInt bits n) else BitVec.ofNat 64 n, f)
  match k with
  | .otherFloat =>
    let q : Prec := match p with
      | .f32 => .f64
      | .f64 => .f32
    roundTo q c (floatOf p w, {})
  | .toInt32 => toInt 32 true
  | .toInt64 => toInt 64 true
  | .toUint32 => toInt 32 false
  | .toUint64 => toInt 64 false
  | .fromInt64 => roundTo p c (.ofInt w.toInt, {})
  | .fromUint64 => roundTo p c (.ofInt w.toNat, {})

def execFadd (p : Prec) (d a b : Reg) (rm : Rounding) (s : State) : Host.Outcome State Fault Refusal :=
  floating (.fadd p d a b rm) d (fun t =>
    let c := scalarCtx t rm
    roundTo p c (numAdd (isRdn c) (floatOf p (t.getX a)) (floatOf p (t.getX b)))) s
def execFsub (p : Prec) (d a b : Reg) (rm : Rounding) (s : State) : Host.Outcome State Fault Refusal :=
  floating (.fsub p d a b rm) d (fun t =>
    let c := scalarCtx t rm
    roundTo p c (numAdd (isRdn c) (floatOf p (t.getX a)) (floatOf p (t.getX b)).negate)) s
def execFmul (p : Prec) (d a b : Reg) (rm : Rounding) (s : State) : Host.Outcome State Fault Refusal :=
  floating (.fmul p d a b rm) d (fun t =>
    roundTo p (scalarCtx t rm) (numMul (floatOf p (t.getX a)) (floatOf p (t.getX b)))) s
def execFma (p : Prec) (d a b : Reg) (rm : Rounding) (s : State) : Host.Outcome State Fault Refusal :=
  floating (.fma p d a b rm) d (fun t =>
    let c := scalarCtx t rm
    roundTo p c (numFma (isRdn c) (floatOf p (t.getX a)) (floatOf p (t.getX b)) (floatOf p (t.getX d)))) s
def execFdiv (p : Prec) (d a b : Reg) (rm : Rounding) (s : State) : Host.Outcome State Fault Refusal :=
  floating (.fdiv p d a b rm) d (fun t =>
    roundTo p (scalarCtx t rm) (numDiv (floatOf p (t.getX a)) (floatOf p (t.getX b)))) s
def execFsqrt (p : Prec) (d a : Reg) (rm : Rounding) (s : State) : Host.Outcome State Fault Refusal :=
  floating (.fsqrt p d a rm) d (fun t => roundTo p (scalarCtx t rm) (numSqrt (floatOf p (t.getX a)))) s
def execFmin (p : Prec) (d a b : Reg) (s : State) : Host.Outcome State Fault Refusal :=
  floating (.fmin p d a b) d (fun t => (exactly p (numMin (floatOf p (t.getX a)) (floatOf p (t.getX b))), {})) s
def execFmax (p : Prec) (d a b : Reg) (s : State) : Host.Outcome State Fault Refusal :=
  floating (.fmax p d a b) d (fun t => (exactly p (numMax (floatOf p (t.getX a)) (floatOf p (t.getX b))), {})) s
def execFcmp (p : Prec) (c : FCond) (d a b : Reg) (s : State) : Host.Outcome State Fault Refusal :=
  floating (.fcmp p c d a b) d (fun t =>
    (if fcompare c (floatOf p (t.getX a)) (floatOf p (t.getX b)) then 1 else 0, {})) s
def execFcvt (p : Prec) (k : FCvtKind) (d a : Reg) (rm : Rounding) (s : State) : Host.Outcome State Fault Refusal :=
  floating (.fcvt p k d a rm) d (fun t => fconvert p k (scalarCtx t rm) (t.getX a)) s
def execFclass (p : Prec) (d a : Reg) (s : State) : Host.Outcome State Fault Refusal :=
  floating (.fclass p d a) d (fun t =>
    (BitVec.ofNat 64 (2 ^ classBit (fmtOf p) ((t.getX a).toNat % 2 ^ (fmtOf p).width)), {})) s

end Sys2Proof.Machine
end

