-- ==== Sys2Proof/Machine/Interchange.lean ====
section
/-!
DEFINITION. The interchange: graph records and XF.LOAD (R159 to R163, R444), and commands through a graph (R164 to R174).
-/
namespace Sys2Proof.Machine

/-! Graph records (R161 to R163, R168). -/

/-- CAST's types: codes 0 to 11 or 14 (K8 is 12). -/
def castType (t : Nat) : Bool := t ≤ 11 || t == 14
def floatType (t : Nat) : Bool := 6 ≤ t && t ≤ 9
/-- FLOAT, INT8, INT16, INT32. -/
def scaleType (t : Nat) : Bool := floatType t || t == 0 || t == 10 || t == 11

/-- Size in bytes of the element type with a code; 1 for none. -/
def codeBytes (t : Nat) : Nat :=
  match ElemType.ofCode t with
  | some e => elemBytes e
  | none => 1

/-- The fields of a node entry, read as one number of 32 bytes. -/
structure NodeFields where
  op : Nat
  in0 : Nat
  in1 : Nat
  it : Nat
  ot : Nat
  round : Nat
  salt : Nat
  p0 : Nat
  p1 : Nat
  addr : Nat
deriving DecidableEq, Repr

def nodeFields (w : Nat) : NodeFields :=
  let b := fun (o : Nat) => recField w o 1
  ⟨b 0, b 1, b 2, b 3 % 16, b 3 / 16, b 4, recField w 6 2, recField w 8 4, recField w 12 4, recField w 16 8⟩

/-- Whether an operator takes a second input: 0 none, 1 a node or the side input, 2 a node. -/
def opIn1 (op : Nat) : Nat := if op = 10 ∨ op = 11 then 1 else if op = 13 then 2 else 0

/-- The types of an operator's row (R168). -/
def opTypes (op it ot : Nat) : Bool :=
  if op = 1 then castType it && castType ot
  else if op = 2 then scaleType it && floatType ot
  else if op = 3 then floatType it && (ot == 0 || ot == 3 || ot == 4 || ot == 5)
  else if op = 4 then floatType it && floatType ot
  else if op = 5 then floatType it && ot == it
  else if op = 6 then (floatType it || it == 0) && ot == it
  else if op = 7 then castType it && ot == it
  else if op = 8 ∨ op = 9 then it == 1 && ot == 1
  else if op = 10 then castType it && ot == 1
  else if op = 11 then scaleType it && ot == it
  else (castType it || it == 13) && ot == it

/-- param0 of an operator's row. -/
def opParam0 (n : NodeFields) : Bool :=
  if n.op = 2 then n.p0 ≤ 1
  else if n.op = 4 then 32 ≤ n.p0 && n.p0 ≤ 4096
  else if n.op = 5 then true
  else if n.op = 6 then n.p0 == 1 || n.p0 == 2 || n.p0 == 4
  else if n.op = 7 then n.p0 == 8 || n.p0 == 16 || n.p0 == 32 || n.p0 == 64
  else if n.op = 8 then n.p0 == 5 * 8 || n.p0 == 6 * 8 || n.p0 == 5 || n.p0 == 6
  else if n.op = 10 then n.p0 ≤ 1
  else if n.op = 13 then 1 ≤ n.p0 && n.p0 ≤ 2 ^ 20
  else n.p0 == 0

/-- param1 of an operator's row. -/
def opParam1 (n : NodeFields) : Bool :=
  if n.op = 2 then n.p0 == 0 || n.p1 == 0
  else if n.op = 4 then 1 ≤ n.p1 && n.p1 ≤ 64 && n.p1 ≤ n.p0
  else n.p1 == 0

/-- addr of an operator's row, aligned to what it holds. -/
def opAddr (n : NodeFields) : Bool :=
  if n.op = 2 then n.p0 == 1 || n.addr == 0
  else if n.op = 4 then windowOf n.addr == some 2 && n.addr % 4 == 0
  else if n.op = 5 then n.addr % 4 == 0
  else if n.op = 9 then n.addr % 8 == 0
  else if n.op = 10 ∨ n.op = 11 then (if n.in1 = 17 then n.addr % codeBytes n.it == 0 else n.addr == 0)
  else n.addr == 0

/-- How often the inputs of nodes name a node. -/
def uses (l : List NodeFields) (j : Nat) : Nat :=
  l.foldl (fun a n => a + (if n.in0 = j then 1 else 0) + (if n.in1 = j ∧ opIn1 n.op ≠ 0 then 1 else 0)) 0

/-- Whether a node may read another's output: it is earlier, its output is no packed group layout (R158), its type fits, and it has a
port left. R163 and R168 do not say whether a SCATTERADD may read another node than a TOPK, nor whether another operator may read a TOPK's pairs as
plain elements: both pass, where the type's code fits (DESIGN CHOICE, log entry 86). -/
def mayRead (before : List NodeFields) (j : Nat) (it : Nat) (used : Nat) : Bool :=
  match before[j]? with
  | none => false
  | some p => p.op != 3 && p.op != 6 && p.ot == it && decide (used < (if p.op = 12 then 2 else 1))

/-- The offset, within a node entry, of its first offending field; none when all hold (R162, R163, R168). -/
def nodeBad (before : List NodeFields) (w : Nat) : Option Nat :=
  let n := nodeFields w
  let firstInput := before.all fun p => p.in0 != 16
  let in1Ok := if opIn1 n.op = 0 then n.in1 == 31
    else (opIn1 n.op == 1 && n.in1 == 17) || mayRead before n.in1 n.it (uses before n.in1 + (if n.in0 = n.in1 then 1 else 0))
  if n.op = 0 ∨ 14 ≤ n.op then some 0
  else if 32 ≤ n.in0 ∨ !(if n.in0 = 16 then firstInput else mayRead before n.in0 n.it (uses before n.in0)) then some 1
  else if 32 ≤ n.in1 ∨ !in1Ok then some 2
  else if !opTypes n.op n.it n.ot then some 3
  else if 16 ≤ n.round ∨ n.round % 8 = 7 ∨ (n.op = 3 ∧ n.round % 8 ≠ 0 ∧ n.round % 8 ≠ 5) then some 4
  else if recField w 5 1 ≠ 0 then some 5
  else if !opParam0 n then some 8
  else if !opParam1 n then some 12
  else if !opAddr n then some 16
  else if recField w 24 8 ≠ 0 then some 24
  else none

/-- The byte offset of the first offending field of a record's nodes from the `j`th on. -/
def nodesBad (w count : Nat) : Nat → Nat → List NodeFields → Option Nat
  | 0, _, _ => none
  | fuel + 1, j, before =>
    let e := recField w (0x40 + 32 * j) 32
    if j < count then match nodeBad before e with
      | some o => some (0x40 + 32 * j + o)
      | none => nodesBad w count fuel (j + 1) (before ++ [nodeFields e])
    else match ([0, 1, 2, 3, 4, 5, 6, 8, 12, 16, 24].find? fun o =>
        recField e o (if o < 6 then 1 else if o = 6 then 2 else if o < 16 then 4 else 8) != 0) with
      | some o => some (0x40 + 32 * j + o)
      | none => nodesBad w count fuel (j + 1) before

/-- A SPLIT whose output does not feed two ports. R160 has the fault name the first offending field, which of a condition on several nodes no rule
says: it is the SPLIT's op, and for a type that does not fit the in0 or in1 of the node that reads (DESIGN CHOICE, log entry 85). -/
def splitBad (l : List NodeFields) : Option Nat :=
  ((List.range l.length).find? fun j => match l[j]? with
    | some n => n.op == 12 && uses l j != 2
    | none => false).map fun j => 0x40 + 32 * j

/-- The byte offset of a graph record's first offending field (R160 step 3). -/
def graphRecordBad (w : Nat) : Option Nat :=
  let count := recField w 2 1
  let out := recField w 3 1
  let nodes := (List.range (min count 16)).map fun j => nodeFields (recField w (0x40 + 32 * j) 32)
  if recField w 0 2 ≠ 1 then some 0
  else if count = 0 ∨ 16 < count then some 2
  else if count ≤ out ∨ (nodes[out]?.any fun n => n.op == 12) then some 3
  else if recField w 4 60 ≠ 0 then some 4
  else match nodesBad w count 16 0 [], splitBad nodes with
    | some a, some b => some (min a b)
    | some a, none => some a
    | none, b => b

/-- A checked node. -/
def gnodeOf (n : NodeFields) : GNode :=
  let ty := fun (c : Nat) => (ElemType.ofCode c).getD .int8
  { op := n.op, in0 := n.in0, in1 := n.in1, itype := ty n.it, otype := ty n.ot, rm := (Rounding.ofCode (n.round % 8)).getD .rne,
    sat := bitAt n.round 3, salt := BitVec.ofNat 64 n.salt, param0 := n.p0, param1 := n.p1, addr := BitVec.ofNat 64 n.addr }

/-- The graph of a checked record. -/
def graphOf (w ctx : Nat) : Graph :=
  { ctx := ctx, out := recField w 3 1,
    nodes := (List.range (recField w 2 1)).map fun j => gnodeOf (nodeFields (recField w (0x40 + 32 * j) 32)) }

/-! XF.LOAD. -/

/-- Whether a command is active through a slot of a cluster: a frozen core's until the blocks that it has taken have landed (R444). -/
def State.slotActive (s : State) (cluster slot : Nat) : Bool :=
  (span (16 * cluster) 16).any fun c => (s.core c).copies.any fun g => g.started && g.cr.graph && g.cr.slot == slot
    && (!(s.core c).frozen || !s.sentLanded c
      || s.requests.any fun r => r.2.core == c && r.2.unit % 2 ^ 40 == g.id && r.2.answer.isNone)

/-- Installs a graph in a slot once no command is active through it; of XF.LOADs that wait, the first to reach the interchange goes first
(R160 steps 4 and 5). The track keeps what it has read meanwhile. -/
def xfInstall (slot : Fin 4) (gr : Graph) (s : State) : Out :=
  let cl := clusterOf s.cur.1
  let seq := match s.me.wait with
    | some w => w.seq
    | none => s.nextId
  let before := (span (16 * cl) 16).any fun c => !(s.core c).frozen && (span 0 4).any fun t => (c, t) != s.cur && (match (s.track c t).wait with
    | some x => x.kind == .xfload && x.obj == slot.val && decide (x.seq < seq)
    | none => false)
  if s.slotActive cl slot.val || before then .wait .xfload slot.val (s.modMe fun t => { t with graph := some gr })
  else .done ((s.modCluster cl fun k => { k with slots := mput slot.val gr k.slots }).modMe fun t => { t with graph := none })

/-- XF.LOAD's own part (R160): the record is read and checked, then it installs. -/
def xfBody (slot : Fin 4) (va : Word) (s : State) : Out :=
  if va.toNat % 64 ≠ 0 then faulty .align s va
  else (s.readRecord va.toNat 72).out fun w s =>
    match graphRecordBad w with
    | some o => faulty .illegal s va o
    | none => xfInstall slot (graphOf w s.me.ctxid) (s.moved s.cur.1 18 576)

def execXfLoad (slot : Fin 4) (a : Reg) (s : State) : Host.Outcome State Fault Refusal :=
  perform (.xfLoad slot a) (fun s => xfBody slot (s.x a) s) s

def execXfLoadInstall (core t : Nat) (s : State) : Host.Outcome State Fault Refusal :=
  resumeWait core t .xfload (fun i s => match i, s.me.graph with
    | .xfLoad slot _, some gr => xfInstall slot gr s
    | .xfLoad slot a, none => xfBody slot (s.x a) s
    | _, _ => .done s) s

/-! Elements and units (`unitsOf`). -/

/-- The first `n` elements of a type in a queue of units. -/
def takeElems (t : ElemType) : Nat → List Nat → List Nat
  | 0, _ => []
  | n + 1, l =>
    if elemBits t = 4 then l.take (n + 1)
    else ofBytes ((l.take (elemBytes t)).map (BitVec.ofNat 8)) :: takeElems t n (l.drop (elemBytes t))

/-- Elements of a type as units. -/
def elemUnits (t : ElemType) (l : List Nat) : List Nat :=
  if elemBits t = 4 then l.map (· % 16) else l.flatMap fun e => (toBytes (elemBytes t) e).map (·.toNat)

/-- Units as bytes. -/
def unitBytes (l : List Nat) : List Byte := l.map (BitVec.ofNat 8)

/-- The bytes that hold elements of `bits` bits (R110). -/
def packElems (bits : Nat) (l : List Nat) : List Byte :=
  toBytes ((bits * l.length + 7) / 8) (l.foldr (fun e v => e + 2 ^ bits * v) 0)

/-- 4-bit elements packed, the first of a pair in the low half; the last of an odd number is left over unless they end. -/
def packHalves (ends : Bool) : List Nat → List Byte × List Nat
  | a :: b :: t => let (l, r) := packHalves ends t; (BitVec.ofNat 8 (a + 16 * b) :: l, r)
  | [a] => if ends then ([BitVec.ofNat 8 a], []) else ([], [a])
  | [] => ([], [])

/-! Operators (R168 to R174). -/

/-- A value rounded to a node's output type. -/
def nodeRound (g : GNode) (c : RCtx) (fromFloat : Bool) (v : Num) : Nat × Flags :=
  roundElem c g.otype (g.sat || (fromFloat && isIntElem g.otype)) v

/-- Greater magnitude first; a NaN counts as largest (R170, R172). -/
def magLess (a b : Num) : Bool :=
  if a.isNan then false else if b.isNan then true else numLt (a.withSign false) (b.withSign false)

/-- The `k` positions of largest magnitude, ascending; the lower position of equal ones. -/
def largest (k : Nat) (l : List Num) : List Nat :=
  (List.range l.length).filter fun i =>
    decide (((List.range l.length).filter fun j => match l[i]?, l[j]? with
      | some a, some b => magLess a b || (!magLess b a && decide (j < i))
      | _, _ => false).length < k)

/-- The CRC of R173 taken on by one byte. -/
def crcByte (crc : Nat) (b : Byte) : Nat :=
  (List.range 8).foldl (fun c _ => if bitAt c 63 then Nat.xor (c * 2 % 2 ^ 64) 0x42F0E1EBA9EA3693 else c * 2) (Nat.xor crc (b.toNat * 2 ^ 56))

/-- An addition that SCATTERADD has still to make: its virtual and physical address, and what it adds (R171). -/
structure ScatterAdd where
  va : Nat
  pa : Nat
  v : Num
deriving DecidableEq, Repr

/-- A graph command in the middle of a block of its out node: the machine, its nodes, the units that the out node has given, whether it has
given its block, and the flags raised and additions due. -/
structure Pump where
  s : State
  nodes : List NodeRun
  out : List Nat := []
  emitted : Bool := false
  flags : Flags := {}
  adds : List ScatterAdd := []
deriving DecidableEq, Repr

/-- What one block of a node gives. -/
structure BlockOut where
  run : NodeRun
  units : List Nat
  flags : Flags := {}
  adds : List ScatterAdd := []
deriving DecidableEq, Repr

/-- What the accesses of a node need: the command, its core, and the sizes of its nodes' inputs. -/
structure GCtx where
  core : Nat
  cmd : CopyCmd
  sizes : List (Nat × Nat × Nat) := []
deriving DecidableEq, Repr

def GCtx.who (x : GCtx) (s : State) : Who := x.cmd.who (s.core x.core) x.core

/-- Reads a value at a node's address, an aligned element at once (R178). -/
def GCtx.read (x : GCtx) (s : State) (va n : Nat) : ETry Nat :=
  if (n = 2 ∨ n = 4 ∨ n = 8) ∧ wrap va % n = 0 then s.engineUnit (x.who s) x.cmd.id (wrap va) n else s.engineBytes (x.who s) x.cmd.id (wrap va) n

/-- Whether a line lies whole in the bytes `[lo, hi)` that a command writes (R182). -/
def lineIn (lo hi line : Nat) : Bool := decide (lo ≤ 64 * line) && decide (64 * line + 64 ≤ hi)

/-- Writes a value at a node's address, one of the bytes `[lo, hi)` that the command writes for the node. -/
def GCtx.write (x : GCtx) (s : State) (va n v lo hi : Nat) : ETry Unit :=
  let a := wrap va
  (s.engineChecks (x.who s) (lineIn lo hi) a n).bind fun l s =>
    .ok () (s.engineWrites (x.who s) (lineIn lo hi (a / 64) && (a + n) % 64 == 0) l v)

/-- A data fault (R166). Its TADDR, of which no rule says anything, is 0 (DESIGN CHOICE, log entry 84). -/
def GCtx.dataFault {α : Type} (x : GCtx) (s : State) : ETry α :=
  .fault (([Cause.illegal, .priv, .align, .notPresent, .protect, .form, .window, .gridOwn, .fmtEmpty, .fmtBad, .stream, .race, .arith,
    .poison, .brk, .swTrap, .gang, .linkDown, .targetFull])[Config.dataFault x.cmd.id % 19]?.getD .illegal) 0 s

/-- The mode and draw of a node at an element (R167). -/
def GCtx.rctx (x : GCtx) (g : GNode) (i : Nat) : RCtx :=
  ⟨if g.rm = .dyn then x.cmd.rm else g.rm, (srBits x.cmd.seed g.salt (BitVec.ofNat 64 i)).toNat % 2 ^ 32⟩

/-- The side element `i` of a node. -/
def GCtx.sideElem (x : GCtx) (g : GNode) (s : State) (i : Nat) : ETry Nat :=
  if elemBits g.itype = 4 then
    (x.read s (g.addr.toNat + i / 2) 1).bind fun v s => .ok (if i % 2 = 1 then v / 16 else v % 16) s
  else x.read s (g.addr.toNat + i * elemBytes g.itype) (elemBytes g.itype)

/-- The second operands of a block of `n` elements: of the other node, or of the side input. -/
def GCtx.others (x : GCtx) (g : GNode) (r : NodeRun) (s : State) : Nat → Nat → ETry (List Nat)
  | _, 0 => .ok [] s
  | i, n + 1 =>
    if g.in1 = 17 then
      (x.sideElem g s (r.taken + i)).bind fun v s => (x.others g r s (i + 1) n).bind fun l s => .ok (v :: l) s
    else .ok (takeElems g.itype (n + 1) r.in1) s

/-- Reads the residual of a block (R170). -/
def GCtx.residual (x : GCtx) (g : GNode) (s : State) : Nat → Nat → ETry (List Nat)
  | _, 0 => .ok [] s
  | j, n + 1 => (x.read s (g.addr.toNat + 4 * j) 4).bind fun v s => (x.residual g s (j + 1) n).bind fun l s => .ok (v :: l) s

/-- Writes it back. -/
def GCtx.keep (x : GCtx) (g : GNode) (s : State) : Nat → List Nat → ETry Unit
  | _, [] => .ok () s
  | j, v :: t =>
    (x.write s (g.addr.toNat + 4 * j) 4 v g.addr.toNat (g.addr.toNat + 4 * (j + 1 + t.length))).bind fun _ s => x.keep g s (j + 1) t

/-- One block of TOPK (R170): the residual's new values, the pairs, the flags. -/
def topkBlock (x : GCtx) (g : GNode) (start : Nat) (els res : List Nat) : List Nat × List Byte × Flags :=
  let ys := (els.zip res).map fun (e, r) =>
    let (v, f) := numAdd false (elemValue g.itype e) (FloatFmt.fp32.value r)
    let (w, h) := roundFloat .rne .fp32 false v
    (w, f.or h)
  let sel := largest g.param1 (ys.map fun y => FloatFmt.fp32.value y.1)
  let fl := ys.foldl (fun f y => f.or y.2) {}
  ys.zipIdx.foldl (fun (acc : List Nat × List Byte × Flags) y =>
    let j := y.2
    let v := FloatFmt.fp32.value y.1.1
    if sel.contains j then
      let (w, f) := nodeRound g (x.rctx g (start + j)) true v
      let (d, h) := numAdd false v (elemValue g.otype w).negate
      let (r, h2) := roundFloat .rne .fp32 false d
      let pair := toBytes 4 (start + j) ++ toBytes (elemBytes g.otype) w
      if g.otype = .fp32 then (acc.1 ++ [0], acc.2.1 ++ pair, acc.2.2.or f)
      else (acc.1 ++ [r], acc.2.1 ++ pair, ((acc.2.2.or f).or h).or h2)
    else (acc.1 ++ [y.1.1], acc.2.1, acc.2.2)) ([], [], fl)

/-- The check of an addition at an array element (R171), as of an atomic at its home. -/
def GCtx.addCheck (x : GCtx) (s : State) (va : Nat) : ETry Nat :=
  let w := x.who s
  match s.access w va 4 .rmw false with
  | .fault c s => .fault c va s
  | .wait _ s => .wait s
  | .ok pa s => if s.engineWaits w pa 4 true then .wait s else .ok pa s

/-- Elements that a block of an operator takes (of `n` at hand, `dry` when no more come); none while it has to wait for more. R165 to R174 name no
block for CAST, SCALE, SCATTERADD, COMPARE, ADD and SPLIT: it is one element (DESIGN CHOICE, log entry 83). -/
def blockSize (g : GNode) (n : Nat) (dry : Bool) : Option Nat :=
  let want := if g.op = 3 then 32 else if g.op = 4 then g.param0 else if g.op = 6 then 8
    else if g.op = 7 then g.param0 * g.param0 else if g.op = 8 ∨ g.op = 9 then 4096 else 1
  if want ≤ n then some want else if dry && n != 0 then some n else none

/-- Whether a short last block is a data fault (R168, R169, R172). -/
def shortBad (g : GNode) (n : Nat) : Bool :=
  (g.op == 3 && n != 32) || (g.op == 6 && n != 8) || (g.op == 7 && n != g.param0 * g.param0) || (g.op == 8 && n != 4096)

/-- One block of `n` elements of node `j` whose first input it takes; `dry` says that it is the last. -/
def GCtx.block (x : GCtx) (j : Nat) (g : GNode) (r : NodeRun) (n : Nat) (dry : Bool) (s : State) : ETry BlockOut :=
  let ob := elemBits g.otype
  let q := r.in0.take (n * g.inUnits)
  let els := takeElems g.itype n q
  let vals := els.map (elemValue g.itype)
  let fl := isIntElem g.itype
  let r1 := { r with in0 := r.in0.drop (n * g.inUnits), taken := r.taken + n }
  let fold := fun (l : List (Nat × Flags)) => l.foldl (fun f x => f.or x.2) ({} : Flags)
  let nats := fun (l : List Byte) => l.map (·.toNat)
  if shortBad g n then x.dataFault s
  else if g.op = 1 then
    let l := vals.zipIdx.map fun (v, i) => nodeRound g (x.rctx g (r.taken + i)) (!fl) v
    .ok ⟨r1, elemUnits g.otype (l.map (·.1)), fold l, []⟩ s
  else if g.op = 2 then
    (if g.param0 = 0 then .ok (FloatFmt.fp32.value g.param1) s
     else (x.read s (g.addr.toNat + r.taken / 32) 1).bind fun b s => .ok (scaled (some b) (.fin ⟨false, 1, 0⟩)) s).bind fun k s =>
      let l := vals.zipIdx.map fun (v, i) =>
        let (p, f) := numMul v k
        let (w, h) := roundElem (x.rctx g (r.taken + i)) g.otype g.sat p
        (w, f.or h)
      .ok ⟨r1, elemUnits g.otype (l.map (·.1)), fold l, []⟩ s
  else if g.op = 3 then
    let sc := mxScale (mxEmax g.otype) vals
    let l := vals.zipIdx.map fun (v, i) => mxConvert (x.rctx g (r.taken + i)) g.otype sc v
    let scales := r.in1 ++ [sc]
    let close := scales.length == 32 || dry
    .ok ⟨{ r1 with in1 := if close then [] else scales },
      nats (packElems ob (l.map (·.1))) ++ (if close then scales else []), fold l, []⟩ s
  else if g.op = 4 then
    (x.residual g s 0 n).bind fun res s =>
      let (keep, out, f) := topkBlock x g r.taken els res
      (x.keep g s 0 keep).bind fun _ s => .ok ⟨r1, nats out, f, []⟩ s
  else if g.op = 5 then
    let idx := ofBytes (unitBytes (q.take 4))
    if g.param0 ≤ idx then x.dataFault s
    else
      let va := wrap (g.addr.toNat + 4 * idx)
      (x.addCheck s va).bind fun pa s => .ok ⟨r1, q, {}, [⟨va, pa, elemValue g.itype (ofBytes (unitBytes (q.drop 4)))⟩]⟩ s
  else if g.op = 6 then
    let sel := largest g.param0 vals
    let bits := sel.zipIdx.foldl (fun m p => m + p.1 * 8 ^ p.2) 0
    let acc := r.crc + bits * 2 ^ (3 * g.param0 * r.side)
    let close := r.side == 31 || dry
    .ok ⟨{ r1 with side := if close then 0 else r.side + 1, crc := if close then 0 else acc },
      elemUnits g.itype (sel.map fun i => els.getD i 0)
        ++ (if close then nats (toBytes ((3 * g.param0 * (r.side + 1) + 7) / 8) acc) else []), {}, []⟩ s
  else if g.op = 7 then
    let b := g.param0
    .ok ⟨r1, elemUnits g.otype ((List.range (b * b)).map fun i => els.getD (i % b * b + i / b) 0), {}, []⟩ s
  else if g.op = 8 then
    .ok ⟨r1, (List.range 4096).map fun o =>
      els.getD (((List.range 4096).find? fun i => formPlace (g.param0 / 8) i == o).elim 0 fun i => formPlace (g.param0 % 8) i) 0, {}, []⟩ s
  else if g.op = 9 then
    let crc := (unitBytes q).foldl crcByte 0
    let pages := ((x.sizes.getD j (0, 0, 0)).1 + 4095) / 4096
    (x.write s (g.addr.toNat + 8 * r.side) 8 crc g.addr.toNat (g.addr.toNat + 8 * pages)).bind fun _ s =>
      .ok ⟨{ r1 with side := r.side + 1 }, q, {}, []⟩ s
  else if g.op = 10 ∨ g.op = 11 then
    (x.others g r s 0 n).bind fun bs s =>
      let r2 := if g.in1 = 17 then r1 else { r1 with in1 := r1.in1.drop (n * unitsOf g.itype) }
      let l := (els.zip bs).zipIdx.map fun (ab, i) =>
        let a := elemValue g.itype ab.1
        let b := elemValue g.itype ab.2
        if g.op = 10 then ((if g.param0 = 1 then ab.1 == ab.2 else numEq a b).toNat, ({} : Flags))
        else
          let c := x.rctx g (r.taken + i)
          let (v, f) := numAdd (c.rm == .rdn) a b
          let (w, h) := roundElem c g.otype g.sat v
          (w, f.or h)
      .ok ⟨r2, elemUnits g.otype (l.map (·.1)), fold l, []⟩ s
  else .ok ⟨r1, q, {}, []⟩ s

/-! What a node can do (R165). -/

/-- A node waits for input, ends, meets the data fault of inputs of different length, or takes elements: how many, of its second input (only
JOIN does), and whether they are its last. -/
inductive NodeStep
  | waits
  | ends
  | fault
  | takes (n : Nat) (second dry : Bool)
deriving DecidableEq, Repr

/-- Whether a node's input has ended: the source, or the node it reads. -/
def inputOver (p : Pump) (srcOver : Bool) (j : Nat) : Bool :=
  if j = 16 then srcOver else match p.nodes[j]? with
    | some r => r.ended
    | none => true

/-- The next block of JOIN: of the input whose turn it is, or of the other once that one has run out (R168). -/
def joinStep (g : GNode) (turn : Bool) (c0 c1 : Nat) (over0 over1 : Bool) : NodeStep :=
  let from_ := fun (second : Bool) =>
    let c := if second then c1 else c0
    let spent := if second then over1 else over0
    if g.param0 ≤ c then NodeStep.takes g.param0 second false else if spent && c != 0 then .takes c second true else .waits
  if over0 && over1 && c0 == 0 && c1 == 0 then .ends
  else if (if turn then over1 && c1 == 0 else over0 && c0 == 0) then from_ (!turn)
  else from_ turn

def nodeStep (p : Pump) (srcOver : Bool) (g : GNode) (r : NodeRun) : NodeStep :=
  let over0 := inputOver p srcOver g.in0
  let two := opIn1 g.op != 0 && g.in1 != 17
  let over1 := two && inputOver p srcOver g.in1
  let c0 := r.in0.length / g.inUnits
  let c1 := r.in1.length / unitsOf g.itype
  if r.ended then .waits
  else if g.op = 13 then joinStep g r.turn c0 c1 over0 over1
  else
    let n := if two then min c0 c1 else c0
    let dry := over0 && (!two || over1)
    if dry && c0 == 0 && (!two || c1 == 0) then .ends
    else if two && ((over0 && c0 == 0 && c1 != 0) || (over1 && c1 == 0 && c0 != 0)) then .fault
    else match blockSize g n (dry || (two && (over0 || over1))) with
      | none => .waits
      | some m => .takes m false (dry && n == m)

/-- Gives a node's units to its readers, and to the destination. -/
def Pump.give (p : Pump) (gr : Graph) (j : Nat) (o : BlockOut) : Pump :=
  let nodes := (p.nodes.set j o.run).zipIdx.map fun (r, i) => match gr.nodes[i]? with
    | none => r
    | some n =>
      let r := if n.in0 = j then { r with in0 := r.in0 ++ o.units } else r
      if n.in1 = j && opIn1 n.op != 0 then { r with in1 := r.in1 ++ o.units } else r
  { p with
      nodes := nodes, flags := p.flags.or o.flags, adds := p.adds ++ o.adds
      out := if gr.out = j then p.out ++ o.units else p.out, emitted := p.emitted || gr.out == j }

/-- A block of node `j`. -/
def GCtx.runNode (x : GCtx) (gr : Graph) (j : Nat) (g : GNode) (r : NodeRun) (n : Nat) (second dry : Bool) (p : Pump) : ETry Pump :=
  if g.op = 13 then
    let k := n * unitsOf g.itype
    let o : BlockOut := if second then ⟨{ r with in1 := r.in1.drop k, turn := false }, r.in1.take k, {}, []⟩
      else ⟨{ r with in0 := r.in0.drop k, turn := true }, r.in0.take k, {}, []⟩
    .ok (p.give gr j o) p.s
  else (x.block j g r n dry p.s).bind fun o s => .ok ({ p with s := s }.give gr j o) s

/-- The nodes that can do something, with it: those that end first, then the last node of the graph that can take a block. -/
def Pump.next (p : Pump) (gr : Graph) (srcOver : Bool) : Option (Nat × GNode × NodeRun × NodeStep) :=
  let all := (gr.nodes.zip p.nodes).zipIdx.map fun ((g, r), j) => (j, g, r, nodeStep p srcOver g r)
  match all.find? fun e => e.2.2.2 == .ends with
  | some e => some e
  | none => all.reverse.find? fun e => e.2.2.2 != .waits

/-- Source units are fed, and nodes take their blocks one by one, until the out node gives a block or all is done: the bytes fed. -/
def GCtx.feed (x : GCtx) (gr : Graph) (step : Nat) (halves : Bool) : Nat → Nat → Pump → ETry (Pump × Nat)
  | 0, taken, p => .ok (p, taken) p.s
  | fuel + 1, taken, p =>
    let left := x.cmd.total - taken
    if p.emitted then .ok (p, taken) p.s
    else match p.next gr (left == 0) with
      | some (j, _, r, .ends) => x.feed gr step halves fuel taken { p with nodes := p.nodes.set j { r with ended := true } }
      | some (_, _, _, .fault) => x.dataFault p.s
      | some (j, g, r, .takes n second dry) =>
        (x.runNode gr j g r n second dry p).bind fun p s => x.feed gr step halves fuel taken { p with s := s }
      | some (_, _, _, .waits) => .ok (p, taken) p.s
      | none =>
        if left = 0 then .ok (p, taken) p.s
        else
          (readSrc (min step left) taken p.s).bind fun l s =>
            let l := if halves then l.flatMap fun b => [b % 16, b / 16] else l
            let nodes := p.nodes.zipIdx.map fun (r, i) => match gr.nodes[i]? with
              | some g => if g.in0 = 16 then { r with in0 := r.in0 ++ l } else r
              | none => r
            x.feed gr step halves fuel (taken + min step left) { p with s := s, nodes := nodes }
where
  readSrc : Nat → Nat → State → ETry (List Nat)
    | 0, _, s => .ok [] s
    | n + 1, i, s => (x.read s (x.cmd.srcAddr i) 1).bind fun b s => (readSrc n (i + 1) s).bind fun l s => .ok (b :: l) s

/-! Writing a block. -/

/-- The checks of the bytes that the out node gives, from destination byte `i` on, of a command that writes `len` bytes in all. -/
def GCtx.checkOut (x : GCtx) (len i n : Nat) (s : State) : ETry (List Nat) :=
  let base := x.cmd.cr.dst.toNat
  s.engineChecks (x.who s) (lineIn base (base + len)) (x.cmd.dstAddr i) n

/-- Writes them, line by line. -/
def GCtx.writeOut (x : GCtx) (len i : Nat) (pas : List Nat) (l : List Byte) (s : State) : State :=
  let base := x.cmd.cr.dst.toNat
  let va := x.cmd.dstAddr i
  (span 0 (l.length / 64 + 2)).foldl (fun s j =>
    let from_ := if j = 0 then 0 else 64 * j - va % 64
    let n := if j = 0 then 64 - va % 64 else 64
    let part := (l.drop from_).take n
    if part.isEmpty then s
    else s.engineWrites (x.who s) (lineIn base (base + len) ((va + from_) / 64) && (va + from_ + part.length) % 64 == 0)
      ((pas.drop from_).take n) (ofBytes part)) s

/-- The unit under which an addition of a block asks another node. -/
def addUnit (id i : Nat) : Nat := id + 2 ^ 40 * (i + 1)

/-- What a remote home is told of an addition: op 19, the FP64 bits of what is added to an FP32 array element. -/
def ScatterAdd.wire (a : ScatterAdd) : List Byte := atomicWire 19 4 (roundFloat .rne .fp64 false a.v).1 0

/-- The old value of each element that a block adds to: those at other nodes as they answer, none while an answer is to come. -/
def GCtx.addAsks (x : GCtx) (l : List ScatterAdd) (s : State) : ETry Unit :=
  let w := x.who s
  let (s, all) := l.zipIdx.foldl (fun (acc : State × Bool) a => match area a.1.pa with
    | .remote _ _ => match acc.1.ask w.asker (addUnit x.cmd.id a.2) a.1.pa 5 a.1.wire w.map with
      | (some _, s) => (s, acc.2)
      | (none, s) => (s, false)
    | _ => acc) (s, true)
  if all then .ok () s else .wait s

/-- An FP32 addition to an old value, rounded once (R171). -/
def scatterSum (old : Nat) (v : Num) : Nat × Flags :=
  let (sum, f) := numAdd false (FloatFmt.fp32.value old) v
  let (b, h) := roundFloat .rne .fp32 false sum
  (b, f.or h)

/-- Makes the additions of a block, in their order: the state and the flags. -/
def GCtx.addAll (x : GCtx) (l : List ScatterAdd) (s : State) : State × Flags :=
  let w := x.who s
  l.zipIdx.foldl (fun (acc : State × Flags) a => match area a.1.pa with
    | .remote _ _ => match acc.1.ask w.asker (addUnit x.cmd.id a.2) a.1.pa 5 a.1.wire w.map with
      | (some b, s) => (s, acc.2.or (scatterSum (ofBytes b % 2 ^ 32) a.1.v).2)
      | (none, s) => (s, acc.2)
    | _ =>
      let r := scatterSum (acc.1.bytes a.1.pa 4) a.1.v
      (acc.1.setBytes a.1.pa 4 r.1, acc.2.or r.2)) (s, {})

/-- What stays of a block that is not made: its requests to other nodes. -/
def keepAsks (s0 s : State) : State := { s0 with requests := s.requests, outbox := s.outbox, conns := s.conns, nextId := s.nextId }

/-- A block that is made: its out bytes with what is left over of 4-bit elements, the bytes fed, its nodes and flags. -/
structure Made where
  out : List Byte
  rest : List Nat
  taken : Nat
  nodes : List NodeRun
  flags : Flags

/-- Makes the out node's next block, or what the nodes still do after its last: everything is checked before anything of it is written. -/
def GCtx.make (x : GCtx) (gr : Graph) (len : Nat) (s : State) : ETry Made :=
  let g := x.cmd
  let src := gr.nodes.find? (·.in0 == 16)
  let step := match src with
    | some n => n.inUnits
    | none => 1
  let halves := match src with
    | some n => elemBits n.itype == 4
    | none => false
  let outHalves := match gr.nodes[gr.out]? with
    | some n => n.halves
    | none => false
  let fuel := (2 * (g.total - g.taken) + (g.nodes.foldl (fun a r => a + r.in0.length + r.in1.length) 16)) * 64
  (x.feed gr step halves fuel g.taken { s := s, nodes := g.nodes }).bind fun (p, taken) s =>
    let units := g.out.map (·.toNat) ++ p.out
    let (out, rest) := if outHalves then packHalves (p.nodes.all (·.ended)) units else (unitBytes units, [])
    (x.checkOut len g.done out.length s).bind fun pas s =>
      (x.addAsks p.adds s).bind fun _ s =>
        let (s, f) := x.addAll p.adds (x.writeOut len g.done pas out s)
        .ok ⟨out, rest, taken, p.nodes, p.flags.or f⟩ s

/-- GRAPH_BLOCK: the command makes its out node's next block, whole or not at all (R165, R166). A fault's offset is that of the source bytes
that the blocks before it have taken. -/
def execGraphBlock (core : Nat) (c : Q8) (s : State) : Host.Outcome State Fault Refusal :=
  s.onHead core c fun g =>
    match s.runGraph core g with
    | none => s
    | some gr =>
      if !g.started || !g.cr.graph || s.stopping core c.val g || (g.nodes.all (·.ended) && g.out.isEmpty) then s
      else
        let x : GCtx := ⟨core, g, graphSizes g.total gr.nodes []⟩
        match x.make gr (s.outLen core g) s with
        | .wait s1 => keepAsks s s1
        | .fault cause a s1 =>
          let down := match s.peek (x.who s) (g.dstAddr g.done) .write with
            | some pa => s.linkDown pa g.map
            | none => false
          let s := { s with tick := s1.tick }
          if cause = .linkDown then
            if down then s.dstFault core c.val g cause a 0
            else s.suspendCopy core c.val g cause (g.milestone (s.outLen core g)) g.taken true
          else s.suspendCopy core c.val g cause a g.taken false
        | .ok m s1 =>
          let s1 := { s1 with requests := s1.requests.filter fun r => !(r.2.core == core && r.2.unit % 2 ^ 40 == g.id) }
          ((s1.modHead core c.val fun g =>
            { g with taken := m.taken, done := g.done + m.out.length, nodes := m.nodes, flags := g.flags.or m.flags
                     out := m.rest.map (BitVec.ofNat 8) }).moved core (8 + c.val) (m.taken - g.taken)).noteMile core c.val g.ctx
            (s.mile core c.val)

end Sys2Proof.Machine
end

