-- ==== Sys2Proof/Machine/Meetings.lean ====
section
/-!
DEFINITION. Meetings (R221 to R230, R395 to R397): the six instructions, the combiner, and the home's and the proxy's parts of a
meeting across packages.
-/
namespace Sys2Proof.Machine

/-! The object (R221). The engine holds it; its 128 bytes mirror what it holds. -/

/-- Field of `n` bytes at an offset of the record. -/
def MeetObj.field (o : MeetObj) (off n : Nat) : Nat := o.record / 2 ^ (8 * off) % 2 ^ (8 * n)

def MeetObj.n (o : MeetObj) : Nat := o.field 0 2
def MeetObj.k (o : MeetObj) : Nat := o.field 2 2
def MeetObj.limit (o : MeetObj) : Nat := o.field 4 1 % 16
def MeetObj.count (o : MeetObj) : Nat := o.field 12 4
def MeetObj.elem (o : MeetObj) : FloatFmt := if o.field 8 1 = 6 then .fp16 else if o.field 8 1 = 7 then .bf16 else .fp32
def MeetObj.esize (o : MeetObj) : Nat := if o.field 8 1 = 8 then 4 else 2
def MeetObj.isProxy (o : MeetObj) : Bool := bitAt (o.field 0x14 4) 2
def MeetObj.homeNode (o : MeetObj) : Nat := o.field 0x78 4
def MeetObj.homeOffset (o : MeetObj) : Nat := o.field 0x7C 4 % 2 ^ 30
def MeetObj.isOpen (o : MeetObj) : Bool := bitAt o.status 0
def MeetObj.isClosed (o : MeetObj) : Bool := bitAt o.status 1
/-- A member's slot for the parity of a tag. -/
def MeetObj.slot (o : MeetObj) (m t : Nat) : Nat := wrap (o.field 0x58 8 + (2 * m + t % 2) * o.field 0x60 8)
/-- The result buffer of a round. -/
def MeetObj.buffer (o : MeetObj) (c : Nat) : Nat := wrap (o.field 0x68 8 + c % 2 * (o.count * 4))
/-- The member holds a contribution that is not combined yet. -/
def MeetObj.holds (o : MeetObj) (m : Nat) : Bool :=
  (o.ontime ++ o.late ++ o.rounds.flatMap fun r => r.ontime ++ r.late).any fun c => c.member == m
/-- Q of R225. -/
def MeetObj.quorum (o : MeetObj) : Nat := min o.k (o.n - o.lapsed.length)

def State.meet (s : State) (pa : Nat) : MeetObj := mget {} pa s.meets

/-- The bits of a mask of members. -/
def memberMask (l : List Nat) : Nat := l.foldl (fun m i => Nat.lor m (2 ^ i)) 0

/-- Puts a changed object back, and its fields in memory; where its lines are no longer marked, the state field alone. -/
def State.setMeet (s : State) (pa : Nat) (o : MeetObj) : State :=
  let s := { s with meets := mput pa o s.meets }
  if s.barLine pa then s
  else
    let s := s.setBytes (pa + 0x14) 4 o.status
    if !s.isMarked pa then s
    else ((s.setBytes (pa + 0x10) 4 o.round).setBytes (pa + 0x18) 32 (memberMask (o.ontime.map (·.member)))).setBytes (pa + 0x38) 32
      (memberMask o.lapsed)

/-- The offset by which other packages name an object, and back. -/
def syncOffset (pa : Nat) : Nat := pa - syncPa 0 0
def syncObject (off : Nat) : Nat := syncPa 0 0 + off % 2 ^ 30

/-! Closed meetings whose object has been opened afresh. -/

/-- A meeting of an object, by its combiner's agent number. -/
def State.meetBy (s : State) (pa agent : Nat) : MeetObj :=
  match s.oldMeets.find? fun e => e.1 == pa && e.2.agent == agent with
  | some e => e.2
  | none => s.meet pa

/-- Puts back what has changed of a meeting, whether or not its object has been opened afresh. -/
def State.putMeet (s : State) (pa : Nat) (o : MeetObj) : State :=
  if s.oldMeets.any fun e => e.1 == pa && e.2.agent == o.agent then
    { s with oldMeets := s.oldMeets.map fun e => if e.1 = pa ∧ e.2.agent = o.agent then (pa, o) else e }
  else s.setMeet pa o

/-- Whether a track waits in a meeting whose object has been opened afresh. -/
def State.waitsIn (s : State) (agent : Nat) : Bool :=
  s.cores.any fun c => c.2.tracks.any fun t => match t.2.wait with
    | some w => w.meeting == some agent
    | none => false

/-- The closed meeting of an object makes way: it is kept while a round of it is not written, or a MEET.WAIT waits in it (R228, R397). -/
def State.retireMeet (s : State) (pa : Nat) : State :=
  let o := s.meet pa
  let s := s.mapWaits fun _ w => if w.kind = .meetWait ∧ w.obj = pa ∧ w.verdict = none ∧ w.meeting = none then { w with meeting := some o.agent } else w
  let keep := fun (e : Nat × MeetObj) => !e.2.rounds.isEmpty || e.2.due != 0 || s.waitsIn e.2.agent
  { s with oldMeets := (s.oldMeets ++ (if mhas pa s.meets then [(pa, o)] else [])).filter keep }

/-- The combiner as a data agent: its die's synchronisation engine (R187), which translates in the context that opened the meeting. -/
def MeetObj.who (o : MeetObj) : Who :=
  { core := o.core, ctx := o.ctx, super := o.super, desc := o.desc, agent := o.agent, clock := o.clock
    engine := some (1024 + o.die, 0), fromDie := true }

/-! Closing. -/

/-- Bytes in pieces that fit a packet. -/
def pieces : Nat → List Byte → List (List Byte)
  | 0, _ => []
  | n + 1, l => if l.length ≤ 8128 then [l] else l.take 8128 :: pieces n (l.drop 8128)
def piecesOf (l : List Byte) : List (List Byte) := pieces (l.length / 8128 + 1) l

/-- A status for a forwarded arrival (R230): the code and the round open at the home. -/
def State.replyFar (s : State) (a : FarArrival) (code round : Nat) : State :=
  s.send a.node 8 a.req a.proxy (toBytes 1 code ++ toBytes 4 round)

/-- Whether the result of a round may still be written: its combination has begun (R397), or a proxy's home may send it still. -/
def MeetObj.begun (o : MeetObj) (t : Nat) : Bool := o.rounds.any (fun r => r.round == t) || decide (t < o.due)

/-- A closed meeting's proxies are told, once every round whose combination had begun has gone to them (R228, R230, R397). -/
def State.meetNotify (s : State) (pa : Nat) (o : MeetObj) : State :=
  if o.isOpen || !o.rounds.isEmpty then s.putMeet pa o
  else
    (o.proxies.foldl (fun s p => s.send p.1 8 0 p.2 (toBytes 1 3 ++ toBytes 4 o.round)) s).putMeet pa { o with proxies := [] }

/-- CLOSED, for a waiting form of an object that closes (R228): every one but a MEET.WAIT whose round's combination has begun. -/
def MeetObj.closes (o : MeetObj) (pa : Nat) (t : Track) (w : Wait) : Bool :=
  w.obj == pa && w.verdict.isNone && w.meeting.isNone && (match w.instr with
    | .meetSlot _ _ _ => true | .meetArrive _ _ _ => true | .meetRejoin _ _ _ => true
    | .meetWait _ _ b => !o.begun (fld (t.getX b) 63 32) && !o.written.any fun r => r.1 == fld (t.getX b) 63 32
    | _ => false)

/-- Closes a meeting: the open round's contributions are discarded, every waiting form returns CLOSED, and its proxies are told (R228,
R230). At a proxy, results of the rounds below `due` may still come. -/
def State.meetShut (s : State) (pa : Nat) (due : Nat := 0) : State :=
  let o := { s.meet pa with due := due, atClose := (s.meet pa).written.map fun (r : Nat × List Rel) => r.1 }
  let s := o.waiting.foldl (fun s a => s.replyFar a 3 o.round) s
  let s := s.mapWaits fun t w => if o.closes pa t w then { w with verdict := some 3 } else w
  s.meetNotify pa { o with status := Nat.lor (o.status / 2 * 2) 2, ontime := [], late := [], waiting := [] }

/-- A combiner fault of a meeting (R227). -/
def State.meetFault (s : State) (pa : Nat) (c : Cause) (o : MeetObj) : State :=
  let s := s.putMeet pa { o with status := Nat.lor o.status 8 }
  let s := { s with reports := s.reports ++ [Report.meeting pa c] }
  if (s.meet pa).agent = o.agent then s.meetShut pa else s.meetNotify pa (s.meetBy pa o.agent)

/-- Sorted insertion by a key. -/
def insertBy (key : Contrib → Nat) (c : Contrib) : List Contrib → List Contrib
  | [] => [c]
  | a :: t => if key c < key a then c :: a :: t else a :: insertBy key c t
def sortBy (key : Contrib → Nat) (l : List Contrib) : List Contrib := l.foldr (insertBy key) []

/-- The close of the open round (R225). -/
def State.roundClose (s : State) (pa : Nat) : State :=
  let o := s.meet pa
  if 2 ^ 32 ≤ o.round + 1 then s.meetShut pa
  else
    let c := o.round + 1
    let r : Round :=
      { round := o.round, ontime := sortBy (·.member) o.ontime, late := sortBy (fun x => x.tag * 512 + x.member) o.late }
    let s := s.emitAt (.die (syncDie pa)) 0xD 0 o.ctx (BitVec.ofNat 64 o.round)
    let gone := (List.range o.n).filter fun m => decide (o.limit < c - mget 0 m o.expected) || o.lapsed.contains m
    s.setMeet pa { o with round := c, ontime := [], late := [], rounds := o.rounds ++ [r], lapsed := gone }

/-- The quorum test (R225). -/
def State.quorumTest (s : State) (pa : Nat) : State :=
  let o := s.meet pa
  if 1 ≤ o.quorum ∧ o.quorum ≤ o.ontime.length then s.roundClose pa else s

/-! Arrivals (R224). -/

inductive Arrived
  | illegal
  | waits
  | ends (status : Nat) (s : State)

/-- Classifies an arrival of member `m` with tag `t`. -/
def State.classify (s : State) (pa m t : Nat) (rel : Rel) (data : Option (List Byte)) : Arrived :=
  let o := s.meet pa
  if o.holds m ∨ t < mget 0 m o.expected then .illegal
  else if o.lapsed.contains m then .ends 2 s
  else if o.round < t then .waits
  else
    let j := o.round - t
    let c : Contrib := ⟨m, t, j, rel, data⟩
    let s := s.emitAt rel.loc 0xC 0 o.ctx (BitVec.ofNat 64 (t * 2 ^ 32 + m))
    let o' := { o with expected := mput m (t + 1) o.expected }
    if j = 0 then .ends 0 ((s.setMeet pa { o' with ontime := o.ontime ++ [c] }).quorumTest pa)
    else if j ≤ o.limit then .ends 1 (s.setMeet pa { o' with late := o.late ++ [c] })
    else .ends 2 ((s.setMeet pa { o with lapsed := insertNat m o.lapsed }).quorumTest pa)

/-- Arrivals that wait at an object and whose round is open: their places in the order of waits. -/
def State.dueArrivals (s : State) (pa : Nat) (me : Nat × Nat) : List Nat :=
  let o := s.meet pa
  let near := s.cores.flatMap fun (c, k) => if k.frozen then [] else k.tracks.filterMap fun (n, t) => match t.wait with
    | some w => if (c, n) ≠ me ∧ w.kind = .meetArrive ∧ w.obj = pa ∧ w.verdict = none then
        (match w.instr with
          | .meetArrive _ _ b => if fld (t.getX b) 63 32 ≤ o.round then some w.seq else none
          | _ => none)
      else none
    | none => none
  near ++ (o.waiting.filter fun a => decide (a.tag ≤ o.round) && a.data.length == o.count * o.esize).map (·.seq)

/-- Whether a track's arrival has its turn (R225 step 4). -/
def State.arrivalTurn (s : State) (pa : Nat) : Bool :=
  (s.dueArrivals pa s.cur).all fun q => match s.me.wait with
    | some w => decide (w.seq < q)
    | none => false

/-! The checks (R395). -/

/-- Whether the state field of an object in memory has open or closed set (R395): a closed meeting's lines may be unmarked and written. -/
def State.meetState (s : State) (pa : Nat) : Bool := bitAt (s.bytes (pa + 0x14) 1) 0 || bitAt (s.bytes (pa + 0x14) 1) 1

/-- The checks of a meeting instruction but MEET.OPEN: steps 1 and 3. What no MEET.OPEN has made is no object, whatever its bytes (DESIGN
CHOICE, log entry 77). -/
def State.atMeeting (s : State) (va : Word) (f : Nat → State → Out) : Out :=
  match s.objFind va with
  | .fault c s => faulty c s va
  | .wait k s => .wait k 0 s
  | .ok pa s =>
    if !s.backed (pa + 64) true then faulty .window s va
    else if s.barLine pa || s.barLine (pa + 64) || !(mhas pa s.meets && s.meetState pa) then
      faulty .protect s va
    else if s.poisoned pa || s.poisoned (pa + 64) then faulty .poison s va
    else f pa s

/-- The member and tag fields of R223 too. -/
def State.atMember (s : State) (va xb : Word) (f : Nat → Nat → Nat → State → Out) : Out :=
  s.atMeeting va fun pa s =>
    if fld xb 31 9 ≠ 0 ∨ (s.meet pa).n ≤ fld xb 8 0 then faulty .illegal s else f pa (fld xb 8 0) (fld xb 63 32) s

/-- Whether an address lies in the local or the core window. -/
def inCoreWindow (va : Nat) : Bool := windowOf va == some 1 || windowOf va == some 2

/-- Whether a descriptor breaks R221 (R222). -/
def descriptorBad (w : Nat) : Bool :=
  let o : MeetObj := { record := w }
  let f := fun (off n : Nat) => o.field off n
  o.n == 0 || decide (256 < o.n) || o.k == 0 || decide (o.n < o.k) || o.limit == 0 || decide (16 ≤ f 4 1)
    || bitsOf (f 5 1) 6 3 != 0 || (!bitAt (f 5 1) 7 && f 6 1 != 0) || decide (2 < f 7 1) || decide (f 8 1 < 6) || decide (8 < f 8 1)
    || f 9 3 != 0 || o.count == 0 || decide (2 ^ 20 < o.count) || f 0x10 4 != 0 || (f 0x14 4 != 0 && f 0x14 4 != 4)
    || f 0x18 64 != 0 || f 0x58 8 % 64 != 0 || f 0x60 8 % 64 != 0 || decide (f 0x60 8 < o.count * o.esize)
    || f 0x68 8 % 64 != 0 || f 0x70 8 % 64 != 0 || decide (2 ^ 62 ≤ f 0x78 8)
    || inCoreWindow (f 0x58 8) || inCoreWindow (f 0x68 8) || inCoreWindow (f 0x70 8)

/-! The instructions. -/

/-- What a home is asked for a proxy: 20 MEET.REJOIN of a member, 21 to know a proxy by its offset, 22 MEET.CLOSE. -/
def meetWire (op m : Nat) : List Byte := toBytes 1 op ++ toBytes 1 8 ++ toBytes 8 m ++ toBytes 8 0

/-- What a MEET.OPEN makes: round 0, open, masks clear, lines marked (R206, R222). A proxy makes itself known to its home, and a home knows
the proxies that have done so (R230). -/
def State.meetOpen (s : State) (pa w : Nat) : State :=
  let (agent, s) := s.fresh
  let s := s.retireMeet pa
  let proxy := w / 2 ^ (8 * 0x14) % 2 ^ 32
  let o : MeetObj :=
    { record := w, status := Nat.lor 1 proxy, core := s.cur.1, ctx := s.me.ctxid, super := s.me.super, desc := s.me.desc, agent := agent, die := syncDie pa
      proxies := (s.farProxies.filter fun p => p.1 == pa).map (·.2) }
  let s := { s with farProxies := s.farProxies.filter fun p => p.1 != pa }
  let s := ((s.setBytes pa 128 w).mark pa 2 true).setMeet pa o
  if o.isProxy then s.request (512 + syncDie pa) storeUnit o.homeNode o.homeOffset 5 (meetWire 21 (syncOffset pa)) else s

/-- MEET.OPEN (R222, R395, R396). -/
def execMeetOpen (d a b : Reg) (s : State) : Host.Outcome State Fault Refusal :=
  perform (.meetOpen d a b) (fun s =>
    let va := s.x a
    let xb := s.x b
    match s.objFind va with
    | .fault c s => faulty c s va
    | .wait k s => .wait k 0 s
    | .ok pa s =>
      if !s.backed (pa + 64) true then faulty .window s va
      else if xb.toNat % 64 ≠ 0 then faulty .align s xb
      else (readDescriptor s xb.toNat 16).out fun w s =>
        if s.barLine pa || s.barLine (pa + 64) then faulty .protect s va
        else if s.poisoned pa || s.poisoned (pa + 64) then faulty .poison s va
        else if (s.meet pa).isOpen then .done (s.newRegion.setX d 1)
        else if descriptorBad w then .done (s.newRegion.setX d 2)
        else .done ((s.meetOpen pa w).newRegion.setX d 0)) s
where
  /-- Reads of eight bytes each. -/
  readDescriptor (s : State) (va : Nat) : Nat → Try Nat
    | 0 => .ok 0 s
    | n + 1 => (s.load va 8 0).bind fun v s => (readDescriptor s (wrap (va + 8)) n).bind fun r s => .ok (v + 2 ^ 64 * r) s

/-- A form that waits at its object goes on there: with the result that the object's close has given it, or by `f` with the member and tag
of `b`. -/
def State.atWaited (s : State) (i : Instr) (d b : Reg) (f : Nat → Nat → Nat → Out) : Out :=
  match s.verdict i, s.me.wait with
  | some v, _ => .done (s.newRegion.setX d (BitVec.ofNat 64 v))
  | none, some w => f w.obj (fld (s.x b) 8 0) (fld (s.x b) 63 32)
  | none, none => .done s

/-- MEET.SLOT at its object (R223). -/
def meetSlotAt (d : Reg) (pa m t : Nat) (s : State) : Out :=
  let o := s.meet pa
  if o.isClosed then .done (s.newRegion.setX d 3)
  else if o.holds m || o.sent.any fun x => x.1 == m then .wait .meetSlot pa s
  else .done (s.newRegion.setX d (BitVec.ofNat 64 (o.slot m t)))

def execMeetSlot (d a b : Reg) (s : State) : Host.Outcome State Fault Refusal :=
  perform (.meetSlot d a b) (fun s => s.atMember (s.x a) (s.x b) (meetSlotAt d)) s

/-- MEET_SLOT_RETURN. -/
def execMeetSlotReturn (core t : Nat) (s : State) : Host.Outcome State Fault Refusal :=
  resumeWait core t .meetSlot (fun i s => match i with
    | .meetSlot d _ b => s.atWaited i d b fun pa m t => meetSlotAt d pa m t s
    | _ => .done s) s

/-- What an arrival at a proxy comes to (R230): the slot's bytes go to the home, and the home's status comes back. A contribution whose
round's result has come before the status holds its slot no longer. -/
def proxyArrive (d : Reg) (va : Word) (pa m t : Nat) (s : State) : Out :=
  let o := s.meet pa
  let node := o.homeNode
  if (mget {} node s.conns).down then faulty .linkDown s va
  else
    let head := toBytes 2 m ++ toBytes 4 t ++ toBytes 4 (syncOffset pa)
    match s.requests.find? fun r => r.2.core == s.cur.1 && r.2.unit == s.cur.2 && r.2.kind == 7 && r.2.addr == o.homeOffset with
    | some (_, r) =>
      (match r.answer with
        | none => .wait .remote pa s
        | some l =>
          let s := s.asked s.cur.1 s.cur.2
          let code := ofBytes (l.take 1)
          if code = 255 then faulty .illegal s
          else
            let o := s.meet pa
            let c := ofBytes ((l.drop 1).take 4)
            let s := if code < 2 && decide (o.round ≤ c) then s.setMeet pa { o with sent := o.sent ++ [(m, t, c)] } else s
            .done (s.newRegion.setX d (BitVec.ofNat 64 code)))
    | none =>
      match s.engineRead o.who pa (o.slot m t) (o.count * o.esize) with
      | .wait s => .wait .remote pa s
      | .fault c _ s => .done ((s.meetFault pa c (s.meet pa)).newRegion.setX d 3)
      | .ok v s =>
        let (tag, s) := s.fresh
        let s := { s with requests := mput tag { core := s.cur.1, unit := s.cur.2, node := node, addr := o.homeOffset, kind := 7, len := o.count * o.esize } s.requests }
        let data := toBytes (o.count * o.esize) v
        .wait .remote pa ((piecesOf data).foldl (fun s p => s.send node 7 tag o.homeOffset (head ++ p)) s)

/-- Whether the home has answered what the track's form at a proxy waits for. -/
def State.homeAnswered (s : State) : Bool :=
  s.requests.any fun r => r.2.core == s.cur.1 && r.2.unit == s.cur.2 && r.2.answer.isSome

/-- MEET.ARRIVE at its object (R224). At a proxy the status is the home's, where it has come before the proxy closed (R230). -/
def meetArriveAt (d : Reg) (va : Word) (pa m t : Nat) (s : State) : Out :=
  let o := s.meet pa
  if o.isClosed && !(o.isProxy && s.homeAnswered) then .done (s.newRegion.setX d 3)
  else if o.isProxy then proxyArrive d va pa m t s
  else if o.round == t && !s.arrivalTurn pa then .wait .meetArrive pa s
  else match s.classify pa m t ⟨s.myLoc, .system, s.who.released⟩ none with
    | .illegal => faulty .illegal s
    | .waits => .wait .meetArrive pa s
    | .ends c s => .done (s.newRegion.setX d (BitVec.ofNat 64 c))

/-- A form that waits at a proxy for its home returns CLOSED where the proxy has closed before the home's answer came (R228, R230); else
`f`. -/
def State.unlessClosed (s : State) (i : Instr) (d : Reg) (f : State → Out) : Out :=
  match if s.homeAnswered then none else s.verdict i with
  | some v => .done ((s.asked s.cur.1 s.cur.2).newRegion.setX d (BitVec.ofNat 64 v))
  | none => f s

def execMeetArrive (d a b : Reg) (s : State) : Host.Outcome State Fault Refusal :=
  perform (.meetArrive d a b) (fun s =>
    s.unlessClosed (.meetArrive d a b) d fun s => s.atMember (s.x a) (s.x b) (meetArriveAt d (s.x a))) s

/-- MEET_ARRIVE_RECLASSIFY (R225 step 4). -/
def execMeetArriveReclassify (core t : Nat) (s : State) : Host.Outcome State Fault Refusal :=
  resumeWait core t .meetArrive (fun i s => match i with
    | .meetArrive d a b => s.atWaited i d b fun pa m t => meetArriveAt d (s.x a) pa m t s
    | _ => .done s) s

/-- The meeting in which the track waits: the object's present one, or the one before it was opened afresh. -/
def State.waitedMeet (s : State) (pa : Nat) : MeetObj :=
  match s.me.wait with
  | some w => (match w.meeting with
    | some a => s.meetBy pa a
    | none => s.meet pa)
  | none => s.meet pa

/-- MEET.WAIT in a meeting of its object (R228). -/
def meetWaitAt (d : Reg) (pa : Nat) (o : MeetObj) (t : Nat) (s : State) : Out :=
  match o.written.find? fun r => r.1 == t with
  | some r =>
    if t + 3 ≤ o.round then .done (s.newRegion.setX d 4) else .done ((s.syncRead r.2 true .system).newRegion.setX d 0)
  | none => if o.isClosed && !o.begun t then .done (s.newRegion.setX d 3) else .wait .meetWait pa s

/-- MEET.WAIT as it issues: on a closed object it knows the rounds written before the close alone (R228). -/
def meetWaitBegins (d : Reg) (pa t : Nat) (s : State) : Out :=
  let o := s.meet pa
  if o.isClosed && !o.atClose.contains t then .done (s.newRegion.setX d 3) else meetWaitAt d pa o t s

def execMeetWait (d a b : Reg) (s : State) : Host.Outcome State Fault Refusal :=
  perform (.meetWait d a b) (fun s => s.atMember (s.x a) (s.x b) fun pa _ t s => meetWaitBegins d pa t s) s

/-- MEET_WAIT_RETURN. -/
def execMeetWaitReturn (core t : Nat) (s : State) : Host.Outcome State Fault Refusal :=
  resumeWait core t .meetWait (fun i s => match i with
    | .meetWait d _ b => s.atWaited i d b fun pa _ t => meetWaitAt d pa (s.waitedMeet pa) t s
    | _ => .done s) s

/-- MEET.REJOIN at its object: the open round. -/
def State.rejoin (s : State) (pa m : Nat) : State :=
  let o := s.meet pa
  if o.lapsed.contains m then
    s.setMeet pa { o with lapsed := o.lapsed.filter (· ≠ m), expected := mput m o.round o.expected }
  else s

/-- MEET.REJOIN (R228, R396). -/
def execMeetRejoin (d a b : Reg) (s : State) : Host.Outcome State Fault Refusal :=
  perform (.meetRejoin d a b) (fun s => s.unlessClosed (.meetRejoin d a b) d fun s =>
    let va := s.x a
    s.atMember va (s.x b) fun pa m _ s =>
      let o := s.meet pa
      if o.isClosed && !(o.isProxy && s.homeAnswered) then .done (s.newRegion.setX d 3)
      else if o.isProxy then
        if (mget {} o.homeNode s.conns).down then faulty .linkDown s va
        else match s.askNode s.cur.1 s.cur.2 o.homeNode o.homeOffset 5 (meetWire 20 m) with
          | (some l, s) => .done (s.newRegion.setX d (BitVec.ofNat 64 (ofBytes l)))
          | (none, s) => .wait .remote pa s
      else .done ((s.rejoin pa m).newRegion.setX d (BitVec.ofNat 64 o.round))) s

/-- MEET.CLOSE (R206, R228, R396). -/
def execMeetClose (a : Reg) (s : State) : Host.Outcome State Fault Refusal :=
  perform (.meetClose a) (fun s =>
    let va := s.x a
    s.atMeeting va fun pa s =>
      let o := s.meet pa
      let shut := fun (due : Nat) (s : State) => Out.done ((if o.isOpen then s.meetShut pa due else s).mark pa 2 false).newRegion
      if o.isProxy && o.isOpen then
        if (mget {} o.homeNode s.conns).down then faulty .linkDown s va
        else match s.askNode s.cur.1 s.cur.2 o.homeNode o.homeOffset 5 (meetWire 22 0) with
          | (some l, s) => shut (ofBytes l) s
          | (none, s) => .wait .remote pa s
      else shut 0 s) s

/-- A home's notice reaches a proxy: it closes, or, closed already, has no more results to come (R230). -/
def State.meetNotice (s : State) (obj : Nat) (fromHome : MeetObj → Bool) : State :=
  match s.oldMeets.find? fun e => e.1 == obj && e.2.due != 0 && fromHome e.2 with
  | some e => s.putMeet obj { e.2 with due := 0 }
  | none =>
    let o := s.meet obj
    if !o.isProxy || !fromHome o then s
    else if o.isOpen then s.meetShut obj
    else if o.due = 0 then s else s.putMeet obj { o with due := 0 }

/-- MEET_CLOSE_NOTICE: a proxy closes (R230). -/
def execMeetCloseNotice (obj : Nat) (s : State) : Host.Outcome State Fault Refusal := .next (s.meetNotice obj fun _ => true)

/-! The combiner (R226, R227). -/

/-- The weight of a contribution: 1 on time, else the rule's for its lag (R224). -/
def MeetObj.weight (o : MeetObj) (late : Bool) (lag : Nat) : Num :=
  if !late then .fin ⟨false, 1, 0⟩
  else if bitAt (o.field 5 1) 7 then .fin ⟨false, o.field 6 1, -8⟩
  else .fin ⟨false, 1, -((o.field 5 1 % 8 * lag : Nat) : Int)⟩

/-- Round to FP32 with RNE, as a value, with its flags. -/
def round32 (v : Num) : Nat × Flags := roundFloat .rne .fp32 false v

/-- One element of a result: values with their weights in R226's order. -/
def MeetObj.combine (o : MeetObj) : List (Num × Num) → Nat × Flags
  | [] => round32 (.fin ⟨false, 0, 0⟩)
  | (v, _) :: t =>
    if o.field 7 1 = 2 then ((round32 (t.foldl (fun a x => numMax a x.1) v)).1, {})
    else
      let (s, f) := t.foldl (fun (a : Num × Flags) x =>
        let (y, g) := numFma false x.2 x.1 a.1
        let (e, h) := round32 y
        (FloatFmt.fp32.value e, (a.2.or g).or h)) (v, {})
      if o.field 7 1 = 0 then ((round32 s).1, f)
      else
        let total := t.foldl (fun a x => (numAdd false a x.2).1) (.fin ⟨false, 1, 0⟩)
        let (y, g) := numDiv s total
        let (e, h) := round32 y
        (e, (f.or g).or h)

/-- Element `j` of a contribution's bytes read as one number. -/
def MeetObj.value (o : MeetObj) (v j : Nat) : Num := o.elem.value (v / 2 ^ (8 * o.esize * j) % 2 ^ (8 * o.esize))

/-- Reads the contributions of a round from their slots, in order. -/
def readContribs (o : MeetObj) (w : Who) (pa : Nat) : List Contrib → State → ETry (List Nat)
  | [], s => .ok [] s
  | c :: t, s =>
    let one : ETry Nat := match c.data with
      | some l => .ok (ofBytes l) s
      | none => s.engineRead w pa (o.slot c.member c.tag) (o.count * o.esize)
    one.bind fun v s => (readContribs o w pa t s).bind fun l s => .ok (v :: l) s

/-- The results of a round, element by element, with their flags. -/
def MeetObj.results (o : MeetObj) (vs : List (Nat × Num)) : List Nat × Flags :=
  (List.range o.count).foldl (fun (a : List Nat × Flags) j =>
    let (e, f) := o.combine (vs.map fun x => (o.value x.1 j, x.2))
    (a.1 ++ [e], a.2.or f)) ([], {})

/-- Writes the bytes of a run, clearing the poison of lines that it covers (R182). -/
def State.writeRun (s : State) (w : Who) (lo hi : Nat) : List Nat → Nat → List Byte → State
  | [], _, _ => s
  | pa :: t, va, l =>
    let line := va / 64 * 64
    (s.engineWrite w pa (l.headD 0).toNat 255 (decide (lo ≤ line) && decide (line + 64 ≤ hi) && va % 64 == 63)).writeRun w lo hi t (va + 1)
      (l.drop 1)

/-- Writes bytes of a result and adds to the junction, as the combiner or a proxy does. -/
def State.deliverResult (s : State) (o : MeetObj) (w : Who) (pa va : Nat) (l : List Byte) (units : Nat) : ETry Unit :=
  let covers := fun (line : Nat) => decide (va ≤ 64 * line) && decide (64 * line + 64 ≤ va + l.length)
  (s.engineChecks w covers va l.length).bind fun pas s =>
    let s := s.writeRun w va (va + l.length) pas va l
    if units = 0 then .ok () s
    else s.engineJct w pa (BitVec.ofNat 64 (o.field 0x70 8)) units (.die (syncDie pa))

/-- Bits 11:8 of the state field. -/
def stickyFlags (f : Flags) : Nat := 256 * f.nv.toNat + 512 * f.of.toNat + 1024 * f.uf.toNat + 2048 * f.nx.toNat

/-- The meeting of an object whose oldest round is combined next: one before the object was opened afresh, then the present one. -/
def State.combining (s : State) (obj : Nat) : MeetObj :=
  match s.oldMeets.find? fun e => e.1 == obj && !e.2.rounds.isEmpty with
  | some e => e.2
  | none => s.meet obj

/-- What the combiner makes of a round's contributions: the bytes of its result, and its flags. -/
def MeetObj.roundResult (o : MeetObj) (r : Round) (vs : List Nat) : List Byte × Flags :=
  let res := o.results (vs.zip ((r.ontime.map fun c => o.weight false c.lag) ++ r.late.map fun c => o.weight true c.lag))
  (res.1.flatMap fun e => toBytes 4 e, res.2)

/-- A round's result goes to a proxy (R230). -/
def State.sendResult (s : State) (round : Nat) (bytes : List Byte) (p : Nat × Nat) : State :=
  ((piecesOf bytes).foldl (fun (a : State × Nat) l =>
    (a.1.send p.1 9 0 p.2 (toBytes 4 round ++ toBytes 4 a.2 ++ l), a.2 + l.length)) (s, 0)).1

/-- MEET_COMBINE: the oldest closed round of an object is combined, written and sent to its proxies (R226, R227). -/
def execMeetCombine (obj : Nat) (s : State) : Host.Outcome State Fault Refusal :=
  let o := s.combining obj
  match o.rounds with
  | [] => .next s
  | r :: rest =>
    let cs := r.ontime ++ r.late
    let rels := cs.map (·.rel)
    let w := { o.who with clock := o.clock.join (acquired (.die (syncDie obj)) .system rels) }
    let done : ETry (List Byte × Flags) := (readContribs o w obj cs s).bind fun vs s =>
      let res := o.roundResult r vs
      (s.deliverResult o w obj (o.buffer r.round) res.1 (o.count * 4)).bind fun _ s => .ok res s
    match done with
    | .wait s => .next s
    | .fault c _ s => .next (s.meetFault obj c { s.meetBy obj o.agent with rounds := rest })
    | .ok (bytes, f) s =>
      let o := s.meetBy obj o.agent
      .next ((o.proxies.foldl (fun s p => s.sendResult r.round bytes p) s).meetNotify obj { o with
        rounds := rest
        written := (r.round, ⟨.die (syncDie obj), .system, w.released⟩ :: rels) :: o.written
        clock := w.released
        status := Nat.lor o.status (stickyFlags f) })

/-! The home's and the proxy's part over the transport (R230). -/

/-- A proxy makes itself known at its home (R230). -/
def State.farProxy (s : State) (pa node proxy : Nat) : State :=
  let o := s.meet pa
  if !o.isOpen then { s with farProxies := (pa, node, proxy) :: s.farProxies.filter (· ≠ (pa, node, proxy)) }
  else if o.proxies.contains (node, proxy) then s else s.setMeet pa { o with proxies := o.proxies ++ [(node, proxy)] }

/-- Classifies a forwarded arrival whose bytes have all come: once, and the first status again for one sent again. -/
def State.farClassify (s : State) (pa : Nat) (a : FarArrival) : State :=
  let o := s.meet pa
  let key := a.member * 2 ^ 32 + a.tag
  let s := if o.isOpen then s.farProxy pa a.node a.proxy else s
  let drop := fun (s : State) => s.setMeet pa { s.meet pa with waiting := (s.meet pa).waiting.filter fun x => x.req != a.req || x.node != a.node }
  match mfind key o.statuses with
  | some v => (drop s).replyFar a (v / 2 ^ 32) (v % 2 ^ 32)
  | none =>
    if !o.isOpen then (drop s).replyFar a 3 o.round
    else if o.n ≤ a.member then (drop s).replyFar a 255 0
    else if o.round == a.tag && (s.dueArrivals pa (512, 0)).any fun q => decide (q < a.seq) then s
    else match s.classify pa a.member a.tag ⟨.remote, .system, []⟩ (some a.data) with
      | .illegal => (drop s).replyFar a 255 0
      | .waits => s
      | .ends c s =>
        let s := drop s
        let m := s.meet pa
        (s.setMeet pa { m with statuses := mput key (c * 2 ^ 32 + o.round) m.statuses }).replyFar a c o.round

/-- Bytes of a forwarded arrival reach the home. -/
def State.farArrival (s : State) (pa node req member tag proxy : Nat) (data : List Byte) : State :=
  if !mhas pa s.meets then s.send node 8 req proxy (toBytes 1 3 ++ toBytes 4 0)
  else
    let o := s.meet pa
    let (n, s) := s.fresh
    let old := o.waiting.find? fun a => a.node == node && a.req == req
    let a : FarArrival := match old with
      | some a => { a with data := a.data ++ data }
      | none => ⟨node, req, proxy, n, member, tag, data⟩
    let rest := o.waiting.filter fun x => x.node != node || x.req != req
    let s := s.setMeet pa { o with waiting := rest ++ [a] }
    if a.data.length < o.count * o.esize then s else s.farClassify pa a

/-- A forwarded arrival that waits at the home is classified again. -/
def State.farAgain (s : State) (pa node req : Nat) : State :=
  match (s.meet pa).waiting.find? fun a => a.node == node && a.req == req with
  | some a => if a.data.length < (s.meet pa).count * (s.meet pa).esize then s else s.farClassify pa a
  | none => s

/-- The proxy of an object to which a result of its home belongs: a closed one with results to come, then the present one. -/
def State.resultProxy (s : State) (pa node round : Nat) : Option MeetObj :=
  match s.oldMeets.find? fun e => e.1 == pa && e.2.isProxy && e.2.homeNode == node && decide (round < e.2.due) with
  | some e => some e.2
  | none =>
    let o := s.meet pa
    if o.isProxy && o.homeNode == node && (o.isOpen || decide (round < o.due)) then some o else none

/-- Bytes of a round's result reach a proxy: it writes them, and with the last of them adds to its junction. With the first of them the
round has closed, so the buffer's older round is overwritten (R228). Says whether it could. -/
def State.farResult (s : State) (pa node round off : Nat) (data : List Byte) : State × Bool :=
  match s.resultProxy pa node round with
  | none => (s, true)
  | some o =>
    let s := s.putMeet pa { o with round := max o.round (round + 1) }
    let o := s.meetBy pa o.agent
    let last := decide (o.count * 4 ≤ off + data.length)
    match s.deliverResult o o.who pa (wrap (o.buffer round + off)) data (if last then o.count * 4 else 0) with
    | .wait s => (s, false)
    | .fault c _ s => (s.meetFault pa c (s.meetBy pa o.agent), true)
    | .ok _ s =>
      if !last then (s, true)
      else
        let o := s.meetBy pa o.agent
        (s.putMeet pa { o with
          round := max o.round (round + 1)
          written := (round, [⟨.die (syncDie pa), .system, o.who.released⟩]) :: o.written
          clock := o.who.released
          sent := o.sent.filter fun x => decide (round < x.2.2) }, true)

end Sys2Proof.Machine
end

