-- ==== Sys2Proof/Machine/Memory.lean ====
section
/-!
DEFINITION. Scalar loads, stores, prefetches, atomics and fences (R329, R207 to R210, R390, R391, R406, R415, R369, R370).
-/
namespace Sys2Proof

def LdSize.bytes : LdSize → Nat
  | .s8 => 1 | .n8 => 1 | .s16 => 2 | .n16 => 2 | .s32 => 4 | .n32 => 4 | .d64 => 8
def LdSize.signed : LdSize → Bool
  | .s8 => true | .s16 => true | .s32 => true | .d64 => true | .n8 => false | .n16 => false | .n32 => false

end Sys2Proof

namespace Sys2Proof.Machine

/-- The address of a load or store (R320). -/
def memAddr (base : Word) (imm : BitVec 13) : Nat := (base + imm.signExtend 64).toNat

/-- A loaded value extended to 64 bits (R390). -/
def extendLoad (z : LdSize) (v : Nat) : Word :=
  if z.signed then BitVec.ofInt 64 (sInt (8 * z.bytes) v) else BitVec.ofNat 64 v

def execLd (z : LdSize) (d a : Reg) (imm : BitVec 13) (s : State) : Host.Outcome State Fault Refusal :=
  perform (.ld z d a imm) (fun s =>
    let va := memAddr (s.x a) imm
    (s.load va z.bytes 0).out fun v s =>
      let s := s.touch ⟨BitVec.ofNat 64 va, z.bytes, 0, true, false, 8 * z.bytes⟩
      .done (s.writeBack d (extendLoad z v))) s

def execSt (z : Size) (src a : Reg) (imm : BitVec 13) (s : State) : Host.Outcome State Fault Refusal :=
  perform (.st z src a imm) (fun s =>
    let va := memAddr (s.x a) imm
    (s.store va z.bytes (s.x src).toNat 0).out fun _ s =>
      .done (s.touch ⟨BitVec.ofNat 64 va, z.bytes, 0, false, true, 8 * z.bytes⟩)) s

/-- PREF (R406): a line fetched early is nothing that any agent sees; the access is not made. -/
def execPref (write : Bool) (a : Reg) (imm : BitVec 13) (s : State) : Host.Outcome State Fault Refusal :=
  perform (.pref write a imm) (fun s => .done s) s

/-- AMO (R209). -/
def amo (i : Instr) (op : AmoOp) (d a b : Reg) (o : MemOrder) (sc : Scope) (size : Nat) (s : State) :
    Host.Outcome State Fault Refusal :=
  perform i (fun s =>
    let v := (s.x b).toNat % 2 ^ (8 * size)
    (s.atomic (s.x a).toNat size 0 (fun old => (amoValue op (8 * size) old v).1) o sc (atomicWire op.code size v 0)).out
      fun old s =>
        .done ((s.writeBack d (BitVec.ofNat 64 old)).modMe fun t => t.raise (amoValue op (8 * size) old v).2)) s

def execAmoSwap (d a b : Reg) (o : MemOrder) (sc : Scope) (z : Size) (s : State) : Host.Outcome State Fault Refusal :=
  amo (.amoSwap d a b o sc z) .swap d a b o sc z.bytes s
def execAmoAdd (d a b : Reg) (o : MemOrder) (sc : Scope) (z : Size) (s : State) : Host.Outcome State Fault Refusal :=
  amo (.amoAdd d a b o sc z) .add d a b o sc z.bytes s
def execAmoAnd (d a b : Reg) (o : MemOrder) (sc : Scope) (z : Size) (s : State) : Host.Outcome State Fault Refusal :=
  amo (.amoAnd d a b o sc z) .and d a b o sc z.bytes s
def execAmoOr (d a b : Reg) (o : MemOrder) (sc : Scope) (z : Size) (s : State) : Host.Outcome State Fault Refusal :=
  amo (.amoOr d a b o sc z) .or d a b o sc z.bytes s
def execAmoXor (d a b : Reg) (o : MemOrder) (sc : Scope) (z : Size) (s : State) : Host.Outcome State Fault Refusal :=
  amo (.amoXor d a b o sc z) .xor d a b o sc z.bytes s
def execAmoMin (d a b : Reg) (o : MemOrder) (sc : Scope) (z : Size) (s : State) : Host.Outcome State Fault Refusal :=
  amo (.amoMin d a b o sc z) .min d a b o sc z.bytes s
def execAmoMax (d a b : Reg) (o : MemOrder) (sc : Scope) (z : Size) (s : State) : Host.Outcome State Fault Refusal :=
  amo (.amoMax d a b o sc z) .max d a b o sc z.bytes s
def execAmoMinn (d a b : Reg) (o : MemOrder) (sc : Scope) (z : Size) (s : State) : Host.Outcome State Fault Refusal :=
  amo (.amoMinn d a b o sc z) .minn d a b o sc z.bytes s
def execAmoMaxn (d a b : Reg) (o : MemOrder) (sc : Scope) (z : Size) (s : State) : Host.Outcome State Fault Refusal :=
  amo (.amoMaxn d a b o sc z) .maxn d a b o sc z.bytes s
def execAmoFadd (d a b : Reg) (o : MemOrder) (sc : Scope) (p : Prec) (s : State) : Host.Outcome State Fault Refusal :=
  amo (.amoFadd d a b o sc p) .fadd d a b o sc (match p with
    | .f32 => 4
    | .f64 => 8) s

/-- CAS (R209, R351). -/
def execCas (d a b : Reg) (o : MemOrder) (sc : Scope) (z : Size) (s : State) : Host.Outcome State Fault Refusal :=
  perform (.cas d a b o sc z) (fun s =>
    let size := z.bytes
    let v := (s.x b).toNat % 2 ^ (8 * size)
    let c := (s.x d).toNat % 2 ^ (8 * size)
    (s.atomic (s.x a).toNat size 0 (fun old => if old = c then v else old) o sc (atomicWire 15 size v c)).out
      fun old s => .done (s.writeBack d (BitVec.ofNat 64 old))) s

def execFence (o : FenceOrder) (sc : Scope) (s : State) : Host.Outcome State Fault Refusal :=
  perform (.fence o sc) (fun s => .done (s.fence o sc)) s

end Sys2Proof.Machine
end

