-- ==== Sys2Proof/Machine/Units.lean ====
section
/-!
DEFINITION. What a steward's firmware does of itself: it tests units (R273 step 4, R281), takes cores out of service (R282), copies flash
into LPDDR6 and completes the bring-up of its die (R273).
-/
namespace Sys2Proof.Machine

/-- The core is out of service: it stays frozen (R282). -/
def State.takeOut (s : State) (core : Nat) : State := (s.freezeAll [core]).modCore core fun k => { k with removed := true }

/-- What a failed test leads to. -/
def State.unitFails (s : State) (u : UnitName) : State :=
  let s := { s with testing := s.testing.erase u }
  match u with
  | .poolBank c b =>
    let s := s.modCore c fun k => { k with banksFailed := insertNat b k.banksFailed }
    if 2 ≤ (s.core c).banksFailed.length then s.takeOut c else s
  | .macBand c _ => { s with testFroze := s.testFroze.erase c }.takeOut c
  | .causeway _ => { s with reports := s.reports ++ [.outOfService] }
  | .ethernet p => { s with ethDown := insertNat p s.ethDown }
  | .cxl p => { s with cxlDown := insertNat p s.cxlDown }
  | .memoryLine _ => s

/-- What a passed test leads to: the unit is back in service, and a pool bank's error counts as transient. A core that its test has frozen
goes on once no band of it is under test. -/
def State.unitPasses (s : State) (u : UnitName) : State :=
  let s := { s with testing := s.testing.erase u }
  match u with
  | .macBand c _ =>
    if s.testFroze.contains c && !s.tripped && !s.bandTested c then ({ s with testFroze := s.testFroze.erase c }.emitImage c 0x14).restart c else s
  | .poolBank _ _ => { s with transients := s.transients + 1 }
  | .causeway _ => s | .ethernet _ => s | .cxl _ => s | .memoryLine _ => s

/-- The steward's test of a unit begins. -/
def State.testBegins (s : State) (u : UnitName) : State :=
  match u with
  | .memoryLine _ => s
  | .macBand c _ =>
    let s := { s with testing := s.testing ++ [u] }
    if (s.core c).frozen then s else { s.freeze c with testFroze := c :: s.testFroze }
  | .poolBank _ _ => { s with testing := s.testing ++ [u] }
  | .causeway _ => { s with testing := s.testing ++ [u] }
  | .ethernet _ => { s with testing := s.testing ++ [u] }
  | .cxl _ => { s with testing := s.testing ++ [u] }

/-- The steward that tests a unit is stopped: the core's die's, or for a unit of the package every one (R274). -/
def State.testHeld (s : State) (u : UnitName) : Bool :=
  match u with
  | .poolBank c _ => s.runClear c
  | .macBand c _ => s.runClear c
  | .causeway _ => (span 0 4).all fun d => s.runClear (128 * d)
  | .ethernet _ => (span 0 4).all fun d => s.runClear (128 * d)
  | .cxl _ => (span 0 4).all fun d => s.runClear (128 * d)
  | .memoryLine _ => true

/-- A steward begins the test of a unit, where its firmware runs (R273 step 4, R281). -/
def State.stewardTest (s : State) (u : UnitName) : State :=
  if s.testHeld u || s.testing.contains u then s else s.testBegins u

/-- A steward completes the bring-up of its die and sets its ready bit, where its firmware runs (R271, R273 step 4). -/
def State.stewardReady (s : State) (die : Nat) : State :=
  s.modDie die fun d => if bitAt (d.reg 0).toNat 0 then { d with stew := mput 0 (d.reg 0 ||| 2) d.stew } else d

/-- Bytes of flash, from offset `k` on, at an address of memory. -/
def State.fromFlash (pa : Nat) : Nat → Nat → State → State
  | _, 0, s => s
  | k, n + 1, s => State.fromFlash pa (k + 1) n (s.setBytes (pa + k) 1 (Config.flashByte k).toNat)

/-- The boot ROM of the system die copies the hosts' boot image from flash to LPDDR6, once, and the hosts are released (R273 step 2). The image has
at most the flash's 64 MiB, and lies in LPDDR6 (log entry 53). -/
def State.bootCopy (s : State) (pa len : Nat) : State :=
  if s.booted || 2 ^ 26 < len || pa < 0x10000000000 || 0x20000000000 < pa + len then s
  else { State.fromFlash pa 0 len s with booted := true }

end Sys2Proof.Machine
end

