-- ==== Sys2Proof/Machine/Module.lean ====
section
/-!
DEFINITION. The module around its cores: the clock (R279), power and heat (R20, R275), errors and the tests of units (R280 to R282), the
module reset (R273), and the host cores' accesses (R177, R188, R191, R464).
-/
namespace Sys2Proof.Machine

/-! The clock. -/

/-- A cycle of a core, whose tracks that have not issued stall for the reasons given (R46, R279, R298). -/
def Core.tick (k : Core) (whys : List Nat) : Core :=
  let k := { k with debugWait := k.debugWait.map fun (a : DbgAcc) => { a with cycles := a.cycles + 1 } }
  if k.frozen then { k with stopped := k.stopped + 1, issued := [] }
  else
    let k := whys.foldl (fun k w => k.count (0x10 + w) 1) (k.count 1 1)
    let holds := k.tracks.any fun e => e.2.trip.isSome
    { k with
        energy := if holds then min (k.energy + 1) (2 ^ 48 - 1) else k.energy, issued := []
        tracks := k.tracks.map fun (n, t) => (n, if t.halted || t.escalated then t else
          { t with wait := t.wait.map fun (w : Wait) => { w with cycles := w.cycles + 1 } }) }

/-- What the YIELDs of a core still wait for at the end of a cycle (R46): a track that has issued or ceased to be ready is waited for no
more. -/
def State.yieldTick (s : State) (core : Nat) : State :=
  s.modCore core fun k => { k with tracks := k.tracks.map fun (n, t) => (n, match t.wait with
    | some w => if w.kind = .yield then { t with wait := some { w with others := s.yieldsTo core w } } else t
    | none => t) }

/-- A cycle of an image engine. -/
def ImgCmd.tick (g : ImgCmd) : ImgCmd := if g.running then { g with cycles := g.cycles + 1 } else g

/-- A cycle of a die: the watchdog while the firmware runs (R274), and a record that the port takes (R301). -/
def Die.tick (d : Die) (takes : Bool) : Die :=
  { d with watchdog := if bitAt (d.reg 0).toNat 0 then d.watchdog + 1 else d.watchdog, port := if takes then d.port.drop 1 else d.port }

/-- What a die's port sends in a cycle. -/
def State.portTakes (s : State) (die : Nat) : Bool := Config.portTakes die s.time && !(s.die die).port.isEmpty

/-- A cycle of a cluster's image engine, held while its steward is stopped (R274). -/
def State.tickCluster (s : State) (c : Cluster) : Cluster :=
  { c with images := c.images.map fun g => if s.runClear g.core then g else g.tick }

/-- Forwarded arrivals whose round is open are classified (R225, R230). -/
def State.farTurns (s : State) : State :=
  s.meets.foldl (fun s e => e.2.waiting.foldl (fun s a => if a.tag ≤ e.2.round then s.farAgain e.1 a.node a.req else s) s) s

/-- CLOCK_CYCLE. -/
def execClockCycle (s : State) : Host.Outcome State Fault Refusal :=
  let s := (s.dies.map (·.1)).foldl (fun s d => if (s.die d).records then s.recordCycle d else s) s
  let s := (s.cores.map (·.1)).foldl (fun s c =>
    if bitAt (mget 0 0x1D8 (s.core c).dbg).toNat 0 then (span 0 4).foldl (fun s n => s.chargeLag c n) s else s) s
  let s := (s.cores.map (·.1)).foldl State.dregRetry s
  let s := (s.cores.map (·.1)).foldl (fun s c => if (s.core c).frozen then s else s.yieldTick c) s
  let sent := s.dies.filterMap fun e => if s.portTakes e.1 then e.2.port.head? else none
  .next { s with
    cores := s.cores.map fun (e : Nat × Core) => (e.1, e.2.tick (((span 0 4).filter fun n => !e.2.hasIssued n).map (s.stallOf e.1)))
    clusters := s.clusters.map fun (e : Nat × Cluster) => (e.1, s.tickCluster e.2)
    dies := s.dies.map fun (e : Nat × Die) => (e.1, e.2.tick (s.portTakes e.1))
    portOut := s.portOut ++ sent
    ready := s.ready.map fun (r : Ready) => { r with waited := r.waited + 1 }
    time := s.time + 1 }.farTurns

/-! Power and heat (R20, R275). -/

/-- POWER_SAMPLE: a sample of the module's input power. -/
def execPowerSample (watts : Nat) (s : State) : Host.Outcome State Fault Refusal :=
  .next { s with
    powerHigh := s.powerHigh || decide (3200 < watts), powerFrom := if !s.powerHigh && decide (3200 < watts) then s.time else s.powerFrom
    powerLow := if watts < 3100 then s.powerLow + 1 else 0 }

/-- POWER_THROTTLE_LIFT: 100 samples of a microsecond each below 3,100 W. -/
def execPowerThrottleLift (s : State) : Host.Outcome State Fault Refusal :=
  .next (if 100 ≤ s.powerLow then { s with powerHigh := false } else s)

/-- THERMAL_SENSE: a die junction's temperature, and the cap it brings. -/
def execThermalSense (die degrees : Nat) (s : State) : Host.Outcome State Fault Refusal :=
  .next (s.modDie die fun d =>
    { d with
        degrees := degrees, warmAt := if 90 ≤ degrees ∨ 90 ≤ d.degrees then s.time else d.warmAt
        hotAt := if 95 ≤ degrees ∨ 95 ≤ d.degrees then s.time else d.hotAt
        cap := if 105 < degrees then 1 else if 95 < degrees then min d.cap 4 else d.cap })

/-- Cycles in a millisecond at the clock of R17. -/
def millisecond : Nat := 1250000

/-- THERMAL_CAP_LIFT: a cap goes once the junction has been below its lower threshold for 1 ms. -/
def execThermalCapLift (die : Nat) (s : State) : Host.Outcome State Fault Refusal :=
  .next (s.modDie die fun d =>
    let cool := fun (limit at_ : Nat) => decide (d.degrees < limit) && decide (at_ + millisecond ≤ s.time)
    if cool 90 d.warmAt then { d with cap := 8 }
    else if d.cap = 1 && cool 95 d.hotAt then { d with cap := 4 }
    else d)

/-- THERMAL_TRIP: above 110 degrees every core of the module stops, with no seal; only a module reset goes on. -/
def execThermalTrip (die : Nat) (s : State) : Host.Outcome State Fault Refusal :=
  if 110 < (s.die die).degrees then
    .next { s.freezeAll (List.range 512) with tripped := true, reports := s.reports ++ [.thermal die] }
  else .next s

/-! Module reset (R273 step 1). -/

/-- Whether a physical address lies in a core's pool. -/
def inPool (pa : Nat) : Bool := match area pa with
  | .scratch _ _ => true
  | _ => false

/-- MODULE_RESET: every unit is as `State.reset` has it. Memory outside the pools is as it was (log entry 31), and what the model itself
keeps goes on: the schedule, its numbers, and the images that the module's key has signed (R258). -/
def execModuleReset (s : State) : Host.Outcome State Fault Refusal :=
  .next { State.reset with
    cur := s.cur, schedule := s.schedule, tick := s.tick, nextId := s.nextId, images := s.images, imageSeq := s.imageSeq
    mem := s.mem.filter fun e => !inPool e.1, poison := s.poison.filter fun e => !inPool (e.1 * 64) }

/-! Errors and the tests of units (R280, R281). -/

/-- ERROR_REPORT: the steward hears of it and begins its test; an error in a unit under test fails the test; an uncorrectable memory line
(R181), and a stripe of a pool whose code cannot correct it (R183), is poisoned. -/
def execErrorReport (u : UnitName) (corrected : Bool) (s : State) : Host.Outcome State Fault Refusal :=
  let s := s.reportError u corrected
  let s := match u with
    | .memoryLine pa => if corrected then s else s.setPoison pa true
    | .poolBank c _ =>
      if corrected then s
      else { s with tick := s.tick + 1 }.setPoison (scratchPa c (64 * (Config.errorStripe s.tick % 0x4000))) true
    | .macBand _ _ => s | .causeway _ => s | .ethernet _ => s | .cxl _ => s
  .next (if s.testing.contains u then s.unitFails u else s.stewardTest u)

/-- TARGETED_UNIT_TEST: the test ends, where the steward's firmware runs. -/
def execTargetedUnitTest (u : UnitName) (pass : Bool) (s : State) : Host.Outcome State Fault Refusal :=
  if !s.testing.contains u || s.testHeld u then .next s
  else .next (if pass then s.unitPasses u else s.unitFails u)

/-- ETHERNET_FRAME_DROP: a frame that is not the Lesan transport's is dropped and counted (R276). -/
def execEthernetFrameDrop (_port : Nat) (s : State) : Host.Outcome State Fault Refusal := .next { s with ethDropped := s.ethDropped + 1 }

/-! The removal of a core (R282). -/

/-- The core that takes over: the lowest-numbered serving core of the cluster, else of the die, else of the package. -/
def State.hostFor (s : State) (core : Nat) : Option Nat :=
  let serves := fun (c : Nat) => c != core && !(s.core c).removed && !(s.core c).departed
  match (span (16 * clusterOf core) 16).find? serves with
  | some c => some c
  | none => match (span (128 * dieOf core) 128).find? serves with
    | some c => some c
    | none => (List.range 512).find? serves

/-- The steward saves a frozen core: an image of its own, held by the freeze. -/
def State.stewardSave (s : State) (core : Nat) : State × Nat :=
  let s := s.settleAll core
  let n := s.imageSeq + 1
  let img := s.imageOf core n 0
  let s := { s with imageSeq := n, images := mput n img s.images }
  (s.modCore core fun k => { k with freezeImages := k.freezeImages ++ [n] }, n)

/-- The steward loads an image onto a frozen vacant core, and thaws it. The core's ENERGY is folded first where no image of the freeze holds its
context (R456). -/
def State.stewardLoad (s : State) (core seq : Nat) : State :=
  match mfind seq s.images with
  | none => s
  | some img =>
    let s := if s.imageHoldsCtx core then s else s.foldEnergy core
    ((((s.applyImage core img).loadedFrom core img).referenced core seq).emitImage core 0x14).restart core

/-- A core that runs no trip and keeps nothing of a context. -/
def Core.unused (k : Core) : Bool := k.lastCtx.isNone && k.tracks.all fun e => e.2.trip.isNone

/-- Placements that went to the removed core go to its host. -/
def State.mapOnto (s : State) (core host : Nat) : State :=
  { s with hostMap := mput core host (s.hostMap.map fun e => if e.2 = core then (e.1, host) else e) }

/-- An image that waits goes onto the first serving core of its revision that is vacant. -/
def State.placeDisplaced (s : State) : State :=
  match s.displaced with
  | [] => s
  | n :: rest =>
    let rev := (mfind n s.images).map fun i => Config.revision i.origin
    match (List.range 512).find? fun c => !(s.core c).removed && !(s.core c).departed && !(s.core c).frozen
        && !s.runClear c && some (Config.revision c) == rev && (s.core c).tracks.all fun e => e.2.trip.isNone with
    | none => s
    | some c => { (s.freeze c).stewardLoad c n with displaced := rest }

/-- Whether a core's image cannot be sealed: it has not been within the timeout that a save takes where its record gives none (R253, R259;
log entry 71). -/
def State.sealFails (s : State) (core : Nat) : Bool := !(s.core core).sealed && decide ((s.core core).freezeTime + 2 ^ 20 ≤ s.time)

/-- CORE_REMOVAL: the next of the steward's moves for a core that is out of service. It waits for the seal of the core, for the seal of the
host it has frozen, and for a vacant core for the host's own image; while the firmware of a core concerned is stopped nothing moves
(R274). A core that holds nothing, as at bring-up, is only mapped onto its host (R273 step 4). -/
def execCoreRemoval (core : Nat) (s : State) : Host.Outcome State Fault Refusal :=
  let k := s.core core
  if !k.removed || s.tripped || s.runClear core then .next s
  else if mhas core s.hostMap then .next s.placeDisplaced
  else match s.hostFor core with
    | none => .next { s with reports := s.reports ++ [.outOfService] }
    | some h =>
      if k.unused then .next (s.mapOnto core h)
      else if s.sealFails core then .next ((s.vacate core false).mapOnto core h)
      else if !k.sealed || s.runClear h || s.bandTested h || s.imgQueued h || s.imgQueued core then .next s
      else if !(s.core h).frozen then .next (s.freeze h)
      else if !(s.core h).sealed then .next s
      else
        let (s, n1) := s.stewardSave core
        let busy := !(s.core h).unused
        let (s, n2) := if busy then s.stewardSave h else (s, 0)
        let s := (s.vacate h true).stewardLoad h n1
        .next ({ s with displaced := if busy then s.displaced ++ [n2] else s.displaced }.mapOnto core h)

/-! Host cores. -/

def State.hostClock (s : State) (h : Nat) : Clock := mget [] h s.hostClocks
/-- What a host core has released at its last release fence, as a release of its later atomics: its data accesses carry no fence edge (R188,
R369). -/
def State.hostRels (s : State) (h : Nat) : List Rel :=
  match mfind h s.hostFence with
  | some c => [⟨.host h, .system, c⟩]
  | none => []

/-- A host core's atomic reads bytes: a later fence may acquire what it has read. -/
def State.hostSees (s : State) (h pa n : Nat) : State :=
  { s with hostPend := mupd [] h (fun l => addPending l (s.relsAt pa n)) s.hostPend }

/-- FENCE rw,rw of a host core: an acq_rel fence at system scope (R188). -/
def State.hostFenceNow (s : State) (h : Nat) : State :=
  let c := Clock.join (s.hostClock h) (acquired (.host h) .system (mget [] h s.hostPend))
  let c := mput (2048 + h) (mget 0 (2048 + h) c + 1) c
  { s with hostClocks := mput h c s.hostClocks, hostFence := mput h c s.hostFence, hostPend := mput h [] s.hostPend }

/-- An access that is not performed: it is reported to the host core as an access fault (R177, R464). -/
def State.hostFaults (s : State) (a : HostAccess) : State := { s with reports := s.reports ++ [.accessFault a.host a.pa] }

/-- A host core's access to a device register (R464). -/
def State.hostDevice (s : State) (a : HostAccess) : State :=
  match a.op with
  | .load =>
    match devReg a.pa with
    | .debug c 0x48 => s.dregAccess c none (some (a.host, a.pa % 8, a.size.bytes))
    | r => s.hostGets a.host (BitVec.ofNat 64 ((s.devRead r).toNat / 2 ^ (8 * (a.pa % 8)) % 2 ^ (8 * a.size.bytes)))
  | .store v => s.devWrite ⟨a.pa, a.size, v⟩
  | .amo _ _ => s.hostFaults a
  | .fence => s

/-- A host core's access to memory of the package. -/
def State.hostMemory (s : State) (a : HostAccess) : State :=
  let n := a.size.bytes
  match a.op with
  | .load => s.hostGets a.host (BitVec.ofNat 64 (s.bytes a.pa n))
  | .store v => (s.endRels a.pa n).setBytes a.pa n v.toNat
  | .amo op v =>
    let old := s.bytes a.pa n
    ((((s.hostSees a.host a.pa n).addRels a.pa n (s.hostRels a.host)).setBytes a.pa n
      (amoValue op (8 * n) old (v.toNat % 2 ^ (8 * n))).1)).hostGets a.host (BitVec.ofNat 64 old)
  | .fence => s

/-- A host core's access to another package's memory (R277, R278). -/
def State.hostRemote (s : State) (a : HostAccess) : State :=
  let n := a.size.bytes
  let (kind, wire) := match a.op with
    | .load => (1, toBytes 2 n)
    | .store v => (3, toBytes n v.toNat)
    | .amo op v => (5, atomicWire op.code n v.toNat 0)
    | .fence => (1, [])
  match s.ask (576 + a.host) 0 a.pa kind wire with
  | (none, s) => s
  | (some l, s) => (s.asked (576 + a.host) 0).hostGets a.host (BitVec.ofNat 64 (ofBytes (l.take n)))

/-- HOST_MEMORY_ACCESS: the host cores run once they are started (R273 step 2). -/
def execHostMemoryAccess (a : HostAccess) (s : State) : Host.Outcome State Fault Refusal :=
  let n := a.size.bytes
  let reads := match a.op with
    | .store _ => false
    | .load => true | .amo _ _ => true | .fence => true
  let writes := match a.op with
    | .load => false
    | .store _ => true | .amo _ _ => true | .fence => true
  if !s.booted then .next s
  else match a.op, area a.pa with
  | .fence, _ => .next (s.hostFenceNow a.host)
  | _, .device _ => .next (if a.pa % n ≠ 0 then s.hostFaults a else s.hostDevice a)
  | _, .scratch c _ =>
    let s := if a.pa % n = 0 then s.settle a.pa n else s
    .next (if a.pa % n ≠ 0 || !s.backed a.pa writes || s.poisoned a.pa then s.hostFaults a
      else if (s.core c).frozen || s.underTest 4 a.pa then s
      else s.hostMemory a)
  | _, .remote _ _ =>
    .next (if a.pa % n ≠ 0 || !s.backed a.pa (writes || !reads) || s.linkDown a.pa then s.hostFaults a else s.hostRemote a)
  | _, _ =>
    .next (if a.pa % n ≠ 0 || !s.backed a.pa writes || s.isMarked a.pa || s.poisoned a.pa || s.linkDown a.pa then s.hostFaults a
      else if s.underTest 4 a.pa then s
      else s.hostMemory a)

end Sys2Proof.Machine
end

