-- ==== Sys2Proof/Machine/Lesan.lean ====
section
/-!
DEFINITION. The Lesan transport at this package (R230, R276, R277): packets that arrive are performed in the order of their connection, and
answers reach the requests that wait for them.
-/
namespace Sys2Proof.Machine

/-! Packets. Sequence numbers, acknowledgements and tags have 32 bits, and are compared as such. -/

/-- Whether a sequence number comes before another. -/
def seqBefore (a b : Nat) : Bool := decide (a % 2 ^ 32 ≠ b % 2 ^ 32) && decide ((b + 2 ^ 32 - a % 2 ^ 32) % 2 ^ 32 < 2 ^ 31)

/-- A packet of a kind is as R277 has it: its version, its length, the node it goes to and its CRC. Any other is dropped (log entry 57). -/
def State.sound (s : State) (p : LesanPkt) (kind : Nat) : Bool :=
  p.version == 1 && p.length == p.payload.length && decide (p.length ≤ 8192) && p.dst == fld s.rmnode 31 0 && sealPacket p kind == p

/-- What a packet carries beside its own matter: the cumulative acknowledgement (R277). -/
def Conn.acknowledged (c : Conn) (ack : Nat) : Conn :=
  let rest := c.unacked.filter fun u => !seqBefore u.1 ack
  { c with
      acked := if seqBefore c.acked ack then ack else c.acked
      unacked := rest, tries := if rest.length < c.unacked.length then 0 else c.tries }

def State.modConn (s : State) (node : Nat) (f : Conn → Conn) : State := { s with conns := mput node (f (mget {} node s.conns)) s.conns }

/-- An acknowledgement alone. -/
def State.sendAck (s : State) (node : Nat) : State :=
  { s with outbox := s.outbox ++ [(11, s.packet node (mget {} node s.conns).sent 11 0 0 [])] }

/-- A packet arrives: in its order it is performed, once; `act` gives none where it has to wait. A duplicate is discarded and acknowledged
again; one that comes before its turn is dropped, and comes again. -/
def State.receive (s : State) (p : LesanPkt) (kind : Nat) (act : State → Option State) : State :=
  if (mget {} p.src s.conns).down || !s.sound p kind then s
  else
    let s := s.modConn p.src (·.acknowledged p.ack)
    let due := (mget {} p.src s.conns).received
    if p.seq ≠ due then (if seqBefore p.seq due then s.sendAck p.src else s)
    else (act (s.modConn p.src fun c => { c with received := (c.received + 1) % 2 ^ 32 })).getD s

/-- Whether a packet answers a request, which went out under a tag. -/
def Request.takes (p : LesanPkt) (kind tag : Nat) (r : Request) : Bool :=
  decide (tag % 2 ^ 32 = p.tag) && r.node == p.src && r.kind == kind && r.answer.isNone

/-- The requests after an answer has come to one of them: a store's is over with it, another keeps the answer for the unit that asked. -/
def afterAnswer (p : LesanPkt) (kind : Nat) (l : List (Nat × Request)) : List (Nat × Request) :=
  l.filterMap fun e =>
    if e.2.takes p kind e.1 then (if e.2.unit = storeUnit then none else some (e.1, { e.2 with answer := some p.payload })) else some e

/-- The answer to a request of a kind, which an image that holds the request takes too (R253); the release of an addition to a junction is
there from now on. -/
def State.answer (s : State) (p : LesanPkt) (kind : Nat) : State :=
  let s := s.requests.foldl (fun s e =>
    if e.2.takes p kind e.1 && !e.2.rels.isEmpty then s.jctFar e.2.pa (ofBytes p.payload) e.2.rels else s) s
  { s with
      requests := afterAnswer p kind s.requests
      images := s.images.map fun e => (e.1, { e.2 with requests := afterAnswer p kind e.2.requests }) }

/-- Packets of a kind that answer requests of another. -/
def State.takeAnswer (s : State) (p : LesanPkt) (kind request : Nat) : State :=
  s.receive p kind fun s => some ((s.answer p request).sendAck p.src)

def execLesanReadData (p : LesanPkt) (s : State) : Host.Outcome State Fault Refusal := .next (s.takeAnswer p 2 1)
def execLesanWriteAck (p : LesanPkt) (s : State) : Host.Outcome State Fault Refusal := .next (s.takeAnswer p 4 3)
def execLesanAtomicResult (p : LesanPkt) (s : State) : Host.Outcome State Fault Refusal := .next (s.takeAnswer p 6 5)

/-! Requests of other packages, performed at this one. -/

/-- Whether every byte may be accessed for another package. -/
def State.farBacked (s : State) (pa : Nat) (write : Bool) : Nat → Bool
  | 0 => true
  | n + 1 => s.backed pa write && !s.isMarked pa && !s.linkDown pa && s.farBacked (pa + 1) write n

/-- Whether the access waits: for a frozen core's scratchpad (R251), for a port or a link under test (R281). The network's ports are the
system die's (R16). -/
def State.farWaits (s : State) (pa : Nat) : Bool :=
  s.underTest 4 pa || (match area pa with
    | .scratch c _ => (s.core c).frozen
    | _ => false)

/-- What a read that has no bytes to give answers: free bytes (log entry 32). -/
def freeBytes (tick : Nat) : Nat → List Byte
  | 0 => []
  | n + 1 => Config.remoteByte tick n :: freeBytes tick n

/-- LESAN_READ: of at most what a packet can carry. -/
def execLesanRead (p : LesanPkt) (s : State) : Host.Outcome State Fault Refusal :=
  .next (s.receive p 1 fun s =>
    let n := min (ofBytes (p.payload.take 2)) 8192
    if s.farWaits p.addr then none
    else
      let s := s.settle p.addr n
      if s.farBacked p.addr false n && !(span p.addr n).any s.poisoned then
        some (s.send p.src 2 p.tag p.addr (toBytes n (s.bytes p.addr n)))
      else some ({ s with tick := s.tick + 1 }.send p.src 2 p.tag p.addr (freeBytes s.tick n)))

/-- Writes bytes for another package; a whole line clears its poison (R182). -/
def State.farWrite (s : State) (pa : Nat) (l : List Byte) : State :=
  let whole := fun (line : Nat) => decide (pa ≤ 64 * line) && decide (64 * line + 64 ≤ pa + l.length)
  if (span pa l.length).any fun a => s.poisoned a && !whole (a / 64) then s
  else
    let s := (s.endRels pa l.length).setBytes pa l.length (ofBytes l)
    (span pa l.length).foldl (fun s a => if s.poisoned a then s.setPoison a false else s) s

/-- LESAN_WRITE: the acknowledgement goes out once the write is performed. -/
def execLesanWrite (p : LesanPkt) (s : State) : Host.Outcome State Fault Refusal :=
  .next (s.receive p 3 fun s =>
    if s.farWaits p.addr then none
    else
      let s := s.settle p.addr p.payload.length
      let s := if s.farBacked p.addr true p.payload.length then s.farWrite p.addr p.payload else s
      some (s.send p.src 4 p.tag p.addr []))

/-- The AMO of a code (R208). -/
def amoOfCode (c : Nat) : Option AmoOp := [AmoOp.swap, .add, .and, .or, .xor, .min, .max, .minn, .maxn, .fadd].find? fun o => o.code == c

/-- An addition to a junction for another package: its phase after, and in bit 32 whether it flipped. -/
def State.farUnits (s : State) (pa units : Nat) : State × Nat :=
  let before := s.bytes (pa + 16) 4
  let s := s.addUnits 0 pa units ⟨.remote, .system, []⟩
  let phase := s.bytes (pa + 16) 4
  (s, phase + (if phase = before then 0 else 2 ^ 32))

/-- What an operation on this package's memory or objects leaves and answers: an AMO, CAS (15), a junction's addition, JCT.INIT and phase
(16 to 18), an element of SCATTERADD (19), MEET.REJOIN (20), a proxy's registration (21), MEET.CLOSE (22). -/
def State.farAtomic (s : State) (src addr op n v cmp : Nat) : State × Nat :=
  let old := s.bytes addr n
  let obj := syncObject addr
  if op = 20 then (if (s.meet obj).isClosed then (s, 3) else (s.rejoin obj v, (s.meet obj).round))
  else if op = 21 then (s.farProxy obj src v, 0)
  else if op = 22 then ((if (s.meet obj).isOpen then s.meetShut obj else s).mark obj (if mhas obj s.meets then 2 else 0) false, (s.meet obj).round)
  else if !s.farBacked addr true n || s.poisoned addr then ({ s with tick := s.tick + 1 }, ofBytes (freeBytes s.tick 8))
  else if op = 16 then s.farUnits addr v
  else if op = 17 then (s.jctReset addr v, 0)
  else if op = 18 then (s, s.bytes (addr + 16) 4)
  else if op = 19 then (s.setBytes addr 4 (scatterSum old (FloatFmt.fp64.value v)).1, old)
  else if op = 15 then (s.setBytes addr n (if old = cmp then v else old), old)
  else match amoOfCode op with
    | some o => (s.setBytes addr n (amoValue o (8 * n) old v).1, old)
    | none => (s, old)

/-- The operations of a packet, of 18 bytes each, in their order, with 8 bytes of answer for each. -/
def State.farAtomics (s : State) (src addr : Nat) : Nat → List Byte → State × List Byte
  | 0, _ => (s, [])
  | k + 1, l =>
    let f := fun (o n : Nat) => ofBytes ((l.drop o).take n)
    let (s, v) := s.farAtomic src addr (f 0 1) (f 1 1) (f 2 8) (f 10 8)
    let (s, rest) := s.farAtomics src addr k (l.drop 18)
    (s, toBytes 8 v ++ rest)

/-- LESAN_ATOMIC: what a packet names is done at once. -/
def execLesanAtomic (p : LesanPkt) (s : State) : Host.Outcome State Fault Refusal :=
  .next (s.receive p 5 fun s =>
    if s.farWaits p.addr then none
    else
      let (s, l) := (s.settle p.addr 8).farAtomics p.src p.addr (p.payload.length / 18) p.payload
      some (s.send p.src 6 p.tag p.addr l))

/-! Meetings (R230). -/

/-- LESAN_MEETING_ARRIVAL. -/
def execLesanMeetingArrival (p : LesanPkt) (s : State) : Host.Outcome State Fault Refusal :=
  .next (s.receive p 7 fun s =>
    let f := fun (o n : Nat) => ofBytes ((p.payload.drop o).take n)
    some ((s.farArrival (syncObject p.addr) p.src p.tag (f 0 2) (f 2 4) (f 6 4) (p.payload.drop 10)).sendAck p.src))

/-- LESAN_MEETING_STATUS: the home's status for an arrival, or its notice that the meeting has closed. -/
def execLesanMeetingStatus (p : LesanPkt) (s : State) : Host.Outcome State Fault Refusal :=
  .next (s.receive p 8 fun s =>
    if p.tag = 0 ∧ ofBytes (p.payload.take 1) = 3 then
      some ((s.meetNotice (syncObject p.addr) fun o => o.homeNode == p.src).sendAck p.src)
    else some ((s.answer p 7).sendAck p.src))

/-- LESAN_MEETING_RESULT: a round's result, and with its end the junction's addition (R230). -/
def execLesanMeetingResult (p : LesanPkt) (s : State) : Host.Outcome State Fault Refusal :=
  .next (s.receive p 9 fun s =>
    let f := fun (o n : Nat) => ofBytes ((p.payload.drop o).take n)
    match s.farResult (syncObject p.addr) p.src (f 0 4) (f 4 4) (p.payload.drop 8) with
    | (s, true) => some (s.sendAck p.src)
    | (_, false) => none)

/-! Limits, acknowledgements, and the connection's end. -/

/-- A copy's command ends because its target takes no more (R155). -/
def State.endFull (s : State) (core id : Nat) : State :=
  (span 0 8).foldl (fun s c => match (mget {} c (s.core core).chans).queue with
    | g :: _ => if g.id = id && !g.faulted then s.suspendCopy core c g .targetFull (g.milestone (s.outLen core g)) g.done true else s
    | [] => s) s

/-- LESAN_ACCEPT_LIMIT_NOTICE: writes to the node at or beyond the address are not accepted: the copies that wait for one end (R155). -/
def execLesanAcceptLimitNotice (p : LesanPkt) (s : State) : Host.Outcome State Fault Refusal :=
  .next (s.receive p 10 fun s =>
    let hit := fun (r : Nat × Request) => r.2.node == p.src && r.2.kind == 3 && r.2.unit != storeUnit && r.2.answer.isNone
      && decide (p.addr < r.2.addr + r.2.len)
    let l := s.requests.filter hit
    let s := { s with requests := s.requests.filter fun r => !hit r }
    some ((l.foldl (fun (s : State) (r : Nat × Request) => s.endFull r.2.core (r.2.unit % 2 ^ 40)) s).sendAck p.src))

/-- LESAN_ACK_ONLY. -/
def execLesanAckOnly (p : LesanPkt) (s : State) : Host.Outcome State Fault Refusal :=
  .next (if (mget {} p.src s.conns).down || !s.sound p 11 then s else s.modConn p.src (·.acknowledged p.ack))

/-- LESAN_RETRANSMIT: what is not acknowledged is sent again, sixteen times at most. -/
def execLesanRetransmit (node : Nat) (s : State) : Host.Outcome State Fault Refusal :=
  let c := mget {} node s.conns
  if c.down || c.unacked.isEmpty || decide (16 ≤ c.tries) then .next s
  else
    let again := c.unacked.map fun u => (u.2.1, s.packet node u.1 u.2.1 u.2.2.1 u.2.2.2.1 u.2.2.2.2)
    .next ({ s with outbox := s.outbox ++ again }.modConn node fun c => { c with tries := c.tries + 1 })

/-- LESAN_CONNECTION_DOWN: sixteen retransmissions have gone without an acknowledgement. Requests to the node have no answer from now on:
what waits for them finds the link down (R155, R230). -/
def execLesanConnectionDown (node : Nat) (s : State) : Host.Outcome State Fault Refusal :=
  let c := mget {} node s.conns
  if c.down || decide (c.tries < 16) then .next s
  else
    let live := fun (r : Nat × Request) => r.2.node != node || r.2.answer.isSome
    let s := { s with
      requests := s.requests.filter live
      images := s.images.map fun (e : Nat × Image) => (e.1, { e.2 with requests := e.2.requests.filter live }) }
    .next (s.modConn node fun c => { c with down := true, unacked := [] })

end Sys2Proof.Machine
end

