-- ==== Sys2Proof/Machine/Fetch.lean ====
section
/-!
DEFINITION. What stands between a step and an instruction: which agent moves, what a track takes before it issues, breakpoints
(R290), and fetching and decoding (R315 to R317, R336).
-/
namespace Sys2Proof.Machine

/-- What a step comes to: an instruction or event to run in a state, or the state itself. -/
inductive Next
  | run (i : Instr) (s : State)
  | ended (s : State)

/-- Waits that end by an event of their own; the others are tried again when the track issues. -/
def WaitKind.byEvent : WaitKind → Bool
  | .copyRoom => true | .milestone => true | .band => true | .crossTake => true | .crossPost => true | .junction => true
  | .barrier => true | .barrierNext => true | .meetSlot => true | .meetArrive => true | .meetWait => true | .vwait => true
  | .yield => true | .xfload => true | .cflush => true | .frozenCore => true
  | .busyRow => false | .heldByte => false | .refill => false | .gridRoom => false | .gwait => false | .exit => false
  | .release => false | .overlap => false | .link => false | .stop => false | .remote => false | .graphSlot => false
  | .tlb => false | .freeze => false | .abort => false

/-- Whether the engine that holds a record keeps a scratchpad byte from the track's loads (R148), or from its stores (R148, R152): a
channel by any command in its queue, the grid engine by any of its own. -/
def State.recordHolds (s : State) (core : Nat) (r : EngRec) (o : Nat) (store : Bool) : Bool :=
  let k := s.core core
  let read := fun (c : CopyCmd) => store && (s.copyReads k core c o || s.nodesTouch k core c false o)
  k.chans.any (fun e => e.2.queue.any (fun c => c.id == r.cmd)
      && e.2.queue.any fun c => s.copyWrites k core c (s.outLen core c) o || read c)
    || (store && (k.streams.any (fun e => e.2.id == r.cmd && s.streamReads k core e.2 o)
      || (r.engine == 0 && k.gq.any fun g => s.gridReads k core g o)
      || k.cbkCmds.any fun g => g.id == r.cmd && !(s.names (g.who k core) core o g.addr.toNat (g.addr.toNat + 2048)).isEmpty))

/-- Whether a granule that waits at a strip's close waits for the engine of a record. -/
def State.recordStops (s : State) (core : Nat) (r : EngRec) : List Granule → Bool
  | [] => false
  | g :: _ => match area g.pa with
    | .scratch c o => c == core && (span 0 8).any fun i => g.mask.toNat / 2 ^ (8 * i) % 256 != 0 && s.recordHolds core r (o + i) true
    | _ => false

/-- Whether the rows of the grid wait for an OPA that the stream of a record feeds: its TFPC is the OPA's (R107). -/
def Core.feedsOpa (k : Core) (r : EngRec) : Bool := r.engine == 1 && k.gq.any fun g => g.fpc == r.fpc

/-- Whether the junction at a physical address gets an addition from a command that is suspended with the engine of a record, or waits behind
it. -/
def State.recordFeeds (s : State) (core n : Nat) (r : EngRec) (pa : Nat) : Bool :=
  let k := s.core core
  let here := fun (jct : Word) => s.peek { s with cur := (core, n) }.who jct.toNat .rmw == some pa
  k.chans.any (fun e => e.2.queue.any (·.id == r.cmd) && e.2.queue.any fun c => c.cr.junction != 0 && here c.cr.junction)
    || ((r.engine == 0 || k.feedsOpa r) && k.gq.any fun g => g.jct.any here)

/-- Whether a track's wait is a wait on the engine that holds a record (R107, R237): the grid engine, the stream register or the channel
that the wait names, whichever is to count down the junction that the track waits for, and at a strip's close whichever holds the store that
waits. -/
def State.waitsOn (s : State) (core n : Nat) (w : Wait) (r : EngRec) : Bool :=
  let k := s.core core
  let t := k.track n
  let rows := r.engine == 0 || k.feedsOpa r
  let unit := fun (e : Nat) => r.engine == e && (r.unit == w.obj || (match mfind w.obj k.streams with
    | some st => e == 1 && (st.id == r.cmd || (st.pat.scale != 0 && st.pat.sideScale == r.unit) || (st.pat.sparse && st.pat.sideMeta == r.unit))
    | none => false))
  match w.kind with
  | .busyRow => rows | .gridRoom => rows | .gwait => rows | .release => rows
  | .refill => unit 1 | .link => unit 1 | .stop => unit 1 || k.feedsOpa r
  | .copyRoom => unit 2 | .milestone => unit 2 | .abort => unit 2
  | .heldByte => s.recordHolds core r t.awaited false
  | .overlap => s.recordStops core r (t.strip.buf ++ t.strip.pushes)
  | .xfload => r.engine == 2 && k.chans.any fun e => e.1 == r.unit && e.2.queue.any fun c => c.cr.graph && c.cr.slot == w.obj
  | .exit => true
  | .junction => s.recordFeeds core n r w.obj
  | .band => false | .crossTake => false | .crossPost => false | .barrier => false | .barrierNext => false
  | .meetSlot => false | .meetArrive => false | .meetWait => false | .vwait => false | .yield => false | .cflush => false
  | .frozenCore => false | .remote => false | .graphSlot => false | .tlb => false | .freeze => false

/-- A record that the track's wait on its engine lets in at once (R237); a strip whose close waits by itself lets one in as well. -/
def State.waitRecord (s : State) (core n : Nat) : Option EngRec :=
  let t := s.track core n
  if t.level ≠ 0 then none
  else match t.wait with
    | none => if t.strip.closing then t.records.find? fun r => s.recordStops core r t.strip.buf else none
    | some w => t.records.find? (s.waitsOn core n w)

/-- Halt requests to the other members of the track's gang (R293). -/
def State.haltGang (s : State) : State :=
  match s.me.trip with
  | none => s
  | some tr => match tr.gang with
    | none => s
    | some g =>
      let members := s.cores.flatMap fun (c, k) => (k.tracks.filter fun (n, t) =>
        (c, n) != s.cur && (match t.trip with
          | some x => x.gang == some g
          | none => false)).map fun (n, _) => (c, n)
      { s with gangHalts := s.gangHalts ++ members }

/-- The action of a watchpoint that the last instruction hit, after its strip has closed (R292). -/
def State.applyOwed (s : State) (o : Nat × Word × Word × Word × Nat) : State :=
  let (a, pc, addr, elem, u) := o
  match s.stripClose with
  | .done s =>
    let s := s.modMe fun t => { t with owed := none }
    if a = 3 then s
    else if a = 2 then
      if s.me.escalates then s.escalate (causeWord .brk none) addr pc elem
      else s.enterHandler (causeWord .brk none) addr s.me.pc pc elem none
    else
      let s := s.modMe fun t => { t with haltReq := true, haltWhy := 3, unit := u }
      if a = 1 then s.haltGang else s
  | .trap f s => (s.modMe fun t => { t with owed := none }).syncFault f
  | .held _ _ s => s
  | .wait _ _ s => s
  | .goes s => s
  | .ends s => s
  | .closeFirst => s

/-- A record enters its handler at the instruction that the track waits in. -/
def State.takeWaiting (s : State) (r : EngRec) : State :=
  (s.modMe fun t => { t with records := t.records.erase r, wait := none }).asyncFault r.cause r.engine r.addr r.fpc r.elem (some r.cmd)

/-- The strip ends with stores left that cannot be performed yet. -/
def State.leaveStores (s : State) : State :=
  let left := s.me.strip.buf
  (s.modMyCore fun k => (k.freePops s.cur.2).count 0x22 1).modMe fun t =>
    { t with strip := {}, left := t.left ++ left, leftNotes := t.strip.notes ++ t.leftNotes }

/-- Delivers the record of an engine that the track waits on: its strip closes just before the waiting instruction (R237). Where the close
itself waits for that engine, the stores that wait are left until the trap has returned (log entry 51). -/
def State.deliverWaiting (s : State) : State :=
  match s.waitRecord s.cur.1 s.cur.2 with
  | none => s
  | some r =>
    match s.stripClose with
    | .done s => s.takeWaiting r
    | .trap f s => (s.modMe fun t => { t with wait := none }).syncFault f
    | .held _ _ s => s
    | .wait _ _ s => if s.recordStops s.cur.1 r s.me.strip.buf then s.leaveStores.takeWaiting r else s
    | .goes s => s
    | .ends s => s
    | .closeFirst => s

/-- Whether a waiting instruction has had its effect, or may have had it, and only its result is to come (R286): an event at its object has
given that already, a FREEZE has stopped its target, or a request to change something at another node is on its way. -/
def State.tookEffect (s : State) : Bool :=
  match s.me.wait with
  | none => false
  | some w => w.verdict.isSome || (w.kind == .freeze && w.others == [1])
      || s.requests.any fun r => r.2.core == s.cur.1 && askUnits s.cur.2 r.2.unit && r.2.kind != 1

/-- A requested halt takes effect (R286): the strip closes, then the track stops issuing. An instruction that has taken effect returns
first, and after a step with stepsync the halt waits for the rows of the command stepped over (R287). -/
def State.haltTrack (s : State) : State :=
  let t := s.me
  if !t.haltReq || t.trip.isNone || t.halted || s.tookEffect || t.stepRows.any s.myCore.busy then s
  else match s.stripClose with
    | .done s => s.modMe fun t => { t with halted := true, haltReq := false, why := t.haltWhy, wait := none, stepping := false, stepRows := [] }
    | .trap f s => (s.modMe fun t => { t with wait := none }).syncFault f
    | .held _ _ s => s
    | .wait _ _ s => s
    | .goes s => s
    | .ends s => s
    | .closeFirst => s

/-- The breakpoint units that match the instruction the track is about to issue (R290). -/
def breakHits (k : Core) (t : Track) : List (Nat × Nat) :=
  if t.level ≠ 0 || (t.exempt && t.hitPc == t.pc) then []
  else ((span 0 8).filter fun b =>
    let ctl := mget 0 (0x80 + 16 * b) k.dbg
    bitAt ctl.toNat 0 && (if t.super then bitAt ctl.toNat 7 else bitAt ctl.toNat 6)
      && fld (mget 0 (0x88 + 16 * b) k.dbg) 63 2 == t.pc.toNat / 4 && filterHits k t (fld ctl 5 3)).map fun b =>
      (b, fld (mget 0 (0x80 + 16 * b) k.dbg) 2 1)

/-- A breakpoint hit (R290): none where the units that hit only count. -/
def State.breakpoint (s : State) (hits : List (Nat × Nat)) : State × Bool :=
  let ctl := fun (b : Nat) => mget 0 (0x80 + 16 * b) s.myCore.dbg
  let s := s.modMyCore fun k => { k with dbg := hits.foldl (fun m h =>
    mput (0x80 + 16 * h.1) (setFld (ctl h.1) 31 16 (fld (ctl h.1) 31 16 + 1)) m) k.dbg }
  let s := if hits.any fun h => bitAt (ctl h.1).toNat 8 then s.triggerWindow s.cur.1 else s
  let s := s.modMe fun t => { t with exempt := true, hitPc := t.pc }
  match strongest hits with
  | none => (s, true)
  | some (u, a) =>
    if a = 3 then (s, true)
    else if a = 2 then
      let pc := s.me.pc
      ((s.modMe fun t => { t with wait := none }).enterHandler (causeWord .brk none) 0 pc pc 0 none, false)
    else
      let s := s.modMe fun t => { t with haltReq := true, haltWhy := 2, unit := u }
      (if a = 1 then s.haltGang else s, false)

/-- A fetched word, or a fault. -/
inductive Fetched
  | word (w : Nat) (s : State)
  | fault (c : Cause) (s : State)
  | later (s : State)

/-- Fetches a word (R316, R336): Translate with access fetch; a poisoned line raises POISON; no region is entered. -/
def State.fetchWord (s : State) (va : Nat) : Fetched :=
  if s.walkHeld s.who va .fetch then .later s
  else match s.find s.who va .fetch with
  | .fault c s => .fault c s
  | .ok pa s =>
    let s := s.settle pa 4
    if s.linkDown pa then .fault .linkDown s
    else if s.underTest (dieOf s.cur.1) pa then .later s
    else if s.poisoned pa then .fault .poison s
    else match area pa with
      | .remote _ _ => match s.ask s.cur.1 (24 + s.cur.2) pa 1 (toBytes 2 4) with
        | (some b, s) => .word (ofBytes b % 2 ^ 32) s
        | (none, s) => .later s
      | _ => .word (s.bytes pa 4) s

/-- What issuing an instruction changes before its own part: at trap level 0 the breakpoint units' exemption ends (R290). -/
def State.issuing (s : State) : State := s.modMe fun t => if t.level = 0 then { t with exempt := false } else t

/-- A decoded instruction issues, unless it waits for a load (R55). -/
def State.start (s : State) (i : Instr) : Next :=
  if s.me.awaitsLoad i then .ended s else .run i (s.asked s.cur.1 (24 + s.cur.2)).issuing

/-- Fetches and decodes the instruction at the track's PC: what is to run, or what the fault leaves. -/
def State.fetch (s : State) : Next :=
  let pc := s.me.pc.toNat
  let bad := fun (c : Cause) (s : State) (va : Nat) =>
    Next.ended ((s.syncFault { cause := c, addr := BitVec.ofNat 64 va }).endStepWith [])
  match s.fetchWord pc with
  | .fault c s => bad c s pc
  | .later s => .ended s
  | .word w0 s =>
    if isLong w0 then
      match s.fetchWord (wrap (pc + 4)) with
      | .fault c s => bad c s (wrap (pc + 4))
      | .later s => .ended s
      | .word w1 s => match decodeWords w0 w1 with
        | .ok i => s.start i
        | .error _ => bad .illegal s 0
    else match decodeWords w0 0 with
      | .ok i => s.start i
      | .error _ => bad .illegal s 0

/-- The limits of R275 hold the track's issue back: once in eight cycles under the hardware cap of 1, every other cycle while input
power is over its limit, from the cycle after the sample on (R20). -/
def State.throttled (s : State) (c : Nat) (t : Track) : Bool :=
  match t.issuedAt with
  | none => false
  | some n => ((s.die (dieOf c)).cap == 1 && decide (s.time < n + 8)) || (s.powerHigh && decide (s.powerFrom < s.time) && decide (s.time < n + 2))

/-- Closes a strip that has to close before the next instruction: one of more than eight rows (R67), or one whose close has waited. -/
def State.closeNow (s : State) : State :=
  match s.stripClose with
  | .done s => s
  | .trap f s => s.syncFault f
  | .held _ _ s => s
  | .wait _ _ s => s
  | .goes s => s
  | .ends s => s
  | .closeFirst => s

/-- A track's turn: what it owes first (a watchpoint's action, a halt, a record), then the instruction it waits in, then the next
one. -/
def State.issue (s : State) (c n : Nat) (slow : Bool) : Next :=
  let s := { s with cur := (c, n), slow := slow }
  let t := s.me
  if !canIssue s.myCore t || s.throttled c t then .ended s
  else match t.owed with
    | some o => .ended (s.applyOwed o)
    | none =>
      if t.haltReq && !s.tookEffect then .ended s.haltTrack
      else if (s.waitRecord c n).isSome then .ended s.deliverWaiting
      else match t.wait with
        | some w => if w.again then .run (.vwaitReevaluate c n 0) s else if w.kind.byEvent then .ended s else .run w.instr s
        | none =>
          match (if t.strip.isOpen then none else s.boundary) with
          | some s => .ended s
          | none =>
            let hits := breakHits s.myCore t
            if t.strip.alone || t.strip.closing then .ended s.closeNow
            else if hits.isEmpty then s.fetch
            else
              match (if (strongest hits).map (·.2) = some 2 then s.stripClose else .done s) with
              | .done s => match s.breakpoint hits with
                | (s, true) => s.fetch
                | (s, false) => .ended s
              | .trap f s => .ended (s.syncFault f)
              | .held _ _ s => .ended s
              | .wait _ _ s => .ended s
              | .goes s => .ended s
              | .ends s => .ended s
              | .closeFirst => .ended s

/-- The agent that moves now: the head of the schedule, else the current track if it can issue, else the clock. -/
def State.nextUp (s : State) : Next :=
  match s.schedule with
  | .issue c t :: rest => { s with schedule := rest }.issue c t false
  | .issueSlow c t :: rest => { s with schedule := rest }.issue c t true
  | .event i :: rest => if i.wf && !i.hasWord then .run i { s with schedule := rest } else .ended { s with schedule := rest }
  | .stewardThaw c v :: rest => .ended ({ s with schedule := rest }.stewardThaw c v)
  | .stewardImage l c x a :: rest => .ended ({ s with schedule := rest }.stewardImage l c x a)
  | .dropCore c i :: rest => .ended ({ s with schedule := rest }.modCore c fun k => { k with tlb := k.tlb.eraseIdx i })
  | .dropCluster c i :: rest => .ended ({ s with schedule := rest }.modCluster c fun k => { k with tlb := k.tlb.eraseIdx i })
  | .stewardReady d :: rest => .ended ({ s with schedule := rest }.stewardReady d)
  | .stewardTest u :: rest => .ended ({ s with schedule := rest }.stewardTest u)
  | .bootCopy a n :: rest => .ended ({ s with schedule := rest }.bootCopy a n)
  | .poolUpset c b l w :: rest => .ended ({ s with schedule := rest }.upset c b l w)
  | .dropDie d i :: rest => .ended ({ s with schedule := rest }.modDie d fun k => { k with walks := k.walks.eraseIdx i })
  | [] =>
    if canIssue s.myCore s.me && !s.throttled s.cur.1 s.me && (match s.me.wait with
        | some w => w.again || !w.kind.byEvent
        | none => true) then s.issue s.cur.1 s.cur.2 false
    else .run .clockCycle s

end Sys2Proof.Machine
end

