-- ==== Sys2Proof/Machine/Turns.lean ====
section
/-!
DEFINITION. What befalls a track from outside its own instructions: load data that comes back (R391), a halt that takes effect (R286), a
record that an engine holds (R237), the steward's two ways with an escalated track (R238), and a walk for a translation (R244).
-/
namespace Sys2Proof.Machine

/-- The oldest load whose data has not come lands: in its register, or in a frozen core's arrival buffer (R250, R391). -/
def Track.loadLands (t : Track) (frozen : Bool) : Track :=
  match t.pending.find? fun p => !p.landed with
  | none => t
  | some p =>
    if frozen then { t with pending := t.pending.map fun x => if x = p then { x with landed := true } else x }
    else t.landLoad p

/-- LOAD_RESPONSE. -/
def execLoadResponse (core t : Nat) (s : State) : Host.Outcome State Fault Refusal :=
  .next (s.modTrack core t (·.loadLands (s.core core).frozen))

/-- TRACK_HALT: a requested halt takes effect. -/
def execTrackHalt (core t : Nat) (s : State) : Host.Outcome State Fault Refusal :=
  if (s.core core).frozen || (s.track core t).escalated then .next s else .next { s with cur := (core, t) }.haltTrack

/-- ENGINE_RECORD_DELIVERY: at once while the track waits on the engine, else at a strip boundary (R237). -/
def execEngineRecordDelivery (core t : Nat) (s : State) : Host.Outcome State Fault Refusal :=
  let k := s.core core
  let u := k.track t
  if !canIssue k u then .next s
  else
    let s' := { s with cur := (core, t) }
    if (s'.waitRecord core t).isSome then .next s'.deliverWaiting
    else if u.wait.isNone && !u.strip.isOpen && u.opaTraps.isEmpty then .next (s'.boundary.getD s)
    else .next s

/-- Whether the steward may deal with a track: it has escalated, its core is not frozen, so that it stays as an image may record it (R248),
and the die's firmware runs (R274). -/
def State.stewardMay (s : State) (core t : Nat) : Bool := (s.track core t).escalated && !(s.core core).frozen && !s.runClear core

/-- STEWARD_KILL_TRIP (R236, R238): the writes in flight of the trip's copies land first (R150). -/
def execStewardKillTrip (core t : Nat) (s : State) : Host.Outcome State Fault Refusal :=
  if s.stewardMay core t && !s.killHeld core t then .next (s.killTrip core t) else .next s

/-- The track thaws at TVEC with its level's registers as at the entry (R238). What the handler has done is not undone: a strip of it that
was open closes before the handler's first instruction (log entry 52). -/
def Track.thawEscalated (t : Track) : Track :=
  let f := mget {} t.level t.entries
  let t := { t with
    escalated := false, wait := none, pc := t.tvec &&& ~~~3#64, super := true
    strip := if t.strip.isOpen then { t.strip with closing := true, arith := none } else {}
    tcause := f.tcause, taddr := f.taddr, tepc := f.tepc, tfpc := f.tfpc, telem := f.telem, acked := false, pmode := f.pmode
    resume := f.engine, frames := mput t.level f t.frames }
  t.setX 2 (if t.level = 1 then t.tstack &&& ~~~63#64 else f.x2)

/-- STEWARD_THAW_ESCALATED; a frozen core's tracks stand still (R248). -/
def execStewardThawEscalated (core t : Nat) (s : State) : Host.Outcome State Fault Refusal :=
  if s.stewardMay core t then .next (s.modTrack core t (·.thawEscalated)) else .next s

/-- PAGE_WALK: a walker's walk for a track's miss fills the caches; what it faults on, the access that needs it will raise (R244). -/
def execPageWalk (core t : Nat) (va : Word) (write : Bool) (s : State) : Host.Outcome State Fault Refusal :=
  let k : AccKind := if write then .write else .read
  if (s.track core t).trip.isNone || !canonical va.toNat || (windowOf va.toNat).isSome
      || s.walkHeld { s with cur := (core, t) }.who va.toNat k then .next s
  else match s.walk { s with cur := (core, t) }.who va.toNat k with
    | .ok _ s => .next s
    | .fault _ s => .next s

end Sys2Proof.Machine
end

