-- ==== Sys2Proof/Machine/Dispatch.lean ====
section
/-! DEFINITION. The meaning of every instruction and event, one arm each. -/
namespace Sys2Proof.Machine

def exec (i : Instr) (s : State) : Host.Outcome State Fault Refusal :=
  match i with
  | .add d a b => Sys2Proof.Machine.execAdd d a b s
  | .sub d a b => Sys2Proof.Machine.execSub d a b s
  | .and d a b => Sys2Proof.Machine.execAnd d a b s
  | .or d a b => Sys2Proof.Machine.execOr d a b s
  | .xor d a b => Sys2Proof.Machine.execXor d a b s
  | .shl d a b => Sys2Proof.Machine.execShl d a b s
  | .shr d a b => Sys2Proof.Machine.execShr d a b s
  | .sra d a b => Sys2Proof.Machine.execSra d a b s
  | .slt d a b => Sys2Proof.Machine.execSlt d a b s
  | .sltn d a b => Sys2Proof.Machine.execSltn d a b s
  | .min d a b => Sys2Proof.Machine.execMin d a b s
  | .max d a b => Sys2Proof.Machine.execMax d a b s
  | .minn d a b => Sys2Proof.Machine.execMinn d a b s
  | .maxn d a b => Sys2Proof.Machine.execMaxn d a b s
  | .mul d a b => Sys2Proof.Machine.execMul d a b s
  | .mulh d a b => Sys2Proof.Machine.execMulh d a b s
  | .mulhn d a b => Sys2Proof.Machine.execMulhn d a b s
  | .div d a b => Sys2Proof.Machine.execDiv d a b s
  | .divn d a b => Sys2Proof.Machine.execDivn d a b s
  | .rem d a b => Sys2Proof.Machine.execRem d a b s
  | .remn d a b => Sys2Proof.Machine.execRemn d a b s
  | .clz d a => Sys2Proof.Machine.execClz d a s
  | .ctz d a => Sys2Proof.Machine.execCtz d a s
  | .popc d a => Sys2Proof.Machine.execPopc d a s
  | .sel d a b c => Sys2Proof.Machine.execSel d a b c s
  | .ext d a b => Sys2Proof.Machine.execExt d a b s
  | .ins d a b => Sys2Proof.Machine.execIns d a b s
  | .addi d a imm => Sys2Proof.Machine.execAddi d a imm s
  | .andi d a imm => Sys2Proof.Machine.execAndi d a imm s
  | .ori d a imm => Sys2Proof.Machine.execOri d a imm s
  | .xori d a imm => Sys2Proof.Machine.execXori d a imm s
  | .slti d a imm => Sys2Proof.Machine.execSlti d a imm s
  | .sltni d a imm => Sys2Proof.Machine.execSltni d a imm s
  | .shli d a sh => Sys2Proof.Machine.execShli d a sh s
  | .shri d a sh => Sys2Proof.Machine.execShri d a sh s
  | .srai d a sh => Sys2Proof.Machine.execSrai d a sh s
  | .lui d imm => Sys2Proof.Machine.execLui d imm s
  | .adpc d imm => Sys2Proof.Machine.execAdpc d imm s
  | .fadd p d a b rm => Sys2Proof.Machine.execFadd p d a b rm s
  | .fsub p d a b rm => Sys2Proof.Machine.execFsub p d a b rm s
  | .fmul p d a b rm => Sys2Proof.Machine.execFmul p d a b rm s
  | .fma p d a b rm => Sys2Proof.Machine.execFma p d a b rm s
  | .fdiv p d a b rm => Sys2Proof.Machine.execFdiv p d a b rm s
  | .fsqrt p d a rm => Sys2Proof.Machine.execFsqrt p d a rm s
  | .fmin p d a b => Sys2Proof.Machine.execFmin p d a b s
  | .fmax p d a b => Sys2Proof.Machine.execFmax p d a b s
  | .fcmp p c d a b => Sys2Proof.Machine.execFcmp p c d a b s
  | .fcvt p k d a rm => Sys2Proof.Machine.execFcvt p k d a rm s
  | .fclass p d a => Sys2Proof.Machine.execFclass p d a s
  | .ld z d a imm => Sys2Proof.Machine.execLd z d a imm s
  | .st z src a imm => Sys2Proof.Machine.execSt z src a imm s
  | .pref write a imm => Sys2Proof.Machine.execPref write a imm s
  | .amoSwap d a b o sc z => Sys2Proof.Machine.execAmoSwap d a b o sc z s
  | .amoAdd d a b o sc z => Sys2Proof.Machine.execAmoAdd d a b o sc z s
  | .amoAnd d a b o sc z => Sys2Proof.Machine.execAmoAnd d a b o sc z s
  | .amoOr d a b o sc z => Sys2Proof.Machine.execAmoOr d a b o sc z s
  | .amoXor d a b o sc z => Sys2Proof.Machine.execAmoXor d a b o sc z s
  | .amoMin d a b o sc z => Sys2Proof.Machine.execAmoMin d a b o sc z s
  | .amoMax d a b o sc z => Sys2Proof.Machine.execAmoMax d a b o sc z s
  | .amoMinn d a b o sc z => Sys2Proof.Machine.execAmoMinn d a b o sc z s
  | .amoMaxn d a b o sc z => Sys2Proof.Machine.execAmoMaxn d a b o sc z s
  | .amoFadd d a b o sc p => Sys2Proof.Machine.execAmoFadd d a b o sc p s
  | .cas d a b o sc z => Sys2Proof.Machine.execCas d a b o sc z s
  | .fence o sc => Sys2Proof.Machine.execFence o sc s
  | .beq a b off => Sys2Proof.Machine.execBeq a b off s
  | .bne a b off => Sys2Proof.Machine.execBne a b off s
  | .blt a b off => Sys2Proof.Machine.execBlt a b off s
  | .bge a b off => Sys2Proof.Machine.execBge a b off s
  | .bltn a b off => Sys2Proof.Machine.execBltn a b off s
  | .bgen a b off => Sys2Proof.Machine.execBgen a b off s
  | .jal d off => Sys2Proof.Machine.execJal d off s
  | .jalr d a imm => Sys2Proof.Machine.execJalr d a imm s
  | .sysrd d n => Sys2Proof.Machine.execSysrd d n s
  | .syswr n a => Sys2Proof.Machine.execSyswr n a s
  | .trap a code => Sys2Proof.Machine.execTrap a code s
  | .trapAck => Sys2Proof.Machine.execTrapAck s
  | .trapRet => Sys2Proof.Machine.execTrapRet s
  | .brk => Sys2Proof.Machine.execBrk s
  | .cflush a => Sys2Proof.Machine.execCflush a s
  | .tlbinv a b mode => Sys2Proof.Machine.execTlbinv a b mode s
  | .traceMark a => Sys2Proof.Machine.execTraceMark a s
  | .freeze d a => Sys2Proof.Machine.execFreeze d a s
  | .thaw d a => Sys2Proof.Machine.execThaw d a s
  | .thawV d a => Sys2Proof.Machine.execThawV d a s
  | .imgSave d a b => Sys2Proof.Machine.execImgSave d a b s
  | .imgLoad d a b => Sys2Proof.Machine.execImgLoad d a b s
  | .spawn d a b place => Sys2Proof.Machine.execSpawn d a b place s
  | .cont a b => Sys2Proof.Machine.execCont a b s
  | .exit => Sys2Proof.Machine.execExit s
  | .yield n => Sys2Proof.Machine.execYield n s
  | .launch d a => Sys2Proof.Machine.execLaunch d a s
  | .trigger => Sys2Proof.Machine.execTrigger s
  | .setvl d a => Sys2Proof.Machine.execSetvl d a s
  | .setvlAdv d a => Sys2Proof.Machine.execSetvlAdv d a s
  | .lanes d a => Sys2Proof.Machine.execLanes d a s
  | .gclaim d band count => Sys2Proof.Machine.execGclaim d band count s
  | .gclaimT d band count => Sys2Proof.Machine.execGclaimT d band count s
  | .grelease => Sys2Proof.Machine.execGrelease s
  | .gzero mask => Sys2Proof.Machine.execGzero mask s
  | .gpark a band => Sys2Proof.Machine.execGpark a band s
  | .gunpark a band => Sys2Proof.Machine.execGunpark a band s
  | .gwait mask => Sys2Proof.Machine.execGwait mask s
  | .fmt a => Sys2Proof.Machine.execFmt a s
  | .opa na nb z qa qb k => Sys2Proof.Machine.execOpa na nb z qa qb k s
  | .strmCfg q a => Sys2Proof.Machine.execStrmCfg q a s
  | .strmIdx q a b => Sys2Proof.Machine.execStrmIdx q a b s
  | .strmLink q a => Sys2Proof.Machine.execStrmLink q a s
  | .strmStop q => Sys2Proof.Machine.execStrmStop q s
  | .strmSkip q a => Sys2Proof.Machine.execStrmSkip q a s
  | .cbkLoad slot a => Sys2Proof.Machine.execCbkLoad slot a s
  | .cpy c a => Sys2Proof.Machine.execCpy c a s
  | .cpyAbort d c => Sys2Proof.Machine.execCpyAbort d c s
  | .mileWait c a => Sys2Proof.Machine.execMileWait c a s
  | .xfLoad slot a => Sys2Proof.Machine.execXfLoad slot a s
  | .jctInit a b => Sys2Proof.Machine.execJctInit a b s
  | .jctAdd a b sc => Sys2Proof.Machine.execJctAdd a b sc s
  | .jctWait d a b sc => Sys2Proof.Machine.execJctWait d a b sc s
  | .jctTest d a sc => Sys2Proof.Machine.execJctTest d a sc s
  | .barJoin a => Sys2Proof.Machine.execBarJoin a s
  | .barArrive d a => Sys2Proof.Machine.execBarArrive d a s
  | .barWait d a b => Sys2Proof.Machine.execBarWait d a b s
  | .barLeave a => Sys2Proof.Machine.execBarLeave a s
  | .barReset d a => Sys2Proof.Machine.execBarReset d a s
  | .barResetI d a sc => Sys2Proof.Machine.execBarResetI d a sc s
  | .meetOpen d a b => Sys2Proof.Machine.execMeetOpen d a b s
  | .meetSlot d a b => Sys2Proof.Machine.execMeetSlot d a b s
  | .meetArrive d a b => Sys2Proof.Machine.execMeetArrive d a b s
  | .meetWait d a b => Sys2Proof.Machine.execMeetWait d a b s
  | .meetRejoin d a b => Sys2Proof.Machine.execMeetRejoin d a b s
  | .meetClose a => Sys2Proof.Machine.execMeetClose a s
  | .crossPost k a => Sys2Proof.Machine.execCrossPost k a s
  | .crossTake d k => Sys2Proof.Machine.execCrossTake d k s
  | .vadd et vd va vb c => Sys2Proof.Machine.execVadd et vd va vb c s
  | .vsub et vd va vb c => Sys2Proof.Machine.execVsub et vd va vb c s
  | .vmul et vd va vb c => Sys2Proof.Machine.execVmul et vd va vb c s
  | .vfma sub et vd va vb vc c => Sys2Proof.Machine.execVfma sub et vd va vb vc c s
  | .vdiv et vd va vb c => Sys2Proof.Machine.execVdiv et vd va vb c s
  | .vsqrt et vd va c => Sys2Proof.Machine.execVsqrt et vd va c s
  | .vrcp vd va c => Sys2Proof.Machine.execVrcp vd va c s
  | .vrsqrt vd va c => Sys2Proof.Machine.execVrsqrt vd va c s
  | .vexp2 vd va c => Sys2Proof.Machine.execVexp2 vd va c s
  | .vlog2 vd va c => Sys2Proof.Machine.execVlog2 vd va c s
  | .vtanh vd va c => Sys2Proof.Machine.execVtanh vd va c s
  | .vmin et vd va vb p => Sys2Proof.Machine.execVmin et vd va vb p s
  | .vmax et vd va vb p => Sys2Proof.Machine.execVmax et vd va vb p s
  | .vsgn sub et vd va vb p => Sys2Proof.Machine.execVsgn sub et vd va vb p s
  | .vcvt target et vd va c => Sys2Proof.Machine.execVcvt target et vd va c s
  | .viadd vd va vb sat p => Sys2Proof.Machine.execViadd vd va vb sat p s
  | .visub vd va vb sat p => Sys2Proof.Machine.execVisub vd va vb sat p s
  | .vimul vd va vb sat p => Sys2Proof.Machine.execVimul vd va vb sat p s
  | .vshl vd va vb p => Sys2Proof.Machine.execVshl vd va vb p s
  | .vshr vd va vb p => Sys2Proof.Machine.execVshr vd va vb p s
  | .vsra vd va vb p => Sys2Proof.Machine.execVsra vd va vb p s
  | .vand vd va vb p => Sys2Proof.Machine.execVand vd va vb p s
  | .vor vd va vb p => Sys2Proof.Machine.execVor vd va vb p s
  | .vxor vd va vb p => Sys2Proof.Machine.execVxor vd va vb p s
  | .vimin vd va vb p => Sys2Proof.Machine.execVimin vd va vb p s
  | .vimax vd va vb p => Sys2Proof.Machine.execVimax vd va vb p s
  | .vmv et vd va p => Sys2Proof.Machine.execVmv et vd va p s
  | .vsel et vd va vb ms p => Sys2Proof.Machine.execVsel et vd va vb ms p s
  | .vbcast et vd va xi p => Sys2Proof.Machine.execVbcast et vd va xi p s
  | .vext et xd va xi => Sys2Proof.Machine.execVext et xd va xi s
  | .vins et vd xs xi => Sys2Proof.Machine.execVins et vd xs xi s
  | .vslide down et vd va xo p => Sys2Proof.Machine.execVslide down et vd va xo p s
  | .vperm et vd va vb p => Sys2Proof.Machine.execVperm et vd va vb p s
  | .vred op et vd va rm sat mk => Sys2Proof.Machine.execVred op et vd va rm sat mk s
  | .vscan op et vd va c => Sys2Proof.Machine.execVscan op et vd va c s
  | .vfcmp cond et md va vb p => Sys2Proof.Machine.execVfcmp cond et md va vb p s
  | .vicmp cond md va vb p => Sys2Proof.Machine.execVicmp cond md va vb p s
  | .mlogic op md ma mb p => Sys2Proof.Machine.execMlogic op md ma mb p s
  | .mfirst md ma mk => Sys2Proof.Machine.execMfirst md ma mk s
  | .mpopc xd ma mk => Sys2Proof.Machine.execMpopc xd ma mk s
  | .mfind xd ma mk => Sys2Proof.Machine.execMfind xd ma mk s
  | .mtox xd ma xh => Sys2Proof.Machine.execMtox xd ma xh s
  | .mfromx md xs xh => Sys2Proof.Machine.execMfromx md xs xh s
  | .vld et vd xs xr p => Sys2Proof.Machine.execVld et vd xs xr p s
  | .vldx et vd xs vo p => Sys2Proof.Machine.execVldx et vd xs vo p s
  | .vldff et vd xs xr p => Sys2Proof.Machine.execVldff et vd xs xr p s
  | .vst va xs ad cv => Sys2Proof.Machine.execVst va xs ad cv s
  | .vstx va xs vo cv => Sys2Proof.Machine.execVstx va xs vo cv s
  | .vatom op et o sc vd xs va vb p => Sys2Proof.Machine.execVatom op et o sc vd xs va vb p s
  | .vwait cond all wide sc md xt xs va vb mk => Sys2Proof.Machine.execVwait cond all wide sc md xt xs va vb mk s
  | .rowfill et row count xs => Sys2Proof.Machine.execRowfill et row count xs s
  | .rowsend row count xs xj => Sys2Proof.Machine.execRowsend row count xs xj s
  | .gdrain va xs ad xj cv => Sys2Proof.Machine.execGdrain va xs ad xj cv s
  | .gsave row count xs xj => Sys2Proof.Machine.execGsave row count xs xj s
  | .gload row count xs xj => Sys2Proof.Machine.execGload row count xs xj s
  | .lqtailWrite queue w => Sys2Proof.Machine.execLqtailWrite queue w s
  | .deviceRegisterWrite w => Sys2Proof.Machine.execDeviceRegisterWrite w s
  | .queueRecordRead queue => Sys2Proof.Machine.execQueueRecordRead queue s
  | .launchStart serial => Sys2Proof.Machine.execLaunchStart serial s
  | .expanderPush serial at_ => Sys2Proof.Machine.execExpanderPush serial at_ s
  | .tripStart core t => Sys2Proof.Machine.execTripStart core t s
  | .gangStart serial parent => Sys2Proof.Machine.execGangStart serial parent s
  | .agingThreshold seq => Sys2Proof.Machine.execAgingThreshold seq s
  | .spillReturn seq => Sys2Proof.Machine.execSpillReturn seq s
  | .launchComplete serial => Sys2Proof.Machine.execLaunchComplete serial s
  | .stewardWriteRetry serial => Sys2Proof.Machine.execStewardWriteRetry serial s
  | .stewardWriteDiscard serial => Sys2Proof.Machine.execStewardWriteDiscard serial s
  | .gridCommandEnter core cmd => Sys2Proof.Machine.execGridCommandEnter core cmd s
  | .opaComplete core cmd => Sys2Proof.Machine.execOpaComplete core cmd s
  | .opaArithTrap core t => Sys2Proof.Machine.execOpaArithTrap core t s
  | .gzeroComplete core cmd => Sys2Proof.Machine.execGzeroComplete core cmd s
  | .gparkComplete core cmd => Sys2Proof.Machine.execGparkComplete core cmd s
  | .gunparkComplete core cmd => Sys2Proof.Machine.execGunparkComplete core cmd s
  | .rowfillComplete core cmd => Sys2Proof.Machine.execRowfillComplete core cmd s
  | .gdrainComplete core cmd => Sys2Proof.Machine.execGdrainComplete core cmd s
  | .gsaveComplete core cmd => Sys2Proof.Machine.execGsaveComplete core cmd s
  | .gloadComplete core cmd => Sys2Proof.Machine.execGloadComplete core cmd s
  | .rowsendArrival core cmd => Sys2Proof.Machine.execRowsendArrival core cmd s
  | .rowsendComplete core cmd => Sys2Proof.Machine.execRowsendComplete core cmd s
  | .copyStart core c => Sys2Proof.Machine.execCopyStart core c s
  | .copyTransfer core c bytes => Sys2Proof.Machine.execCopyTransfer core c bytes s
  | .copyComplete core c => Sys2Proof.Machine.execCopyComplete core c s
  | .cpyQueueRoom core t => Sys2Proof.Machine.execCpyQueueRoom core t s
  | .streamRefill core q => Sys2Proof.Machine.execStreamRefill core q s
  | .linkFlitArrival core q => Sys2Proof.Machine.execLinkFlitArrival core q s
  | .graphBlock core c => Sys2Proof.Machine.execGraphBlock core c s
  | .xfLoadInstall core t => Sys2Proof.Machine.execXfLoadInstall core t s
  | .offloadTargetFull core c accepted => Sys2Proof.Machine.execOffloadTargetFull core c accepted s
  | .cxlRetrainFail port => Sys2Proof.Machine.execCxlRetrainFail port s
  | .loadResponse core t => Sys2Proof.Machine.execLoadResponse core t s
  | .crossTakeWake core t => Sys2Proof.Machine.execCrossTakeWake core t s
  | .crossPostWake core t => Sys2Proof.Machine.execCrossPostWake core t s
  | .gclaimGrant core t => Sys2Proof.Machine.execGclaimGrant core t s
  | .barWaitReturn core t => Sys2Proof.Machine.execBarWaitReturn core t s
  | .barArriveNextPhase core t => Sys2Proof.Machine.execBarArriveNextPhase core t s
  | .jctWaitReturn core t => Sys2Proof.Machine.execJctWaitReturn core t s
  | .mileWaitReturn core t => Sys2Proof.Machine.execMileWaitReturn core t s
  | .meetArriveReclassify core t => Sys2Proof.Machine.execMeetArriveReclassify core t s
  | .meetCombine obj => Sys2Proof.Machine.execMeetCombine obj s
  | .meetSlotReturn core t => Sys2Proof.Machine.execMeetSlotReturn core t s
  | .meetWaitReturn core t => Sys2Proof.Machine.execMeetWaitReturn core t s
  | .meetCloseNotice obj => Sys2Proof.Machine.execMeetCloseNotice obj s
  | .vwaitReevaluate core t elem => Sys2Proof.Machine.execVwaitReevaluate core t elem s
  | .vwaitTimeout core t => Sys2Proof.Machine.execVwaitTimeout core t s
  | .yieldEnd core t => Sys2Proof.Machine.execYieldEnd core t s
  | .engineRecordDelivery core t => Sys2Proof.Machine.execEngineRecordDelivery core t s
  | .stewardKillTrip core t => Sys2Proof.Machine.execStewardKillTrip core t s
  | .stewardThawEscalated core t => Sys2Proof.Machine.execStewardThawEscalated core t s
  | .pageWalk core t va write => Sys2Proof.Machine.execPageWalk core t va write s
  | .dbgctlHalt core t => Sys2Proof.Machine.execDbgctlHalt core t s
  | .dbgctlResume core t => Sys2Proof.Machine.execDbgctlResume core t s
  | .dbgctlStep core t => Sys2Proof.Machine.execDbgctlStep core t s
  | .trackHalt core t => Sys2Proof.Machine.execTrackHalt core t s
  | .gangHaltRequest core t => Sys2Proof.Machine.execGangHaltRequest core t s
  | .dregdataRead core => Sys2Proof.Machine.execDregdataRead core s
  | .dregdataWrite core v => Sys2Proof.Machine.execDregdataWrite core v s
  | .lagctlClear core => Sys2Proof.Machine.execLagctlClear core s
  | .samplerTick core => Sys2Proof.Machine.execSamplerTick core s
  | .traceWindowStop die => Sys2Proof.Machine.execTraceWindowStop die s
  | .tracePortDropReport die => Sys2Proof.Machine.execTracePortDropReport die s
  | .sctlRunSet die => Sys2Proof.Machine.execSctlRunSet die s
  | .sctlRunClear die => Sys2Proof.Machine.execSctlRunClear die s
  | .watchdogKick die => Sys2Proof.Machine.execWatchdogKick die s
  | .watchdogExpire die => Sys2Proof.Machine.execWatchdogExpire die s
  | .ssyncWrite die v => Sys2Proof.Machine.execSsyncWrite die v s
  | .slcapWrite core v => Sys2Proof.Machine.execSlcapWrite core v s
  | .powerSample watts => Sys2Proof.Machine.execPowerSample watts s
  | .powerThrottleLift => Sys2Proof.Machine.execPowerThrottleLift s
  | .thermalSense die degrees => Sys2Proof.Machine.execThermalSense die degrees s
  | .thermalCapLift die => Sys2Proof.Machine.execThermalCapLift die s
  | .thermalTrip die => Sys2Proof.Machine.execThermalTrip die s
  | .moduleReset => Sys2Proof.Machine.execModuleReset s
  | .errorReport u corrected => Sys2Proof.Machine.execErrorReport u corrected s
  | .targetedUnitTest u pass => Sys2Proof.Machine.execTargetedUnitTest u pass s
  | .coreRemoval core => Sys2Proof.Machine.execCoreRemoval core s
  | .freezeArrival core => Sys2Proof.Machine.execFreezeArrival core s
  | .imageSeal core => Sys2Proof.Machine.execImageSeal core s
  | .sealTimeout core => Sys2Proof.Machine.execSealTimeout core s
  | .holdNotice core q => Sys2Proof.Machine.execHoldNotice core q s
  | .holdAck core q => Sys2Proof.Machine.execHoldAck core q s
  | .releaseNotice core q => Sys2Proof.Machine.execReleaseNotice core q s
  | .frozenCoreRetry core t => Sys2Proof.Machine.execFrozenCoreRetry core t s
  | .imageEngineStart cluster => Sys2Proof.Machine.execImageEngineStart cluster s
  | .imageSaveComplete cluster => Sys2Proof.Machine.execImageSaveComplete cluster s
  | .imageLoadComplete cluster => Sys2Proof.Machine.execImageLoadComplete cluster s
  | .imageCommandPause cluster => Sys2Proof.Machine.execImageCommandPause cluster s
  | .lesanRead p => Sys2Proof.Machine.execLesanRead p s
  | .lesanReadData p => Sys2Proof.Machine.execLesanReadData p s
  | .lesanWrite p => Sys2Proof.Machine.execLesanWrite p s
  | .lesanWriteAck p => Sys2Proof.Machine.execLesanWriteAck p s
  | .lesanAtomic p => Sys2Proof.Machine.execLesanAtomic p s
  | .lesanAtomicResult p => Sys2Proof.Machine.execLesanAtomicResult p s
  | .lesanMeetingArrival p => Sys2Proof.Machine.execLesanMeetingArrival p s
  | .lesanMeetingStatus p => Sys2Proof.Machine.execLesanMeetingStatus p s
  | .lesanMeetingResult p => Sys2Proof.Machine.execLesanMeetingResult p s
  | .lesanAcceptLimitNotice p => Sys2Proof.Machine.execLesanAcceptLimitNotice p s
  | .lesanAckOnly p => Sys2Proof.Machine.execLesanAckOnly p s
  | .lesanRetransmit node => Sys2Proof.Machine.execLesanRetransmit node s
  | .lesanConnectionDown node => Sys2Proof.Machine.execLesanConnectionDown node s
  | .ethernetFrameDrop port => Sys2Proof.Machine.execEthernetFrameDrop port s
  | .gridEngineTransfer core cmd => Sys2Proof.Machine.execGridEngineTransfer core cmd s
  | .cbkLoadComplete core cmd => Sys2Proof.Machine.execCbkLoadComplete core cmd s
  | .linkCreditReturn core q => Sys2Proof.Machine.execLinkCreditReturn core q s
  | .clockCycle => Sys2Proof.Machine.execClockCycle s
  | .debugAccessTimeout core => Sys2Proof.Machine.execDebugAccessTimeout core s
  | .hostMemoryAccess a => Sys2Proof.Machine.execHostMemoryAccess a s
  | .cxlFlushAck core t => Sys2Proof.Machine.execCxlFlushAck core t s

end Sys2Proof.Machine
end

