-- ==== Sys2Proof/Machine/Step.lean ====
section
/-!
DEFINITION. The step of the package: the agent that moves now performs one instruction or event.
-/
namespace Sys2Proof.Machine

/-- One step. -/
def step (s : State) : Host.Outcome State Fault Refusal :=
  match s.nextUp with
  | .ended s => .next s
  | .run i s => exec i s

/-- The state in which track 0 of core 0 fetches the instruction whose bits are `w` next: see `State.placeWord`. -/
def State.withFetchWord (s : State) (nbits w : Nat) : State := s.placeWord (w % 2 ^ nbits)

end Sys2Proof.Machine
end

