-- ==== Sys2Proof/Machine/Assembly.lean ====
section
/-!
DEFINITION. What the assembler emits: expressions, branch targets, pseudo-instructions, data and record directives, and sections (R304 to
R306, R310 to R313, R393). Source statements are data here; how they are spelt is out of scope (log entry 49). No step uses this file.
-/
namespace Sys2Proof.Machine

/-! Names (R304). -/

/-- A number written in decimal without leading zeros. -/
def decimal? : List Char → Option Nat
  | [] => none
  | ['0'] => some 0
  | '0' :: _ => none
  | l => l.foldl (fun v c => v.bind fun v => if c.isDigit then some (10 * v + (c.toNat - 48)) else none) (some 0)

/-- A reserved name: a register, a view, zero or iota. -/
def reservedName (n : String) : Bool :=
  let below := fun (l : List Char) (k : Nat) => (decimal? l).any (· < k)
  n == "zero" || n == "iota" || (match n.toList with
    | 'x' :: l => below l 32
    | 'm' :: l => below l 8 | 'q' :: l => below l 8 | 'k' :: l => below l 8 | 'c' :: l => below l 8
    | 'h' :: l => below l 128 | 'v' :: l => below l 128 | 'd' :: l => below l 128
    | _ => false)

/-- An identifier: its characters are those of R304, it is not `.`, and it is not reserved. -/
def identifier (n : String) : Bool :=
  let first := fun (c : Char) => c.isAlpha || c == '_' || c == '.'
  (match n.toList with
    | [] => false
    | c :: l => first c && l.all (fun c => first c || c.isDigit) && (c != '.' || !l.isEmpty)) && !reservedName n

/-! Expressions and float constants (R305). -/

/-- A float constant: a decimal or hexadecimal fraction as mantissa and exponent, inf or nan (R305). -/
inductive AsmLiteral
  | decimal (neg : Bool) (mant : Nat) (exp : Int)
  | hex (neg : Bool) (mant : Nat) (exp : Int)
  | inf (neg : Bool)
  | nan
deriving DecidableEq, Repr

/-- The number that a constant stands for (a decimal fraction to the precision of log entry 4). -/
def AsmLiteral.value : AsmLiteral → Num
  | .decimal neg m e =>
    if 0 ≤ e then .fin ⟨neg, m * 10 ^ e.toNat, 0⟩ else (numDiv (.fin ⟨neg, m, 0⟩) (.fin ⟨false, 10 ^ (-e).toNat, 0⟩)).1
  | .hex neg m e => .fin ⟨neg, m, e⟩
  | .inf neg => .inf neg
  | .nan => .nan

inductive AsmOp | mul | div | rem | add | sub | shl | shr | and | xor | or
deriving DecidableEq, Repr

/-- An expression: a constant, a symbol, the symbol `.`, and the operators. A float constant has no 64-bit value: only a graph factor takes
one. -/
inductive AsmExpr
  | num (n : Nat)
  | sym (name : String)
  | here
  | real (v : AsmLiteral)
  | neg (a : AsmExpr)
  | not (a : AsmExpr)
  | bin (op : AsmOp) (a b : AsmExpr)
deriving DecidableEq, Repr

/-- A value of 64-bit two's complement; none on overflow. -/
def fits64 (z : Int) : Option Int := if -(2 ^ 63 : Int) ≤ z ∧ z < 2 ^ 63 then some z else none

/-- A bitwise operation on the 64-bit patterns of two values. -/
def onWords (f : Word → Word → Word) (a b : Int) : Int := (f (BitVec.ofInt 64 a) (BitVec.ofInt 64 b)).toInt

/-- The value of an operator (R305): none on overflow, on a zero divisor, and for a shift count outside 0 to 63 (log entry 49). -/
def AsmOp.apply (op : AsmOp) (a b : Int) : Option Int :=
  match op with
  | .mul => fits64 (a * b)
  | .div => if b = 0 then none else fits64 (a.tdiv b)
  | .rem => if b = 0 then none else fits64 (a.tmod b)
  | .add => fits64 (a + b)
  | .sub => fits64 (a - b)
  | .shl => if 0 ≤ b ∧ b < 64 then fits64 (a * 2 ^ b.toNat) else none
  | .shr => if 0 ≤ b ∧ b < 64 then fits64 (a / 2 ^ b.toNat) else none
  | .and => some (onWords (· &&& ·) a b)
  | .xor => some (onWords (· ^^^ ·) a b)
  | .or => some (onWords (· ||| ·) a b)

/-- The symbols of a source file with their values. -/
abbrev Symbols := List (String × Int)

/-- The value of an expression at the address `pc` of its statement; none is an error. -/
def AsmExpr.eval (env : Symbols) (pc : Int) : AsmExpr → Option Int
  | .num n => if n < 2 ^ 64 then some (BitVec.ofNat 64 n).toInt else none
  | .sym s => env.lookup s
  | .here => some pc
  | .real _ => none
  | .neg a => (a.eval env pc).bind fun v => fits64 (-v)
  | .not a => (a.eval env pc).map fun v => -v - 1
  | .bin op a b => (a.eval env pc).bind fun x => (b.eval env pc).bind fun y => op.apply x y

/-- A value put in a field of `bits` bits, where it fits signed or unsigned (R310). -/
def inField (bits : Nat) (v : Int) : Option Nat :=
  if -(2 ^ (bits - 1) : Int) ≤ v ∧ v < 2 ^ bits then some (v % 2 ^ bits).toNat else none

/-- A value put in an unsigned field of `bits` bits (R306, R312); one of 64 bits holds any value. -/
def inUnsigned (bits : Nat) (v : Int) : Option Nat :=
  if bits = 64 then inField 64 v else if 0 ≤ v ∧ v < 2 ^ bits then some v.toNat else none

/-! Instructions (R306, R313, R393). -/

/-- The word offset from a branch to its target: none where the target is not 4-byte aligned or the offset does not fit (R306). -/
def branchOff (bits : Nat) (pc target : Int) : Option (BitVec bits) :=
  let d := target - pc
  if d % 4 = 0 ∧ -(2 ^ (bits - 1) : Int) ≤ d / 4 ∧ d / 4 < 2 ^ (bits - 1) then some (BitVec.ofInt bits (d / 4)) else none

/-- A branch or JAL at `pc` with its offset taken from a target; none for an instruction that has no offset field. -/
def withTarget (pc target : Int) : Instr → Option Instr
  | .beq a b _ => (branchOff 16 pc target).map (Instr.beq a b)
  | .bne a b _ => (branchOff 16 pc target).map (Instr.bne a b)
  | .blt a b _ => (branchOff 16 pc target).map (Instr.blt a b)
  | .bge a b _ => (branchOff 16 pc target).map (Instr.bge a b)
  | .bltn a b _ => (branchOff 16 pc target).map (Instr.bltn a b)
  | .bgen a b _ => (branchOff 16 pc target).map (Instr.bgen a b)
  | .jal d _ => (branchOff 21 pc target).map (Instr.jal d)
  | _ => none

/-- A value in a signed field. -/
def signedImm (bits : Nat) (v : Int) : Option (BitVec bits) :=
  if -(2 ^ (bits - 1) : Int) ≤ v ∧ v < 2 ^ (bits - 1) then some (BitVec.ofInt bits v) else none

/-- A value in an unsigned field. -/
def unsignedImm (bits : Nat) (v : Int) : Option (BitVec bits) := if 0 ≤ v ∧ v < 2 ^ bits then some (BitVec.ofInt bits v) else none

/-- A value from 0 up to a field's limit. -/
def indexImm (n : Nat) (v : Int) : Option (Fin (n + 1)) := if h : 0 ≤ v ∧ v < n + 1 then some ⟨v.toNat, by omega⟩ else none

/-- A form whose memory operand is written 0(xa): its format has no displacement (R207, R341, R351). -/
def zeroOffset : Instr → Bool
  | .amoSwap _ _ _ _ _ _ => true | .amoAdd _ _ _ _ _ _ => true | .amoAnd _ _ _ _ _ _ => true | .amoOr _ _ _ _ _ _ => true
  | .amoXor _ _ _ _ _ _ => true | .amoMin _ _ _ _ _ _ => true | .amoMax _ _ _ _ _ _ => true | .amoMinn _ _ _ _ _ _ => true
  | .amoMaxn _ _ _ _ _ _ => true | .amoFadd _ _ _ _ _ _ => true | .cas _ _ _ _ _ _ => true
  | .vatom _ _ _ _ _ _ _ _ _ => true | .vwait _ _ _ _ _ _ _ _ _ _ => true
  | .vld _ _ _ _ _ => true | .vldx _ _ _ _ _ => true | .vldff _ _ _ _ _ => true
  | .vst _ _ _ _ => true | .vstx _ _ _ _ => true | .gdrain _ _ _ _ _ => true
  | _ => false

/-- An instruction with its immediates taken from values, in the order of their operands; none where a value is outside its field's limits, or
the instruction has no such operands (R306). The offset of an address that its form has no field for must be 0. -/
def withImms : List Int → Instr → Option Instr
  | [v], .addi d a _ => (signedImm 16 v).map (Instr.addi d a)
  | [v], .slti d a _ => (signedImm 16 v).map (Instr.slti d a)
  | [v], .sltni d a _ => (signedImm 16 v).map (Instr.sltni d a)
  | [v], .andi d a _ => (unsignedImm 16 v).map (Instr.andi d a)
  | [v], .ori d a _ => (unsignedImm 16 v).map (Instr.ori d a)
  | [v], .xori d a _ => (unsignedImm 16 v).map (Instr.xori d a)
  | [v], .shli d a _ => (indexImm 63 v).map (Instr.shli d a)
  | [v], .shri d a _ => (indexImm 63 v).map (Instr.shri d a)
  | [v], .srai d a _ => (indexImm 63 v).map (Instr.srai d a)
  | [v], .lui d _ => (inField 16 v).map fun w => .lui d (BitVec.ofNat 16 w)
  | [v], .adpc d _ => (signedImm 16 v).map (Instr.adpc d)
  | [v], .jalr d a _ => (signedImm 16 v).map (Instr.jalr d a)
  | [v], .ld z d a _ => (signedImm 13 v).map (Instr.ld z d a)
  | [v], .st z r a _ => (signedImm 13 v).map (Instr.st z r a)
  | [h, v], .pref _ a _ => (indexImm 1 h).bind fun h => (signedImm 13 v).map (Instr.pref (h == 1) a)
  | [v], .trap a _ => (indexImm 31 v).map (Instr.trap a)
  | [v], .yield _ => (indexImm 31 v).map Instr.yield
  | [b, n], .gclaim d _ _ => (indexImm 3 b).bind fun b => (indexImm 3 (n - 1)).map (Instr.gclaim d b)
  | [b, n], .gclaimT d _ _ => (indexImm 3 b).bind fun b => (indexImm 3 (n - 1)).map (Instr.gclaimT d b)
  | [v], .gzero _ => (unsignedImm 4 v).map Instr.gzero
  | [v], .gwait _ => (unsignedImm 4 v).map Instr.gwait
  | [v], .gpark a _ => (indexImm 3 v).map (Instr.gpark a)
  | [v], .gunpark a _ => (indexImm 3 v).map (Instr.gunpark a)
  | [v], .cbkLoad _ a => (indexImm 3 v).map fun n => .cbkLoad n a
  | [v], .xfLoad _ a => (indexImm 3 v).map fun n => .xfLoad n a
  | [n], .rowfill t r _ x => (indexImm 7 (n - 1)).map fun n => .rowfill t r n x
  | [n], .rowsend r _ x j => (indexImm 7 (n - 1)).map fun n => .rowsend r n x j
  | [n, v], .gsave r _ x j => if v = 0 then (indexImm 31 (n - 1)).map fun n => .gsave r n x j else none
  | [n, v], .gload r _ x j => if v = 0 then (indexImm 31 (n - 1)).map fun n => .gload r n x j else none
  | [v], .tlbinv a b _ => if v = 0 then some (.tlbinv a b .page) else if v = 1 then some (.tlbinv a b .context)
    else if v = 2 then some (.tlbinv a b .all) else none
  | [v], .sysrd d _ => (indexImm 4095 v).map (Instr.sysrd d)
  | [v], .syswr _ a => (indexImm 4095 v).map fun n => .syswr n a
  | [v], i => if zeroOffset i && v == 0 then some i else none
  | _, _ => none

/-- An instruction that raises ILLEGAL by its fields alone (R86, R88, R103, R378, R408): no statement of it is accepted (R309). -/
def alwaysIllegal : Instr → Bool
  | .opa _ _ _ qa qb _ => qa == qb
  | .gclaim _ band count => decide (4 < band.val + count.val + 1)
  | .gclaimT _ band count => decide (4 < band.val + count.val + 1)
  | .gzero mask => mask == 0
  | .rowfill et row count _ => !fillType et || decide (128 < row.val + count.val + 1)
  | .gsave row count _ _ => decide (128 < row.val + count.val + 1)
  | .gload row count _ _ => decide (128 < row.val + count.val + 1)
  | _ => false

/-- The pseudo-instructions of R313; an operand `e` is a value or a branch target. -/
inductive Pseudo
  | nop
  | mv (d a : Reg)
  | li (d : Reg) (e : AsmExpr)
  | j (e : AsmExpr)
  | call (e : AsmExpr)
  | ret
  | beqz (a : Reg) (e : AsmExpr)
  | bnez (a : Reg) (e : AsmExpr)
  | bgt (a b : Reg) (e : AsmExpr)
  | ble (a b : Reg) (e : AsmExpr)
  | bgtn (a b : Reg) (e : AsmExpr)
  | blen (a b : Reg) (e : AsmExpr)
deriving DecidableEq, Repr

/-- The expansion of LI (R393): by the value alone, and no instruction of a sequence is left out. -/
def expandLi (d : Reg) (v : Word) : List Instr :=
  let part := fun (lo : Nat) => v.extractLsb' lo 16
  if -32768 ≤ v.toInt ∧ v.toInt ≤ 32767 then [.addi d 0 (part 0)]
  else if -(2 ^ 31 : Int) ≤ v.toInt ∧ v.toInt < 2 ^ 31 then [.lui d (part 16), .ori d d (part 0)]
  else [.lui d (part 48), .ori d d (part 32), .shli d d 16, .ori d d (part 16), .shli d d 16, .ori d d (part 0)]

/-- The expansion of a pseudo-instruction at `pc` (R313). -/
def Pseudo.expand (env : Symbols) (pc : Int) (p : Pseudo) : Option (List Instr) :=
  let jump := fun (e : AsmExpr) (i : Instr) => (e.eval env pc).bind fun t => (withTarget pc t i).map fun i => [i]
  match p with
  | .nop => some [.addi 0 0 0]
  | .mv d a => some [.addi d a 0]
  | .li d e => (e.eval env pc).map fun v => expandLi d (BitVec.ofInt 64 v)
  | .j e => jump e (.jal 0 0)
  | .call e => jump e (.jal 1 0)
  | .ret => some [.jalr 0 1 0]
  | .beqz a e => jump e (.beq a 0 0)
  | .bnez a e => jump e (.bne a 0 0)
  | .bgt a b e => jump e (.blt b a 0)
  | .ble a b e => jump e (.bge b a 0)
  | .bgtn a b e => jump e (.bltn b a 0)
  | .blen a b e => jump e (.bgen b a 0)

/-! Element directives (R311). -/

/-- Two four-bit values to a byte, the first in bits 3:0; an odd count leaves the last high nibble zero (R110, R311). -/
def packNibbles : List Nat → List Byte
  | [] => []
  | [a] => [BitVec.ofNat 8 (a % 16)]
  | a :: b :: t => BitVec.ofNat 8 (a % 16 + 16 * (b % 16)) :: packNibbles t

/-- The bytes of an element directive: each value by Round(v, type, RNE, 0), packed as R110 gives (R311). -/
def elementBytes (t : ElemType) (vs : List AsmLiteral) : List Byte :=
  let codes := vs.map fun v => (roundElem RCtx.rne t false v.value).1
  if elemBits t = 4 then packNibbles codes else codes.flatMap (toBytes (elemBytes t))

/-- What a conversion is warned of (R311). -/
inductive AsmWarning | inexact | overflow | nan
deriving DecidableEq, Repr

/-- The warnings of one value. A number out of an integer type's range overflows it, though the wrap raises no flag (R119); a NaN or an infinity has
no value there, which is no overflow (R115). -/
def elementWarnings (t : ElemType) (v : AsmLiteral) : List AsmWarning :=
  let (w, f) := roundElem RCtx.rne t false v.value
  let outside := match elemKind t with
    | .int b sg => (roundInt RCtx.rne b sg true v.value).2.sf
    | .float _ => f.of
    | .codebook => false | .raw => false
  (if f.nx then [.inexact] else []) ++ (if outside then [.overflow] else []) ++ (if elemValue t w == .nan then [.nan] else [])

/-! Record directives (R312). -/

/-- The place of a key in its record: first bit and width. -/
abbrev KeyTable := List (String × Nat × Nat)

def launchKeys : KeyTable :=
  [("afterall", 16, 1), ("supervisor", 17, 1), ("priority", 18, 2), ("home", 20, 2), ("framesize", 0x04 * 8, 32),
   ("entry", 0x08 * 8, 64), ("framebase", 0x10 * 8, 64), ("pool", 0x18 * 8, 64), ("lanes", 0x20 * 8, 32),
   ("trigger", 0x24 * 8, 32), ("tag", 0x28 * 8, 32), ("context", 0x2C * 8, 32), ("junction", 0x30 * 8, 64),
   ("status", 0x38 * 8, 64), ("stackbase", 0x40 * 8, 64), ("stacksize", 0x48 * 8, 32)]

def tripKeys : KeyTable :=
  [("code", 0, 64), ("frame", 8 * 8, 64), ("join", 0x10 * 8, 32), ("level", 0x14 * 8, 3), ("priority", 0x14 * 8 + 3, 2),
   ("gang", 0x14 * 8 + 5, 1), ("supervisor", 0x14 * 8 + 6, 1), ("epilogue", 0x14 * 8 + 7, 1), ("slot", 0x15 * 8, 8),
   ("parent", 0x18 * 8, 64)]

/-- `type` is the code of a type suffix, `scale` 0 none, 1 mx, 2 row; `dir` is 0 in, 1 out, 2 side, 3 linkin, 4 linkout. -/
def patternKeys : KeyTable :=
  [("base", 0, 64), ("pop", 0x38 * 8, 8), ("type", 0x3A * 8, 4), ("scale", 0x3B * 8, 2), ("scaleside", 0x3C * 8, 3),
   ("metaside", 0x3C * 8 + 4, 3), ("cbslot", 0x3D * 8, 2), ("dir", 0x3D * 8 + 2, 3)]

def nodeKeys : KeyTable :=
  [("op", 0, 8), ("in0", 8, 5), ("in1", 16, 5), ("itype", 24, 4), ("otype", 28, 4), ("round", 32, 3), ("sat", 35, 1),
   ("salt", 48, 16), ("p0", 64, 32), ("p1", 96, 32), ("addr", 128, 64)]

/-- `pow` and `frac` are the two forms of `weight`. -/
def meetingKeys : KeyTable :=
  [("n", 0, 16), ("k", 16, 16), ("lag", 32, 4), ("pow", 40, 3), ("frac", 48, 8), ("combine", 56, 8), ("type", 64, 8),
   ("count", 0x0C * 8, 32), ("slotbase", 0x58 * 8, 64), ("slotstride", 0x60 * 8, 64), ("result", 0x68 * 8, 64),
   ("junction", 0x70 * 8, 64), ("home", 0x78 * 8, 64), ("proxy", 0x14 * 8 + 2, 1)]

/-- Key and value pairs as written. -/
abbrev Keys := List (String × AsmExpr)

/-- The value of a key: that of its expression, in an unsigned field; a graph factor may be a float constant, of which it holds the FP32
bits (R168, R305). -/
def keyValue (env : Symbols) (pc : Int) (k : String) (n : Nat) : AsmExpr → Option Nat
  | .real v => if k = "p1" then some (roundFloat .rne .fp32 false v.value).1 else none
  | e => (e.eval env pc).bind (inUnsigned n)

/-- A record or a part of one as a number: `w` with each key's value in its field; none where a key is unknown, given twice, or its value
does not fit. -/
def fillKeys (table : KeyTable) (env : Symbols) (pc : Int) : Keys → Nat → Option Nat
  | [], w => some w
  | (k, e) :: t, w =>
    match table.lookup k with
    | some (lo, n) => if t.any (·.1 == k) then none else (keyValue env pc k n e).bind fun x => fillKeys table env pc t (w + x * 2 ^ lo)
    | none => none

/-- A level entry of .level (R24, R312). -/
structure LevelDir where
  domain : AsmExpr
  count : AsmExpr
  scope : AsmExpr
  gang : Bool := false
  epilogue : Option AsmExpr := none
deriving DecidableEq, Repr

/-- A record directive (R312). The levels of a launch and the nodes of a graph come with the .level and .node statements after it. -/
inductive AsmRecord
  | launch (keys : Keys) (preds : List (AsmExpr × Bool))
  | trip (keys : Keys)
  | pattern (keys : Keys) (sparse : Option AsmExpr) (counts strides : List AsmExpr)
  | graph (out : AsmExpr)
  | meeting (keys : Keys)
  | barrier
  | junction (expected : Option AsmExpr)
deriving DecidableEq, Repr

/-- Bytes of a record (R312). -/
def AsmRecord.size : AsmRecord → Nat
  | .launch _ _ => 256
  | .trip _ => 32
  | .pattern _ _ _ _ => 64
  | .graph _ => 576
  | .meeting _ => 128
  | .barrier => 64
  | .junction _ => 64

/-- How many .level or .node statements a record takes. -/
def AsmRecord.room : AsmRecord → Nat
  | .launch _ _ => 8
  | .graph _ => 16
  | .trip _ => 0 | .pattern _ _ _ _ => 0 | .meeting _ => 0 | .barrier => 0 | .junction _ => 0

/-- A level entry of sixteen bytes. -/
def LevelDir.word (l : LevelDir) (env : Symbols) (pc : Int) : Option Nat :=
  let f := fun (e : AsmExpr) (n : Nat) => (e.eval env pc).bind (inUnsigned n)
  match f l.domain 3, f l.scope 3, f l.count 24, (l.epilogue.map fun e => f e 64) with
  | some d, some sc, some n, none => some (d + 8 * sc + 64 * l.gang.toNat + 256 * n)
  | some d, some sc, some n, some (some c) => some (d + 8 * sc + 64 * l.gang.toNat + 128 + 256 * n + 2 ^ 64 * c)
  | _, _, _, _ => none

/-- Words of `n` bytes from `lo` up, in order. -/
def placeAll (n : Nat) : Nat → List Nat → Nat
  | _, [] => 0
  | lo, w :: t => w * 2 ^ (8 * lo) + placeAll n (lo + n) t

/-- All values of a list, none if one has none. -/
def allSome {α : Type} : List (Option α) → Option (List α)
  | [] => some []
  | none :: _ => none
  | some a :: t => (allSome t).map (a :: ·)

/-- A graph node: its second input is none where it is not given. -/
def nodeWord (env : Symbols) (pc : Int) (ks : Keys) : Option Nat :=
  fillKeys nodeKeys env pc (if ks.any (·.1 == "in1") then ks else ("in1", AsmExpr.num 31) :: ks) 0

/-- A record as one number, with its levels or nodes as given, before its checks. -/
def AsmRecord.word (r : AsmRecord) (env : Symbols) (pc : Int) (parts : List Nat) : Option Nat :=
  let f := fun (n : Nat) (e : AsmExpr) => (e.eval env pc).bind (inUnsigned n)
  match r with
  | .launch keys preds =>
    match fillKeys launchKeys env pc keys 0, allSome (preds.map fun p => (f 32 p.1).map fun t => t + 2 ^ 32 * p.2.toNat) with
    | some w, some ps =>
      if 4 < ps.length then none
      else some (w + 1 + 2 ^ (8 * 0x4C) * parts.length + 2 ^ (8 * 0x4D) * ps.length + placeAll 8 0x50 ps + placeAll 16 0x70 parts)
    | _, _ => none
  | .trip keys => fillKeys tripKeys env pc keys 0
  | .pattern keys sparse counts strides =>
    let sp := match sparse with
      | none => some 0
      | some e => (f 3 e).bind fun n => if n = 1 ∨ n = 2 ∨ n = 4 then some (2 ^ (8 * 0x3B + 2) * (1 + 4 * n)) else none
    match fillKeys patternKeys env pc keys 0, sp, allSome (counts.map (f 32)), allSome (strides.map (f 64)) with
    | some w, some d, some cs, some ss =>
      if 4 < cs.length ∨ 4 < ss.length then none
      else some (w + d + placeAll 4 8 ((cs ++ [1, 1, 1, 1]).take 4) + placeAll 8 0x18 ss)
    | _, _, _, _ => none
  | .graph out => (f 8 out).map fun o => 1 + 2 ^ 16 * parts.length + 2 ^ 24 * o + placeAll 32 0x40 parts
  | .meeting keys => (fillKeys meetingKeys env pc keys 0).map fun w => if keys.any (·.1 == "frac") then w + 2 ^ 47 else w
  | .barrier => some 0
  | .junction none => some 0
  | .junction (some e) => (f 64 e).map fun v => v * 2 ^ 64

/-- The checks of the record's own rules (R25, R133 to R135, R163, R221), as R312 has parzel apply them. -/
def AsmRecord.passes (r : AsmRecord) (w : Nat) : Bool :=
  match r with
  | .launch _ _ => (launchRec w).fails.isEmpty
  | .trip _ => true
  | .pattern _ _ _ _ =>
    match patternOf w with
    | some p => !patternBad 8 p && !patternUnaligned p && !outputBad p
    | none => false
  | .graph _ => (graphRecordBad w).isNone
  | .meeting _ => !descriptorBad w
  | .barrier => true
  | .junction _ => true

/-- The bytes of a record directive with its levels or nodes; none is an error. -/
def AsmRecord.bytes (r : AsmRecord) (env : Symbols) (pc : Int) (parts : List Nat) : Option (List Byte) :=
  (r.word env pc parts).bind fun w => if r.passes w then some (toBytes r.size w) else none

/-! Statements, sections and labels (R304, R310). -/

/-- A section: .text, .data, .sync, or a named one. -/
inductive AsmSection
  | text
  | data
  | sync
  | named (n : String)
deriving DecidableEq, Repr

/-- A source statement or label. `instr` has its immediates as expressions, in the order of its operands, or none where its fields are
given. -/
inductive AsmLine
  | label (n : String)
  | equ (n : String) (e : AsmExpr)
  | global (n : String)
  | select (s : AsmSection)
  | align (n : AsmExpr)
  | emit (size : Size) (es : List AsmExpr)
  | space (n v : AsmExpr)
  | elements (t : ElemType) (vs : List AsmLiteral)
  | record (r : AsmRecord)
  | level (l : LevelDir)
  | node (keys : Keys)
  | instr (i : Instr) (imms : List AsmExpr := [])
  | jump (i : Instr) (target : AsmExpr)
  | pseudo (p : Pseudo)
deriving DecidableEq, Repr

/-- A .launch or .graph of the file: its line, its section and place there, its address, the directive, and its levels or nodes so far. -/
structure AsmOpen where
  no : Nat
  sec : AsmSection
  off : Nat
  pc : Int
  record : AsmRecord
  parts : List Nat := []
deriving DecidableEq, Repr

/-- An assembly under way: each section's base address and bytes, the section selected, the names defined so far, labels that wait for the
next statement that emits, names exported, warnings with the lines they are for, and the launches and graphs, the latest first. -/
structure Asm where
  secs : List (AsmSection × Int × List Byte)
  cur : AsmSection := .text
  defs : Symbols := []
  waiting : List String := []
  globals : List String := []
  warnings : List (Nat × AsmWarning) := []
  opened : List AsmOpen := []
deriving DecidableEq, Repr

/-- The address of a section whose base the linker gives: .text begins on a word, and .sync is given by its offset in the sync window (R179,
R310). -/
def AsmSection.base (s : AsmSection) (given : Int) : Int :=
  match s with
  | .text => given + (-given) % 4
  | .sync => (BitVec.ofInt 64 (0xFD000000000000 + given)).toInt
  | .data => given
  | .named _ => given

/-- The address at which the selected section goes on; a section not listed is given base 0. -/
def Asm.here (a : Asm) : Int :=
  match a.secs.lookup a.cur with
  | some (base, bs) => base + bs.length
  | none => a.cur.base 0

/-- Adds bytes to the selected section. -/
def Asm.put (a : Asm) (bs : List Byte) : Asm :=
  if a.secs.any (·.1 == a.cur) then { a with secs := a.secs.map fun e => if e.1 == a.cur then (e.1, e.2.1, e.2.2 ++ bs) else e }
  else { a with secs := a.secs ++ [(a.cur, a.cur.base 0, bs)] }

/-- Puts bytes in place of those at an offset of a section. -/
def Asm.patch (a : Asm) (sec : AsmSection) (off : Nat) (bs : List Byte) : Asm :=
  { a with secs := a.secs.map fun e =>
      if e.1 == sec then (e.1, e.2.1, e.2.2.take off ++ bs ++ e.2.2.drop (off + bs.length)) else e }

/-- Zero bytes up to a multiple of `n`. -/
def Asm.pad (a : Asm) (n : Nat) : Asm := a.put (List.replicate ((-a.here) % (n : Int)).toNat 0)

/-- .align: in .text the padding goes on by whole words (R310), from the end of a word that data has begun. -/
def Asm.align (a : Asm) (n : Nat) : Asm := a.pad (if a.cur = .text then max n 4 else n)

/-- A name gets a value; a name that is no identifier and a second definition are errors (R304). -/
def Asm.define (a : Asm) (n : String) (v : Int) : Option Asm :=
  if !identifier n || (a.defs.lookup n).isSome then none else some { a with defs := a.defs ++ [(n, v)] }

/-- Labels take the address of a statement's first byte (R304). -/
def Asm.place (a : Asm) : List String → Option Asm
  | [] => some { a with waiting := [] }
  | n :: t => (a.define n a.here).bind fun a => a.place t

/-- A statement that emits `len` bytes: its own alignment, the labels before it, then its bytes. One that emits none takes no labels. -/
def Asm.statement (a : Asm) (al : Nat) (len : Int → Nat) (bytes : Int → Option (List Byte)) : Option Asm :=
  let b := a.pad al
  if len b.here = 0 then (bytes b.here).map fun _ => a
  else (b.place b.waiting).bind fun b => (bytes b.here).map b.put

/-- Words of instructions, which must be well-formed and not ILLEGAL by their fields (R309). -/
def codeBytes? (is : List Instr) : Option (List Byte) :=
  if is.all fun i => i.wf && i.hasWord && !alwaysIllegal i then some (is.flatMap encodeBytes) else none

/-- A count of bytes; none where it is negative, or above what an object can hold. -/
def asmCount (v : Int) : Option Nat := if 0 ≤ v ∧ v < 2 ^ 32 then some v.toNat else none

/-- Bytes that a statement takes; a value of LI that is not known yet is taken for a long one. -/
def AsmLine.length (env : Symbols) (pc : Int) : AsmLine → Nat
  | .emit z es => z.bytes * es.length
  | .space n _ => ((n.eval env pc).bind asmCount).getD 0
  | .elements t vs => (elementBytes t vs).length
  | .record r => r.size
  | .instr i _ => (encodeBytes i).length
  | .jump i _ => (encodeBytes i).length
  | .pseudo (.li d e) => match e.eval env pc with
    | some v => 4 * (expandLi d (BitVec.ofInt 64 v)).length
    | none => 24
  | .pseudo _ => 4
  | .level _ => 0 | .node _ => 0 | .label _ => 0 | .equ _ _ => 0 | .global _ => 0 | .select _ => 0 | .align _ => 0

/-- Whether a value may be the multiple of .align: a power of two up to 4,096. -/
def alignment (v : Int) : Option Nat :=
  if v ∈ ([1, 2, 4, 8, 16, 32, 64, 128, 256, 512, 1024, 2048, 4096] : List Int) then some v.toNat else none

/-- Whether a record is a launch, which takes levels; the other that takes parts is a graph. -/
def AsmRecord.isLaunch : AsmRecord → Bool
  | .launch _ _ => true
  | .graph _ => false | .trip _ => false | .pattern _ _ _ _ => false | .meeting _ => false | .barrier => false | .junction _ => false

/-- A .level or .node statement: its record is the latest of its kind, which must have room for it (R312). -/
def Asm.part (a : Asm) (mine : AsmRecord → Bool) (w : Option Nat) : Option Asm :=
  match w, a.opened.find? fun o => mine o.record with
  | some w, some o =>
    if o.record.room ≤ o.parts.length then none
    else some { a with opened := a.opened.map fun x => if x.no = o.no then { x with parts := x.parts ++ [w] } else x }
  | _, _ => none

/-- The launches and graphs get their levels and nodes, and their checks: an error names the line of the record. -/
def Asm.close (env : Symbols) (a : Asm) : List AsmOpen → Except Nat Asm
  | [] => .ok a
  | o :: t => match o.record.bytes env o.pc o.parts with
    | some bs => (a.patch o.sec o.off bs).close env t
    | none => .error o.no

/-- The statement on line `no`, `env` being what is known of the file's names; none is an error. A pass that is not `final` only finds
names. -/
def Asm.line (env : Symbols) (final : Bool) (a : Asm) (no : Nat) (l : AsmLine) : Option Asm :=
  let st := fun (al : Nat) (bytes : Int → Option (List Byte)) =>
    a.statement al (fun pc => l.length env pc) fun pc => if final then bytes pc else some (List.replicate (l.length env pc) 0)
  let code := fun (is : Int → Option (List Instr)) => if a.cur = .text then st 4 fun pc => (is pc).bind codeBytes? else none
  match l with
  | .label n =>
    if !identifier n || (a.defs.lookup n).isSome || a.waiting.contains n then none else some { a with waiting := a.waiting ++ [n] }
  | .equ n e => if a.waiting.contains n then none else match e.eval env a.here with
    | some v => a.define n v
    | none => if final then none else some a
  | .global n => some { a with globals := a.globals ++ [n] }
  | .select s => some { a with cur := s }
  | .align e => match (e.eval env a.here).bind alignment with
    | some n => some (a.align n)
    | none => if final then none else some a
  | .emit z es => st 1 fun pc =>
    (allSome (es.map fun e => (e.eval env pc).bind (inField (8 * z.bytes)))).map fun vs => vs.flatMap (toBytes z.bytes)
  | .space n e => st 1 fun pc => ((n.eval env pc).bind asmCount).bind fun n => (e.eval env pc).bind fun v =>
    (inField 8 v).map fun b => List.replicate n (BitVec.ofNat 8 b)
  | .elements t vs =>
    if t = .k8 ∨ t = .acc40 then none
    else (st 1 fun _ => some (elementBytes t vs)).map fun a =>
      if final then { a with warnings := a.warnings ++ (vs.flatMap (elementWarnings t)).map fun w => (no, w) } else a
  | .record r =>
    if r.room = 0 then st 64 fun pc => r.bytes env pc []
    else (st 64 fun pc => (r.word env pc []).map (toBytes r.size)).map fun b =>
      let from_ := b.here - (r.size : Int)
      let base := match b.secs.lookup b.cur with
        | some e => e.1
        | none => 0
      { b with opened := { no := no, sec := b.cur, off := (from_ - base).toNat, pc := from_, record := r } :: b.opened }
  | .level l => a.part (·.isLaunch) (if final then l.word env a.here else some 0)
  | .node ks => a.part (fun r => !r.isLaunch) (if final then nodeWord env a.here ks else some 0)
  | .instr i es => code fun pc =>
    if es.isEmpty then some [i] else (allSome (es.map fun e => e.eval env pc)).bind fun vs => (withImms vs i).map fun i => [i]
  | .jump i e => code fun pc => (e.eval env pc).bind fun t => (withTarget pc t i).map fun i => [i]
  | .pseudo p => code (p.expand env)

/-- All statements in order, each with the number of its line. An error names the line, and rejects the file (R309); labels that no
statement follows take the address at which the file ends. -/
def Asm.lines (env : Symbols) (final : Bool) (a : Asm) (last : Nat) : List (Nat × AsmLine) → Except Nat Asm
  | [] => match a.place a.waiting with
    | some a => .ok a
    | none => .error last
  | (no, l) :: t => match a.line env final no l with
    | some a => a.lines env final no t
    | none => .error no

/-- The line that keeps the names of a file from settling: the first whose length differs, else the first that defines a name with another
value. -/
def unsettledLine (before now : Symbols) (src : List (Nat × AsmLine)) : Nat :=
  let grows := src.find? fun e => e.2.length before 0 != e.2.length now 0
  let moves := src.find? fun e => match e.2 with
    | .equ n _ => before.lookup n != now.lookup n
    | .label n => before.lookup n != now.lookup n
    | _ => false
  match grows, moves with
  | some e, _ => e.1
  | none, some e => e.1
  | none, none => 0

/-- The names of a source file: found by going over it again until they no longer change. They settle in as many passes as it has lines, and
as many again each time that a statement's length changes; where `n` passes do not do, no values agree with the lengths that they give. -/
def sourceNames (start : Asm) (src : List (Nat × AsmLine)) : Nat → Symbols → Symbols → Except Nat Symbols
  | 0, before, env => .error (unsettledLine before env src)
  | n + 1, _, env => match start.lines env false 0 src with
    | .ok a => if a.defs = env then .ok env else sourceNames start src n env a.defs
    | .error e => .error e

/-- A source file assembled, with what the linker gives for each section's base; an error names its line. -/
def assemble (bases : List (AsmSection × Int)) (src : List (Nat × AsmLine)) : Except Nat Asm :=
  let start : Asm := { secs := bases.map fun b => (b.1, b.1.base b.2, []) }
  match sourceNames start src ((src.length + 2) * (2 * src.length + 2)) [] [] with
  | .ok env => match start.lines env true 0 src with
    | .ok a => a.close env a.opened
    | .error e => .error e
  | .error e => .error e

end Sys2Proof.Machine
end

