-- ==== Sys2Proof/Safety.lean ====
section
/-!
DEFINITION. The words that claims are stated in: well-formed memory and state, what an instruction finds when its own part begins, and
what it leaves unchanged.
-/
namespace Sys2Proof.Machine

/-! Well-formed states. -/

/-- The canonical form of memory: rising addresses, and no byte listed that holds what an unlisted address reads as. -/
def Memory.wf (m : List Host.Cell) : Bool := mcanon 0 m

/-- Memory and poison marks stand in their canonical forms. -/
def State.memWf (s : State) : Bool := Memory.wf s.mem && mcanon false s.poison

/-- The grid's canonical form: no row listed that is all zero, no cell listed that is zero. -/
def Core.gridWf (k : Core) : Bool := mcanon [] k.grid && k.grid.all fun e => mcanon 0 e.2

/-- A core whose grid, and the rows that its strips have kept, are in canonical form. -/
def Core.canonical (k : Core) : Bool :=
  k.gridWf && k.tracks.all fun e => e.2.strip.start.rows.all fun r => mcanon 0 r.2

/-- An image that holds a pool in canonical form, at offsets of the pool, and a canonical core. -/
def Image.canonical (g : Image) : Bool :=
  mcanon 0 g.pool && mcanon false g.poison && (g.pool.all fun e => decide (e.1 < 0x100000)) && (g.poison.all fun e => decide (e.1 < 0x4000))
    && g.core.canonical

/-- Memory, poison marks, every core's grid and every image, those of saves that are not complete too, are in canonical form, so that equal
contents are equal data. -/
def State.canonical (s : State) : Bool :=
  s.memWf && (s.cores.all fun e => e.2.canonical) && (s.images.all fun e => e.2.canonical)
    && s.clusters.all fun e => (e.2.images ++ e.2.paused).all fun g => g.image.all (·.canonical)

/-- A step that goes on: neither a fault nor a refusal. -/
def goesOn (o : Host.Outcome State Fault Refusal) : Bool :=
  match o with
  | .next _ => true
  | .fault _ => false
  | .refused _ => false

/-! What an instruction finds. -/

/-- The strip of the current track goes on with the next instruction: it neither stands alone nor waits to close (R67). -/
def State.steady (s : State) : Bool := !s.me.strip.alone && !s.me.strip.closing

/-- The state in which the own part of an instruction begins, where its track's strip closes without a trap or a wait and no record is
due at the boundary (R64, R67, R237); an instruction that does not close the strip begins in the strip as it is, and so does one that has
issued and waits. -/
def State.entered (s : State) (i : Instr) : Option State :=
  if (instrCloses i || !s.steady) && !s.me.goesOn i then
    match s.stripClose with
    | .done s' => if s'.boundary.isNone then some s'.openStrip else none
    | .ends _ => none
    | .goes _ => none
    | .trap _ _ => none
    | .held _ _ _ => none
    | .wait _ _ _ => none
    | .closeFirst => none
  else some s.openStrip

/-- What an instruction leaves that completes with the state `s` after its own part, having begun in `s0` (R463, R298, R292). -/
def State.completes (s0 : State) (i : Instr) (s : State) : State := (s.retire i s0.me.vl s0.me.pc true).endStep i s0.me.pc

/-- The same for an instruction that has set the pc itself. -/
def State.jumps (s0 : State) (i : Instr) (s : State) : State := (s.retire i s0.me.vl s0.me.pc false).endStep i s0.me.pc

/-! What is left unchanged. -/

/-- A track without what completing an instruction changes in it beside the pc: the strip, a wait, the notes for watchpoints and energy,
and a step's halt. -/
def Track.visible (t : Track) : Track :=
  { t with
      strip := {}, wait := none, touched := [], issuedAt := none, owed := none, bytes5 := 0
      stepping := false, haltReq := false, haltWhy := 0, stepRows := [] }

/-- A core without its tracks, its counters, and the debug block (which counts hits). -/
def Core.visible (k : Core) : Core := { k with tracks := [], energy := 0, evc := [], issued := [], dbg := [] }

/-- A die without its trace window's trigger. -/
def Die.visible (d : Die) : Die := { d with twtriggered := false, twleft := 0 }

/-- The package without its cores and dies, and without the requests that answer the instruction. -/
def State.visible (s : State) : State := { s with cores := [], dies := [], requests := [] }

/-- From `s` to `t` nothing has changed but the current track's registers, and what completing an instruction counts. -/
structure OnlyTrack (s t : State) : Prop where
  package : t.visible = s.visible
  bytes : ∀ a, t.byte a = s.byte a
  cores : ∀ c, (t.core c).visible = (s.core c).visible
  dies : ∀ d, (t.die d).visible = (s.die d).visible
  tracks : ∀ c n, (c, n) ≠ s.cur → t.track c n = s.track c n

/-- Buffered stores and pushes of an open strip are as they were. -/
def SameStores (s t : State) : Prop :=
  s.me.strip.isOpen = true → t.me.strip.buf = s.me.strip.buf ∧ t.me.strip.pushes = s.me.strip.pushes

/-! Effects named. -/

/-- An atomic's own effect at a checked local address (R205, R209): acquires, writes, puts its releases on the bytes, and writes xd,
at once or when LOAD_RESPONSE brings the value. -/
def atomicEffect (u : State) (pa n : Nat) (va : Word) (d : Reg) (o : MemOrder) (sc : Scope) (new : Nat) (f : Flags) : State :=
  let old := u.bytes pa n
  let acq := o = .acquire ∨ o = .acqRel
  let rel := o = .release ∨ o = .acqRel
  let u1 := u.syncRead (u.relsAt pa n) (decide acq) sc
  let u2 := ((u1.setBytes pa n new).addRels pa n (u1.relsOf (decide rel) sc)).newRegion
  ((u2.touch ⟨va, n, 0, true, true, 0⟩).writeBack d (BitVec.ofNat 64 old)).modMe fun t => t.raise f

/-- An atomic's own effect at another node, whose home has answered `old` (R209): acquires, puts its releases on the bytes, and writes xd. -/
def atomicAnswer (u : State) (pa n : Nat) (va : Word) (d : Reg) (o : MemOrder) (sc : Scope) (old : Nat) (f : Flags) : State :=
  let acq := o = .acquire ∨ o = .acqRel
  let rel := o = .release ∨ o = .acqRel
  let u1 := u.syncRead (u.relsAt pa n) (decide acq) sc
  let u2 := (u1.addRels pa n (u1.relsOf (decide rel) sc)).newRegion
  ((u2.touch ⟨va, n, 0, true, true, 0⟩).writeBack d (BitVec.ofNat 64 old)).modMe fun t => t.raise f

/-- The grid engine has room for one more of the track's commands that has not entered its rows (R461). -/
def State.gridRoom (s : State) : Bool := decide ((s.myCore.gq.filter fun c => c.track == s.cur.2 && !c.entered).length < 8)

/-- The command joins the grid engine's queue: it gets a number, comes after what the track has done, and runs beside what the track
does from now on (R461, R192). -/
def State.queued (s : State) (g : GridCmd) : State :=
  ({ s with nextId := s.nextId + 1 } : State).newTick.modMyCore fun k =>
    { k with gq := k.gq ++ [{ g with id := s.nextId, clock := s.who.released }] }

/-! How an instruction ends. -/

/-- The instruction completes, `n` bytes long, with one register written: `x d` becomes `v` (a write to x0 is discarded), the pc moves to
the next instruction, and nothing else changes but counters (R338). -/
def Sets (s : State) (i : Instr) (n : Word) (d : Reg) (v : Word) : Prop :=
  ∃ t, exec i s = .next t ∧ OnlyTrack s t ∧ SameStores s t ∧
    (∀ r, t.x r = if r = d ∧ r ≠ 0 then v else s.x r) ∧ t.me.visible = { s.me.visible with x := t.me.x, pc := s.me.pc + n }

/-- The same with flags raised in ARITH (R365). -/
def SetsWithFlags (s : State) (i : Instr) (d : Reg) (r : Word × Flags) : Prop :=
  ∃ t, exec i s = .next t ∧ OnlyTrack s t ∧ SameStores s t ∧ (∀ q, t.x q = if q = d ∧ q ≠ 0 then r.1 else s.x q) ∧
    t.me.visible = { s.me.visible with x := t.me.x, pc := s.me.pc + 4, arith := s.me.arith ||| r.2.toArith }

/-- The instruction completes with one mask register written; m0 discards writes (R54). -/
def SetsMask (s : State) (i : Instr) (d : MReg) (v : Mask128) : Prop :=
  ∃ t, exec i s = .next t ∧ OnlyTrack s t ∧ SameStores s t ∧
    (∀ r, t.mreg r = if r = d ∧ r ≠ 0 then v else s.mreg r) ∧ t.me.visible = { s.me.visible with m := t.me.m, pc := s.me.pc + 8 }

/-- The instruction completes with the pc set to `pc`, and `x d` to `v` where one is given. -/
def JumpsTo (s : State) (i : Instr) (pc : Word) (w : Option (Reg × Word)) : Prop :=
  ∃ t, exec i s = .next t ∧ OnlyTrack s t ∧ SameStores s t ∧
    (∀ r, t.x r = match w with
      | some (d, v) => if r = d ∧ r ≠ 0 then v else s.x r
      | none => s.x r) ∧ t.me.visible = { s.me.visible with x := t.me.x, pc := pc }

/-- The instruction completes: its own effect leaves `u`, then the pc moves on and counters count. -/
def Completes (s : State) (i : Instr) (u : State) : Prop := exec i s = .next (s.completes i u)

/-- The instruction completes with the pc that its own effect has set. -/
def Jumps (s : State) (i : Instr) (u : State) : Prop := exec i s = .next (s.jumps i u)

/-- The instruction raises a fault from `u`, the state its own part has left: a synchronous fault of R234. -/
def Faults (s : State) (i : Instr) (u : State) (c : Cause) (addr : Word) (elem : Nat) : Prop :=
  exec i s = .next (((u.modMe fun t => { t with wait := none, touched := [] }).syncFault
    { cause := c, addr := addr, elem := BitVec.ofNat 64 elem }).endStepWith [])

/-- The instruction waits (R55), having issued: it is charged for that, once (R279, R463). -/
def Waits (s : State) (i : Instr) (u : State) (k : WaitKind) (obj : Nat) : Prop :=
  exec i s = .next (u.park i s.me.vl s.me.pc k obj)

/-- Track `n` of core `c` waits in an instruction for reason `k`, and could go on (R55). -/
def State.waitsFor (s : State) (c n : Nat) (k : WaitKind) (w : Wait) : Prop :=
  (s.track c n).wait = some w ∧ w.kind = k ∧ (s.core c).frozen = false ∧ (s.track c n).halted = false ∧ (s.track c n).escalated = false

/-- The event ends the wait of track `n` of core `c`: its instruction completes, its own effect leaving `u`. -/
def Resumes (s : State) (event : Instr) (c n : Nat) (i : Instr) (u : State) : Prop :=
  exec event s = .next (State.completes { s with cur := (c, n) } i u)

/-- What instructions leave that are performed one after another, where each goes on. -/
def runAll : List Instr → State → Option State
  | [], s => some s
  | i :: t, s => match exec i s with
    | .next u => runAll t u
    | .fault _ => none
    | .refused _ => none

/-! Vector forms. -/

/-- Element `i` of a vector form's result (R428): none where `i` is inactive under `mk`, a source has no such element, or a grid
destination has none. -/
def resultElem (t : Track) (mk : MReg) (vd : View) (ed : Et) (srcs : List (Nat → Elem)) (f : Nat → Option (Nat × Flags)) (i : Nat) :
    Option (Nat × Flags) :=
  if i < 128 && t.active mk i && srcs.all (fun src => (src i).isOn) && ((viewStream vd).isSome || (viewCell t vd ed i).isSome) then f i
  else none

/-- Where the checks and waits of a vector form are passed, and its result `f` of the source elements can be written (no shadow is
missing, no push faults), the form completes: its streams popped, its result in the view, its flags in ARITH in element order. `extra`
says which elements it reads beside the active ones, `read` how its sources are read. -/
def VectorGives (s : State) (i : Instr) (vd : View) (ed : Et) (srcs : List (View × Et)) (mz : Bool) (mk : MReg) (extra : Nat → Bool)
    (read : Core → Nat → Track → View → Et → Nat → Elem) (f : (Nat → Nat → Elem) → Nat → Option (Nat × Flags)) : Prop :=
  ∀ u u' : State,
    let t := s.openStrip.me
    let src := fun (j i : Nat) => match srcs[j]? with
      | some v => read u.myCore u.cur.2 t v.1 v.2 i
      | none => .off
    let r := resultElem t mk vd ed ((List.range srcs.length).map src) (f src)
    s.openStrip.vectorReady srcs (some (vd, ed)) (fun i => t.active mk i || extra i) (fun i => t.active mk i || mz) = .ok () u →
    (u.popAll t.vl (popList srcs)).writeView vd ed mz (fun i => (r i).map (·.1)) = .ok () u' →
    Completes s i (u'.raiseAll ((List.range 128).filterMap fun i => (r i).map fun x => (i, x.2)))

end Sys2Proof.Machine
end

