-- ==== Sys2Proof/Certificates/Slice0/Obligations.lean ====
section
/-!
DEFINITION. The obligations: what the rules of the spec say an instruction or the machine does, as statements about `exec`, `step` and
the operations they share. Every number of a log entry that a docstring names is a row of notes/assumptions.
-/
section
open Sys2Proof Sys2Proof.Machine

/-! Integer instructions. -/

/-- R339, R418, R340, R392, R344, R404, R445: sums, differences and bitwise forms; every other register, mask, flag, special register,
byte of memory, track and unit is as it was. -/
def Obligations.SumsAndBitwiseForms : Prop :=
  ∀ (s : State), s.steady = true → ∀ (d a b : Reg) (i : BitVec 16),
    Sets s (.add d a b) 4 d (s.x a + s.x b) ∧ Sets s (.addi d a i) 4 d (s.x a + i.signExtend 64) ∧
    Sets s (.sub d a b) 4 d (s.x a - s.x b) ∧ Sets s (.adpc d i) 4 d (s.me.pc + i.signExtend 64 <<< 16) ∧
    Sets s (.lui d i) 4 d (i.signExtend 64 <<< 16) ∧
    Sets s (.and d a b) 4 d (s.x a &&& s.x b) ∧ Sets s (.andi d a i) 4 d (s.x a &&& i.zeroExtend 64) ∧
    Sets s (.or d a b) 4 d (s.x a ||| s.x b) ∧ Sets s (.ori d a i) 4 d (s.x a ||| i.zeroExtend 64) ∧
    Sets s (.xor d a b) 4 d (s.x a ^^^ s.x b) ∧ Sets s (.xori d a i) 4 d (s.x a ^^^ i.zeroExtend 64)

/-- R412, R413, R394, R410: shifts by the low six bits of the count, comparisons, minimum and maximum, and select. -/
def Obligations.ShiftsAndComparisons : Prop :=
  ∀ (s : State), s.steady = true → ∀ (d a b c : Reg) (i : BitVec 16) (n : Fin 64),
    Sets s (.shl d a b) 4 d (s.x a <<< ((s.x b).extractLsb 5 0).toNat) ∧ Sets s (.shli d a n) 4 d (s.x a <<< n.val) ∧
    Sets s (.shr d a b) 4 d (s.x a >>> ((s.x b).extractLsb 5 0).toNat) ∧ Sets s (.shri d a n) 4 d (s.x a >>> n.val) ∧
    Sets s (.sra d a b) 4 d ((s.x a).sshiftRight ((s.x b).extractLsb 5 0).toNat) ∧
    Sets s (.srai d a n) 4 d ((s.x a).sshiftRight n.val) ∧
    Sets s (.slt d a b) 4 d (if (s.x a).toInt < (s.x b).toInt then 1 else 0) ∧
    Sets s (.slti d a i) 4 d (if (s.x a).toInt < i.toInt then 1 else 0) ∧
    Sets s (.sltn d a b) 4 d (if (s.x a).toNat < (s.x b).toNat then 1 else 0) ∧
    Sets s (.sltni d a i) 4 d (if (s.x a).toNat < (i.signExtend 64).toNat then 1 else 0) ∧
    Sets s (.min d a b) 4 d (if (s.x a).toInt ≤ (s.x b).toInt then s.x a else s.x b) ∧
    Sets s (.max d a b) 4 d (if (s.x b).toInt ≤ (s.x a).toInt then s.x a else s.x b) ∧
    Sets s (.minn d a b) 4 d (if (s.x a).toNat ≤ (s.x b).toNat then s.x a else s.x b) ∧
    Sets s (.maxn d a b) 4 d (if (s.x b).toNat ≤ (s.x a).toNat then s.x a else s.x b) ∧
    Sets s (.sel d a b c) 4 d (if s.x c ≠ 0 then s.x a else s.x b)

/-- R401, R362, R407: products, quotients truncated toward zero and remainders, with the results for a zero divisor; the quotient of -2^63
by -1 wraps. -/
def Obligations.ProductsAndQuotients : Prop :=
  ∀ (s : State), s.steady = true → ∀ (d a b : Reg),
    Sets s (.mul d a b) 4 d (BitVec.ofInt 64 ((s.x a).toInt * (s.x b).toInt)) ∧
    Sets s (.mulh d a b) 4 d (BitVec.ofInt 64 ((s.x a).toInt * (s.x b).toInt / 2 ^ 64)) ∧
    Sets s (.mulhn d a b) 4 d (BitVec.ofNat 64 ((s.x a).toNat * (s.x b).toNat / 2 ^ 64)) ∧
    Sets s (.div d a b) 4 d (if s.x b = 0 then BitVec.allOnes 64 else (s.x a).sdiv (s.x b)) ∧
    Sets s (.divn d a b) 4 d (if s.x b = 0 then BitVec.allOnes 64 else s.x a / s.x b) ∧
    Sets s (.rem d a b) 4 d (if s.x b = 0 then s.x a else (s.x a).srem (s.x b)) ∧
    Sets s (.remn d a b) 4 d (if s.x b = 0 then s.x a else s.x a % s.x b)

/-- R355, R361, R405: CLZ, CTZ and POPC by what they count. R364: EXT and INS bit by bit, with p = xb<5:0> and w = min(xb<11:6> + 1, 64 -
p). -/
def Obligations.BitCountsAndFields : Prop :=
  (∀ (s : State), s.steady = true → ∀ (d a : Reg),
    (s.x a = 0 → Sets s (.clz d a) 4 d 64 ∧ Sets s (.ctz d a) 4 d 64) ∧
    (∀ n, n < 64 → (s.x a).getLsbD n = true → (∀ j, n < j → (s.x a).getLsbD j = false) →
      Sets s (.clz d a) 4 d (BitVec.ofNat 64 (63 - n))) ∧
    (∀ n, n < 64 → (s.x a).getLsbD n = true → (∀ j, j < n → (s.x a).getLsbD j = false) →
      Sets s (.ctz d a) 4 d (BitVec.ofNat 64 n)) ∧
    Sets s (.popc d a) 4 d (BitVec.ofNat 64 (((List.range 64).filter fun i => (s.x a).getLsbD i).length))) ∧
  (∀ (s : State), s.steady = true → ∀ (d a b : Reg),
    let p := ((s.x b).extractLsb 5 0).toNat
    let w := min (((s.x b).extractLsb 11 6).toNat + 1) (64 - p)
    (∃ v : Word, Sets s (.ext d a b) 4 d v ∧ ∀ i, i < 64 → v.getLsbD i =
      if i < w then (s.x a).getLsbD (p + i) else (s.x b).getLsbD 12 && (s.x a).getLsbD (p + w - 1)) ∧
    (∃ v : Word, Sets s (.ins d a b) 4 d v ∧ ∀ i, i < 64 → v.getLsbD i =
      if p ≤ i ∧ i < p + w then (s.x a).getLsbD (i - p) else (s.x d).getLsbD i))

/-- R393: the instructions that LI expands into, performed one after another, leave the value in xd (x0 stays 0), the pc after the last of
them, and nothing else changed but counters. -/
def Obligations.LoadImmediate : Prop :=
  ∀ (s : State) (d : Reg) (v : Word), s.steady = true →
    ∃ t, runAll (expandLi d v) s = some t ∧ OnlyTrack s t ∧ SameStores s t ∧
      (∀ r, t.x r = if r = d ∧ r ≠ 0 then v else s.x r) ∧
      t.me.visible = { s.me.visible with x := t.me.x, pc := s.me.pc + 4 * BitVec.ofNat 64 (expandLi d v).length }

/-! Branches and jumps. -/

/-- R349, R382: where branches and jumps go, and the link; a JALR to a misaligned target raises ALIGN with TADDR the target and leaves xd.
-/
def Obligations.BranchesAndJumps : Prop :=
  ∀ (s : State), s.steady = true → ∀ (d a b : Reg) (off : BitVec 16) (off21 : BitVec 21),
    let goal : Bool → Word := fun c => if c then s.me.pc + 4 * off.signExtend 64 else s.me.pc + 4
    JumpsTo s (.beq a b off) (goal (s.x a == s.x b)) none ∧
    JumpsTo s (.bne a b off) (goal (s.x a != s.x b)) none ∧
    JumpsTo s (.blt a b off) (goal (decide ((s.x a).toInt < (s.x b).toInt))) none ∧
    JumpsTo s (.bge a b off) (goal (decide ((s.x b).toInt ≤ (s.x a).toInt))) none ∧
    JumpsTo s (.bltn a b off) (goal (decide ((s.x a).toNat < (s.x b).toNat))) none ∧
    JumpsTo s (.bgen a b off) (goal (decide ((s.x b).toNat ≤ (s.x a).toNat))) none ∧
    JumpsTo s (.jal d off21) (s.me.pc + 4 * off21.signExtend 64) (some (d, s.me.pc + 4)) ∧
    (let t := s.x a + off.signExtend 64
     (t.toNat % 4 = 0 → JumpsTo s (.jalr d a off) t (some (d, s.me.pc + 4))) ∧
     (t.toNat % 4 ≠ 0 → Faults s (.jalr d a off) s.openStrip .align t 0))

/-! Scalar floating point. -/

/-- R365, R366: the exact result of each form rounded once in the precision, its flags ORed into ARITH. `ctx` is the rounding mode in
force and, under SR, the draw of index SBASE (R112, R120). R368: FCMP's conditions, false of a NaN but for UN, and FCLASS's nine classes,
one bit for each; neither raises a flag. R367: FCVT between the precisions and to and from integers; an INT32 result is sign-extended, a
UINT32 result zero-extended. The exact results are R117's; the model's own choice, which no rule fixes, is how it holds a quotient and a
square root before they are rounded (`numDiv`, `numSqrt`): log entry 4. -/
def Obligations.ScalarFloat : Prop :=
  (∀ (s : State), s.steady = true → ∀ (p : Prec) (d a b : Reg) (rm : Rounding),
    let ctx := rctx rm s.me.arith s.me.srseed s.me.sbase
    let fmt : FloatFmt := match p with
      | .f32 => .fp32
      | .f64 => .fp64
    let val : Reg → Machine.Num := fun r => fmt.value ((s.x r).toNat % 2 ^ fmt.width)
    let rounded : Machine.Num × Flags → Word × Flags := fun v =>
      (BitVec.ofNat 64 (roundFloat ctx fmt false v.1).1, v.2.or (roundFloat ctx fmt false v.1).2)
    let exact : Machine.Num → Word × Flags := fun v => (BitVec.ofNat 64 (roundFloat .rne fmt false v).1, {})
    SetsWithFlags s (.fadd p d a b rm) d (rounded (numAdd (ctx.rm == .rdn) (val a) (val b))) ∧
    SetsWithFlags s (.fsub p d a b rm) d (rounded (numAdd (ctx.rm == .rdn) (val a) (val b).negate)) ∧
    SetsWithFlags s (.fmul p d a b rm) d (rounded (numMul (val a) (val b))) ∧
    SetsWithFlags s (.fma p d a b rm) d (rounded (numFma (ctx.rm == .rdn) (val a) (val b) (val d))) ∧
    SetsWithFlags s (.fdiv p d a b rm) d (rounded (numDiv (val a) (val b))) ∧
    SetsWithFlags s (.fsqrt p d a rm) d (rounded (numSqrt (val a))) ∧
    SetsWithFlags s (.fmin p d a b) d (exact (numMin (val a) (val b))) ∧
    SetsWithFlags s (.fmax p d a b) d (exact (numMax (val a) (val b)))) ∧
  (∀ (s : State), s.steady = true → ∀ (p : Prec) (d a b : Reg),
    let fmt : FloatFmt := match p with
      | .f32 => .fp32
      | .f64 => .fp64
    let val : Reg → Machine.Num := fun r => fmt.value ((s.x r).toNat % 2 ^ fmt.width)
    let nan := (val a).isNan || (val b).isNan
    let bit : Bool → Word × Flags := fun c => (if c then 1 else 0, {})
    SetsWithFlags s (.fcmp p .eq d a b) d (bit (!nan && numEq (val a) (val b))) ∧
    SetsWithFlags s (.fcmp p .lt d a b) d (bit (!nan && numLt (val a) (val b))) ∧
    SetsWithFlags s (.fcmp p .le d a b) d (bit (!nan && (numLt (val a) (val b) || numEq (val a) (val b)))) ∧
    SetsWithFlags s (.fcmp p .un d a b) d (bit nan) ∧
    let w := (s.x a).toNat % 2 ^ fmt.width
    let fraction := match p with
      | .f32 => 23
      | .f64 => 52
    let negative := decide (w / 2 ^ (fmt.width - 1) = 1)
    let exponent := w / 2 ^ fraction % 2 ^ (fmt.width - 1 - fraction)
    let m := w % 2 ^ fraction
    let class_ := if exponent = 2 ^ (fmt.width - 1 - fraction) - 1 then (if m ≠ 0 then 8 else if negative then 0 else 7)
      else if exponent ≠ 0 then (if negative then 1 else 6)
      else if m ≠ 0 then (if negative then 2 else 5)
      else if negative then 3 else 4
    SetsWithFlags s (.fclass p d a) d (BitVec.ofNat 64 (2 ^ class_), {})) ∧
  (∀ (s : State), s.steady = true → ∀ (p : Prec) (d a : Reg) (rm : Rounding),
    let ctx := rctx rm s.me.arith s.me.srseed s.me.sbase
    let fmt : FloatFmt := match p with
      | .f32 => .fp32
      | .f64 => .fp64
    let other : FloatFmt := match p with
      | .f32 => .fp64
      | .f64 => .fp32
    let v := fmt.value ((s.x a).toNat % 2 ^ fmt.width)
    let int : Nat → Bool → Nat × Flags := fun bits signed => roundInt ctx bits signed true v
    let float : FloatFmt → Machine.Num → Word × Flags := fun f x => (BitVec.ofNat 64 (roundFloat ctx f false x).1, (roundFloat ctx f false x).2)
    SetsWithFlags s (.fcvt p .otherFloat d a rm) d (float other v) ∧
    SetsWithFlags s (.fcvt p .toInt32 d a rm) d ((BitVec.ofNat 32 (int 32 true).1).signExtend 64, (int 32 true).2) ∧
    SetsWithFlags s (.fcvt p .toInt64 d a rm) d (BitVec.ofNat 64 (int 64 true).1, (int 64 true).2) ∧
    SetsWithFlags s (.fcvt p .toUint32 d a rm) d ((BitVec.ofNat 32 (int 32 false).1).zeroExtend 64, (int 32 false).2) ∧
    SetsWithFlags s (.fcvt p .toUint64 d a rm) d (BitVec.ofNat 64 (int 64 false).1, (int 64 false).2) ∧
    SetsWithFlags s (.fcvt p .fromInt64 d a rm) d (float fmt (.ofInt (s.x a).toInt)) ∧
    SetsWithFlags s (.fcvt p .fromUint64 d a rm) d (float fmt (.ofInt (s.x a).toNat)))

/-! Loads, stores, atomics and fences. `s.access s.who` is the check of one access (R186) at an address computed here: ALIGN, the window
or translation, marked lines, the link, POISON, the waits, and RACE. -/

/-- R390, R391, R320: LD reads at xa + sext(imm13), the track's own buffered bytes first, and extends the value as sz says; where the data
comes back later, which it may while fewer than 512 requests of the core are outstanding (R250), the register is written then and the load is
pending; a place at another node gives what its home has answered, and
until it answers the track waits; an access that faults is LD's fault, and one that waits is LD's wait. The model's own readings in it,
which no rule fixes: log entries 2, 8. -/
def Obligations.Loads : Prop :=
  ∀ (s : State), s.steady = true → ∀ (z : LdSize) (d a : Reg) (imm : BitVec 13),
    let va := s.x a + imm.signExtend 64
    let n := match z with
      | .s8 => 1 | .n8 => 1 | .s16 => 2 | .n16 => 2 | .s32 => 4 | .n32 => 4 | .d64 => 8
    let signed := match z with
      | .s8 => true | .s16 => true | .s32 => true | .d64 => true | .n8 => false | .n16 => false | .n32 => false
    let s0 := s.openStrip
    let gives := fun (u : State) (value : Nat) =>
      let raw := BitVec.ofNat (8 * n) value
      let v : Word := if signed then raw.signExtend 64 else raw.setWidth 64
      let u' := u.touch ⟨va, n, 0, true, false, 8 * n⟩
      let late := u.slow = true ∧ u.requestRoom u.cur.1 = true
      (¬late → Completes s (.ld z d a imm) (u'.setX d v)) ∧
      (late → Completes s (.ld z d a imm)
        (({ u' with nextId := u.nextId + 1 } : State).modMe fun t =>
          { t with pending := t.pending ++ [{ id := u.nextId, reg := d, value := v, pc := u.me.pc, level := u.me.level }] }))
    (∀ (pa : Nat) (u : State), s0.access s0.who va.toNat n .read true = .ok pa u →
      ((∀ k o, area pa ≠ .remote k o) → gives u (u.ownBytes pa n)) ∧
      ((∃ k o, area pa = .remote k o) →
        (∀ b v, u.ask u.cur.1 u.cur.2 pa 1 (toBytes 2 n) = (some b, v) → gives v (v.ownOver pa (ofBytes b) n)) ∧
        (∀ v, u.ask u.cur.1 u.cur.2 pa 1 (toBytes 2 n) = (none, v) → Waits s (.ld z d a imm) (v.atElem 0) .remote 0))) ∧
    (∀ (k : WaitKind) (u : State), s0.access s0.who va.toNat n .read true = .wait k u → Waits s (.ld z d a imm) (u.atElem 0) k 0) ∧
    (∀ (c : Cause) (u : State), s0.access s0.who va.toNat n .read true = .fault c u → Faults s (.ld z d a imm) u c va 0)

/-- R415, R66: ST checks its access and puts xs<8n-1:0> in the strip store buffer; the store itself changes no byte of memory. R66, R67: a
store that finds no room in the buffer closes the strip, and goes to the buffer of the next one. R66: bytes in the strip store buffer are
read before memory's: after a store of `n` bytes is buffered the track reads them, and other bytes as before. R70: StripClose performs the
buffered stores and pushes: a byte of this package that one of them writes whole, and no other writes, holds its data, and a byte that
none of them writes is as before. An access that faults is ST's fault. The model's own readings in it, which no rule fixes: log entry 8. -/
def Obligations.Stores : Prop :=
  (∀ (s : State), s.steady = true → ∀ (z : Size) (b a : Reg) (imm : BitVec 13),
    let va := s.x a + imm.signExtend 64
    let n := match z with
      | .b1 => 1 | .b2 => 2 | .b4 => 4 | .b8 => 8
    let s0 := s.openStrip
    let buffered := fun (pa : Nat) (u : State) =>
      bufferAll (u.roomTaken - u.me.strip.buf.length) (byteList (span pa n) (s.x b).toNat) u.me.strip.buf
    let stores := fun (u : State) (buf : List Granule) => ∃ t, exec (.st z b a imm) s = .next t ∧ t.me.strip.buf = buf ∧
      t.me.strip.pushes = u.me.strip.pushes ∧ (∀ q, t.byte q = u.byte q) ∧ t.me.visible = { u.me.visible with pc := s.me.pc + 4 }
    (∀ (pa : Nat) (u : State) (buf : List Granule), s0.access s0.who va.toNat n .write true = .ok pa u → buffered pa u = some buf →
      stores u buf) ∧
    (∀ (pa pa' : Nat) (u v u' : State) (buf : List Granule), s0.access s0.who va.toNat n .write true = .ok pa u → buffered pa u = none →
      s0.stripClose = .done v → v.boundary = none →
      v.openStrip.access v.openStrip.who va.toNat n .write true = .ok pa' u' → buffered pa' u' = some buf → stores u' buf) ∧
    (∀ (k : WaitKind) (u : State), s0.access s0.who va.toNat n .write true = .wait k u → Waits s (.st z b a imm) (u.atElem 0) k 0) ∧
    (∀ (c : Cause) (u : State), s0.access s0.who va.toNat n .write true = .fault c u → Faults s (.st z b a imm) u c va 0)) ∧
  (∀ (s : State) (others pa n v : Nat) (buf : List Granule),
    bufferAll others (byteList (span pa n) v) s.me.strip.buf = some buf →
    let t := s.modMe fun t => { t with strip := { t.strip with buf := buf } }
    t.ownBytes pa n = v % 256 ^ n ∧ ∀ q, (q < pa ∨ pa + n ≤ q) → t.ownBytes q 1 = s.ownBytes q 1) ∧
  (∀ (s t : State), s.memWf = true → s.stripClose = .done t → s.me.strip.isOpen = true →
    let l := s.me.strip.buf ++ s.me.strip.pushes
    let writes := fun (g : Granule) (i a : Nat) => i < 8 ∧ s.loc (g.pa + i) = s.loc a ∧ g.mask.toNat / 2 ^ (8 * i) % 256 ≠ 0
    (∀ g i, g ∈ l → (∀ k o, area g.pa ≠ .remote k o) → g.mask.toNat / 2 ^ (8 * i) % 256 = 255 →
      (∀ g' j, g' ∈ l → writes g' j (g.pa + i) → g' = g ∧ j = i) → i < 8 → t.byte (g.pa + i) = BitVec.ofNat 8 (g.data.toNat / 2 ^ (8 * i))) ∧
    ∀ a, (∀ g i, g ∈ l → ¬writes g i a) → t.byte a = s.byte a)

/-- R354, R422 to R424: CFLUSH of a window or of a line not behind a CXL port completes at once, and of one behind a port waits for its
device; TLBINV is supervisor-only and takes the selected translations out of every cache; it waits for the buffered stores of other tracks that have
used one of them, and completes once none is left;
TRACE.MARK offers xa to the trace port. R406: PREF does nothing that an agent sees. The model's own readings in it, which no rule fixes:
log entries 29, 30, 33, 46. -/
def Obligations.CachesAndMarks : Prop :=
  (∀ (s s1 : State) (a b : Reg) (m : TlbMode),
    (s.entered (.cflush a) = some s1 →
      (windowOf (s1.x a).toNat ≠ none → Completes s (.cflush a) s1) ∧
      (windowOf (s1.x a).toNat = none → s1.walkHeld s1.who (s1.x a).toNat .read = true → Waits s (.cflush a) s1 .remote 0) ∧
      ∀ pa u, windowOf (s1.x a).toNat = none → s1.walkHeld s1.who (s1.x a).toNat .read = false → s1.find s1.who (s1.x a).toNat .read = .ok pa u →
        ((∀ p o, area pa ≠ .cxl p o) → Completes s (.cflush a) u) ∧
        (∀ p o, area pa = .cxl p o → u.linkDown pa = false → Waits s (.cflush a) u .cflush (pa / 64))) ∧
    (s.entered (.tlbinv a b m) = some s1 →
      (s1.me.super = false → Faults s (.tlbinv a b m) s1 .priv 0 0) ∧
      let id := s1.cur.1 * 4 + s1.cur.2
      let sel := tlbSelects m (s1.x a).toNat (fld (s1.x b) 31 0)
      let note := fun (c n : Nat) (g : StoreNote) => ∃ k t a, (c, k) ∈ s1.cores ∧ (n, t) ∈ k.tracks ∧ (a, g) ∈ t.strip.notes ++ t.leftNotes
      let removed := fun (t : State) => (∀ q, t.byte q = s1.byte q) ∧
        (∀ c e, e ∈ (t.core c).tlb ↔ e ∈ (s1.core c).tlb ∧ sel true e = false) ∧
        (∀ c e, e ∈ (t.cluster c).tlb ↔ e ∈ (s1.cluster c).tlb ∧ sel true e = false) ∧
        (∀ d e, e ∈ (t.die d).walks ↔ e ∈ (s1.die d).walks ∧ sel false e = false)
      (s1.me.super = true → s1.me.hasIssued = false →
        ((∀ c n g, note c n g → g.uses.any (sel true) = false ∧ g.removals.contains id = false) →
          ∃ t, exec (.tlbinv a b m) s = .next t ∧ t.me.visible = { s1.me.visible with pc := s.me.pc + 4 } ∧ removed t) ∧
        ((∃ c n g, (c, n) ≠ s1.cur ∧ note c n g ∧ g.uses.any (sel true) = true) →
          ∃ t u, exec (.tlbinv a b m) s = .next t ∧ Waits s (.tlbinv a b m) u .tlb 0 ∧ t.me.pc = s1.me.pc ∧ removed t)) ∧
      (s1.me.super = true → s1.me.hasIssued = true →
        ((∀ c n g, (c, n) ≠ s1.cur → note c n g → g.removals.contains id = false) → Completes s (.tlbinv a b m) s1) ∧
        ((∃ c n g, (c, n) ≠ s1.cur ∧ note c n g ∧ g.removals.contains id = true) → Waits s (.tlbinv a b m) s1 .tlb 0))) ∧
    (s.entered (.traceMark a) = some s1 → Completes s (.traceMark a)
      (s1.emit (s1.cur.1 / 128) 0x18 0 s1.cur.1 s1.me.ctxid (s1.x a)))) ∧
  (∀ (s : State), s.steady = true → ∀ (w : Bool) (a : Reg) (imm : BitVec 13),
    ∃ t, exec (.pref w a imm) s = .next t ∧ OnlyTrack s t ∧ SameStores s t ∧
      t.me.visible = { s.me.visible with pc := s.me.pc + 4 })

/-- R208, R209: each AMO writes its new value of the old one and xb, and gives the old value to xd. R208, R209: AMO.FADD rounds the exact
sum once under RNE and ORs its flags into ARITH. R209, R351: CAS writes xb where the old value equals xd, and the old value again where it
does not. R209: an atomic on a place of another node gives what its home has answered, with the edges of its order and scope, and waits
until it answers; an access that faults is the atomic's fault, and one that waits its wait. The model's own readings in it, which no rule
fixes: log entries 8, 58. -/
def Obligations.Atomics : Prop :=
  (∀ (s s1 u : State) (d a b : Reg) (o : MemOrder) (sc : Scope) (z : Size) (i : Instr) (pa : Nat),
    let n := match z with
      | .b1 => 1 | .b2 => 2 | .b4 => 4 | .b8 => 8
    s.entered i = some s1 → s1.atomicCheck (s1.x a).toNat n 0 = .ok pa u → (∀ k o, area pa ≠ .remote k o) →
    let w := 8 * n
    let v := (s1.x b).toNat % 2 ^ w
    let old := u.bytes pa n
    let e := fun (new : Nat) => atomicEffect u pa n (s1.x a) d o sc new {}
    (i = .amoSwap d a b o sc z → Completes s i (e v)) ∧
    (i = .amoAdd d a b o sc z → Completes s i (e ((old + v) % 2 ^ w))) ∧
    (i = .amoAnd d a b o sc z → Completes s i (e (old &&& v))) ∧
    (i = .amoOr d a b o sc z → Completes s i (e (old ||| v))) ∧
    (i = .amoXor d a b o sc z → Completes s i (e (old ^^^ v))) ∧
    (i = .amoMin d a b o sc z → Completes s i (e (if sInt w v < sInt w old then v else old))) ∧
    (i = .amoMax d a b o sc z → Completes s i (e (if sInt w old < sInt w v then v else old))) ∧
    (i = .amoMinn d a b o sc z → Completes s i (e (if v < old then v else old))) ∧
    (i = .amoMaxn d a b o sc z → Completes s i (e (if old < v then v else old)))) ∧
  (∀ (s s1 u : State) (d a b : Reg) (o : MemOrder) (sc : Scope) (p : Prec) (pa : Nat),
    let n := match p with
      | .f32 => 4
      | .f64 => 8
    let fmt : FloatFmt := match p with
      | .f32 => .fp32
      | .f64 => .fp64
    s.entered (.amoFadd d a b o sc p) = some s1 → s1.atomicCheck (s1.x a).toNat n 0 = .ok pa u → (∀ k o, area pa ≠ .remote k o) →
    let sum := numAdd false (fmt.value (u.bytes pa n)) (fmt.value ((s1.x b).toNat % 2 ^ (8 * n)))
    let r := roundFloat .rne fmt false sum.1
    Completes s (.amoFadd d a b o sc p) (atomicEffect u pa n (s1.x a) d o sc r.1 (sum.2.or r.2))) ∧
  (∀ (s s1 u : State) (d a b : Reg) (o : MemOrder) (sc : Scope) (z : Size) (pa : Nat),
    let n := match z with
      | .b1 => 1 | .b2 => 2 | .b4 => 4 | .b8 => 8
    s.entered (.cas d a b o sc z) = some s1 → s1.atomicCheck (s1.x a).toNat n 0 = .ok pa u → (∀ k o, area pa ≠ .remote k o) →
    let old := u.bytes pa n
    Completes s (.cas d a b o sc z) (atomicEffect u pa n (s1.x a) d o sc
      (if old = (s1.x d).toNat % 2 ^ (8 * n) then (s1.x b).toNat % 2 ^ (8 * n) else old) {})) ∧
  (∀ (s s1 : State) (d a b : Reg) (o : MemOrder) (sc : Scope) (z : Size) (p : Prec) (i : Instr) (n code cmp : Nat),
    let nz := match z with
      | .b1 => 1 | .b2 => 2 | .b4 => 4 | .b8 => 8
    let np := match p with
      | .f32 => 4
      | .f64 => 8
    (i, n, code, cmp) ∈ [(Instr.amoSwap d a b o sc z, nz, 0, 0), (.amoAdd d a b o sc z, nz, 1, 0), (.amoAnd d a b o sc z, nz, 2, 0),
      (.amoOr d a b o sc z, nz, 3, 0), (.amoXor d a b o sc z, nz, 4, 0), (.amoMin d a b o sc z, nz, 5, 0), (.amoMax d a b o sc z, nz, 6, 0),
      (.amoMinn d a b o sc z, nz, 7, 0), (.amoMaxn d a b o sc z, nz, 8, 0), (.amoFadd d a b o sc p, np, 9, 0),
      (.cas d a b o sc z, nz, 15, (s1.x d).toNat % 2 ^ (8 * nz))] →
    s.entered i = some s1 →
    (∀ pa u, s1.atomicCheck (s1.x a).toNat n 0 = .ok pa u → (∃ k q, area pa = .remote k q) →
      let wire := toBytes 1 code ++ toBytes 1 n ++ toBytes 8 ((s1.x b).toNat % 2 ^ (8 * n)) ++ toBytes 8 cmp
      let fmt : FloatFmt := match p with
        | .f32 => .fp32
        | .f64 => .fp64
      let sum := fun (w : Nat) => numAdd false (fmt.value w) (fmt.value ((s1.x b).toNat % 2 ^ (8 * n)))
      let flags := fun (w : Nat) => if code = 9 then (sum w).2.or (roundFloat .rne fmt false (sum w).1).2 else ({} : Flags)
      (∀ w v, u.ask u.cur.1 u.cur.2 pa 5 wire = (some w, v) →
        let old := ofBytes w % 2 ^ (8 * n)
        Completes s i (atomicAnswer v pa n (s1.x a) d o sc old (flags old))) ∧
      (∀ v, u.ask u.cur.1 u.cur.2 pa 5 wire = (none, v) → Waits s i v .remote 0)) ∧
    (∀ c u, s1.access s1.who (s1.x a).toNat n .rmw false = .fault c u → Faults s i u c (s1.x a) 0) ∧
    ∀ k u, s1.access s1.who (s1.x a).toNat n .rmw false = .wait k u → Waits s i (u.atElem 0) k 0)

/-- R190, R369: an acquire fence learns what the releases its track has read release to it at its scope; a release fence is what the
track's later sync writes carry, beside those of earlier release fences at wider scopes, and begins a new region. The model's own readings in it, which no rule fixes: log entry 8. -/
def Obligations.Fences : Prop :=
  ∀ (s s1 : State) (o : FenceOrder) (sc : Scope), s.entered (.fence o sc) = some s1 →
    let learn := fun (u : State) => u.modMe fun t => { t with clock := t.clock.join (acquired (.core u.cur.1) sc u.me.pendAcq) }
    let release := fun (u : State) =>
      let u' := u.modMe fun t => { t with fenceRel := (sc, u.who.released) :: t.fenceRel.filter fun f => sc.code < f.1.code }
      u'.modMe fun t => { t with clock := mput (u.cur.1 * 4 + u.cur.2) u'.who.epoch t.clock }
    (o = .acquire → Completes s (.fence o sc) (learn s1)) ∧ (o = .release → Completes s (.fence o sc) (release s1)) ∧
    (o = .acqRel → Completes s (.fence o sc) (release (learn s1)))

/-! System registers, exceptions and the return from them. -/

/-- R419, R331: SYSRD of each register gives its value, in user mode for the numbers below 0x100 and in supervisor mode for all; it closes
no strip and changes nothing else. R231, R331, R419, R420: in user mode, reading a trap register raises PRIV with TADDR its number; so does
writing one, and writing ENERGY. R420, R6, R113, R198, R231: SYSWR of each register, where it is permitted and the value has no reserved
bit: RW fields take xa, W1C bits clear where xa has a 1, RO fields are unchanged; a reserved bit, a reserved rounding mode or event code
raises ILLEGAL and writes nothing. A trap register of a level is its frame's too (log entry 7). -/
def Obligations.SystemRegisters : Prop :=
  (∀ (s : State), s.steady = true → ∀ (d : Reg),
    let t := s.me
    let k := s.myCore
    let gets := fun (n : Fin 4096) (v : Word) => Sets s (.sysrd d n) 4 d v
    let w := fun (n : Nat) => BitVec.ofNat 64 n
    gets 0x000 (w (t.tripid % 2 ^ 32)) ∧ gets 0x001 t.levelidx ∧ gets 0x002 (w t.ctxid) ∧ gets 0x003 (w s.cur.1) ∧
    gets 0x004 (w t.prio) ∧ gets 0x010 (w t.vl) ∧ gets 0x011 (w t.vlmax) ∧ gets 0x012 t.sbase ∧ gets 0x013 t.srseed ∧
    gets 0x014 t.arith ∧ gets 0x015 (w (k.lane % 2 ^ 32 + t.held * 2 ^ 32)) ∧ gets 0x016 (w t.gridown) ∧ gets 0x017 (w t.fq.length) ∧
    (∀ q : Q8, gets (Fin.ofNat 4096 (0x20 + q.val)) (s.mile s.cur.1 q.val)) ∧ gets 0x030 (s.raceReg t.ctxid) ∧
    gets 0x031 (w k.energy) ∧ gets 0x032 (w (s.time - k.stopped)) ∧ gets 0x033 (w s.time) ∧
    (∀ e : Fin 16, gets (Fin.ofNat 4096 (0x40 + e.val)) (mget 0 e.val k.evc)) ∧
    (t.super = true →
      gets 0x100 t.tcause ∧ gets 0x101 t.taddr ∧ gets 0x102 t.tepc ∧ gets 0x103 t.tfpc ∧ gets 0x104 t.telem ∧
      gets 0x105 (w (t.level + 32 * t.acked.toNat + 64 * t.pmode.toNat)) ∧ gets 0x106 (t.tvec &&& ~~~3#64) ∧
      gets 0x107 (t.tstack &&& ~~~63#64) ∧ ∀ j : Fin 8, gets (Fin.ofNat 4096 (0x108 + j.val)) (t.tsave.getD j.val 0))) ∧
  (∀ (s s1 : State) (r : Reg) (n : Fin 4096), s.me.super = false →
    (s.steady = true → 0x100 ≤ n.val → Faults s (.sysrd r n) s.openStrip .priv (BitVec.ofNat 64 n.val) 0) ∧
    (s.entered (.syswr n r) = some s1 → (0x100 ≤ n.val ∨ n.val = 0x31) →
      Faults s (.syswr n r) s1 .priv (BitVec.ofNat 64 n.val) 0)) ∧
  (∀ (s s1 : State) (n : Fin 4096) (a : Reg), s.entered (.syswr n a) = some s1 →
    let v := s1.x a
    let permitted := s1.me.super = true ∨ (n.val < 0x100 ∧ n.val ≠ 0x31)
    let readOnly : List (Nat × Word) := [(0x000, 0xFFFFFFFF00000000), (0x001, 0), (0x002, 0xFFFFFFFF00000000), (0x003, 0xFFFFFFFFFFFFFE00),
      (0x004, 0xFFFFFFFFFFFFFFFC), (0x010, 0xFFFFFFFFFFFFFF00), (0x011, 0xFFFFFFFFFFFFFF00), (0x015, 0xFFFFFFF000000000),
      (0x016, 0xFFFFFFFFFF0080F0), (0x017, 0xFFFFFFFFFFFFFFF0), (0x032, 0), (0x033, 0), (0x105, 0xFFFFFFFFFFFFFF80)] ++
      ((List.range 8).map fun j => (0x020 + j, 0)) ++ (List.range 8).map fun j => (0x108 + j, 0)
    let writable : List (Nat × Word) := [(0x014, 0xFFFFFFFF0000CC08), (0x030, 0x0000FFFE00000000), (0x031, 0xFFFF000000000000),
      (0x100, 0xFFFFFFFFFFFFF000), (0x106, 3), (0x107, 63)] ++ (List.range 16).map fun j => (0x040 + j, 0xFE00000000000000)
    let sets := fun (f : Track → Track) => Completes s (.syswr n a) (s1.modMe f)
    let frame := fun (f : Frame → Frame) (t : Track) => if 1 ≤ t.level then { t with frames := mupd {} t.level f t.frames } else t
    (n.val = 0x12 → sets fun t => { t with sbase := v }) ∧
    (n.val = 0x13 → sets fun t => { t with srseed := v }) ∧
    (∀ r, permitted → (n.val, r) ∈ readOnly → v &&& r = 0 → Completes s (.syswr n a) s1) ∧
    (∀ r, permitted → (n.val, r) ∈ readOnly ++ writable → v &&& r ≠ 0 → Faults s (.syswr n a) s1 .illegal 0 0) ∧
    (n.val = 0x14 → v &&& 0xFFFFFFFF0000CC08#64 = 0 → v.toNat % 8 < 6 → sets fun t => { t with arith := v }) ∧
    (n.val = 0x14 → 6 ≤ v.toNat % 8 → Faults s (.syswr n a) s1 .illegal 0 0) ∧
    (n.val = 0x30 → v &&& 0x0000FFFE00000000#64 = 0 →
      let old := s1.raceReg s1.me.ctxid
      Completes s (.syswr n a) { s1 with
        racestat := mput s1.me.ctxid (old &&& 0xFFFFFFFE00000000#64 ||| v &&& 0xFFFFFFFF#64 ||| old &&& ~~~v &&& 0x100000000#64) s1.racestat }) ∧
    (∀ e, e < 16 → n.val = 0x40 + e →
      let code := v.toNat / 2 ^ 48 % 256
      let known := code ≤ 4 ∨ (0x10 ≤ code ∧ code ≤ 0x26)
      let old := mget 0 e s1.myCore.evc
      (¬known → Faults s (.syswr n a) s1 .illegal 0 0) ∧
      let new := old &&& 0xFE00000000000000#64 ||| v &&& 0xFFFFFFFFFFFFFF#64 ||| old &&& ~~~v &&& 0x100000000000000#64
      (v &&& 0xFE00000000000000#64 = 0 → known →
        Completes s (.syswr n a) (s1.modMyCore fun k => { k with evc := mput e new k.evc }))) ∧
    (n.val = 0x31 → s1.me.super = true → v.toNat < 2 ^ 48 →
      Completes s (.syswr n a) (s1.modMyCore fun k => { k with energy := v.toNat })) ∧
    (s1.me.super = true →
      (n.val = 0x100 → v.toNat < 2 ^ 12 → sets fun t => frame (fun f => { f with tcause := v }) { t with tcause := v }) ∧
      (n.val = 0x101 → sets fun t => frame (fun f => { f with taddr := v }) { t with taddr := v }) ∧
      (n.val = 0x102 → sets fun t => frame (fun f => { f with tepc := v }) { t with tepc := v }) ∧
      (n.val = 0x103 → sets fun t => frame (fun f => { f with tfpc := v }) { t with tfpc := v }) ∧
      (n.val = 0x104 → sets fun t => frame (fun f => { f with telem := v }) { t with telem := v }) ∧
      (n.val = 0x106 → v.toNat % 4 = 0 → sets fun t => { t with tvec := v }) ∧
      (n.val = 0x107 → v.toNat % 64 = 0 → sets fun t => { t with tstack := v })))

/-- R234: Fault of a synchronous fault where it does not escalate: the strip's checkpoint is restored and its stores dropped, TEPC is the
strip's first instruction and TFPC the faulting one, a frame is pushed with the interrupted x2 and the mode, x2 becomes the handler's
stack at level 1, and the track goes on in supervisor mode at TVEC. R234: a fault changes no byte of memory, and no other track: the store
buffer is emptied unwritten. R238: a fault in a handler that has not acknowledged, or at level 31, escalates: the cause registers of the
level and those of the new fault go to TSAVE, the track freezes alone, and the steward is told both sets; nothing else changes (a RACE
counts in RACESTAT). R425, R350: TRAP and
BRK close the strip, then enter the handler with TEPC the next instruction; nothing is rolled back. The model's own readings in it, which
no rule fixes: log entry 7. -/
def Obligations.SynchronousFaults : Prop :=
  (∀ (s : State) (c : Cause) (addr elem : Word), s.me.strip.isOpen = true →
    ¬(1 ≤ s.me.level ∧ (s.me.acked = false ∨ s.me.level = 31)) →
    let k := s.me.strip.start
    let t := (s.syncFault { cause := c, addr := addr, elem := elem }).me
    t.tcause = BitVec.ofNat 64 c.code ∧ t.taddr = addr ∧ t.telem = elem ∧ t.tfpc = s.me.pc ∧ t.tepc = k.pc ∧
    t.level = s.me.level + 1 ∧ t.acked = false ∧ t.pmode = s.me.super ∧ t.super = true ∧ t.pc = s.me.tvec &&& ~~~3#64 ∧
    t.m = k.m ∧ t.vl = k.vl ∧ t.vlmax = k.vlmax ∧ t.sbase = k.sbase ∧ t.fq = k.fq ∧ t.strip = {} ∧
    (∀ r : Reg, r ≠ 2 → t.getX r = if r = 0 then 0 else k.x[r]) ∧
    t.getX 2 = (if s.me.level = 0 then s.me.tstack &&& ~~~63#64 else k.x[(2 : Fin 32)]) ∧
    mget {} (s.me.level + 1) t.frames = ⟨BitVec.ofNat 64 c.code, addr, k.pc, s.me.pc, elem, k.x[(2 : Fin 32)], false, s.me.super, none⟩) ∧
  (∀ (s : State) (f : TrapInfo), (∀ a, (s.syncFault f).byte a = s.byte a) ∧
    ∀ c n, (c, n) ≠ s.cur → (s.syncFault f).track c n = s.track c n) ∧
  (∀ (s : State) (f : TrapInfo), f.cause ≠ .race → 1 ≤ s.me.level → (s.me.acked = false ∨ s.me.level = 31) →
    let t := s.me
    let fpc := f.fpc.getD t.pc
    s.syncFault f = { s.modMe fun t => { t with
        tsave := [t.tcause, t.taddr, t.tfpc, t.telem, BitVec.ofNat 64 f.cause.code, f.addr, fpc, f.elem], escalated := true } with
      reports := s.reports ++ [.escalation s.cur.1 s.cur.2 [t.tcause, t.taddr, t.tfpc, t.telem, BitVec.ofNat 64 f.cause.code, f.addr, fpc,
        f.elem]] }) ∧
  (∀ (s s1 : State) (i : Instr) (a : Reg) (code : Fin 32), (i = .trap a code ∨ i = .brk) → s.entered i = some s1 →
    ¬(1 ≤ s1.me.level ∧ (s1.me.acked = false ∨ s1.me.level = 31)) →
    ∃ t, exec i s = .next t ∧
      t.me.tcause = (if i = .brk then 0x0F else 0x10) ∧ t.me.taddr = (if i = .brk then 0 else s1.x a) ∧
      t.me.telem = (if i = .brk then 0 else BitVec.ofNat 64 code.val) ∧ t.me.tfpc = s1.me.pc ∧ t.me.tepc = s1.me.pc + 4 ∧
      t.me.level = s1.me.level + 1 ∧ t.me.pmode = s1.me.super ∧ t.me.super = true ∧ t.me.acked = false ∧
      t.me.pc = s1.me.tvec &&& ~~~3#64 ∧ t.me.m = s1.me.m ∧ t.me.arith = s1.me.arith ∧
      (∀ r : Reg, r ≠ 2 → t.x r = s1.x r) ∧ t.x 2 = (if s1.me.level = 0 then s1.me.tstack &&& ~~~63#64 else s1.x 2) ∧
      (∀ q, t.byte q = s1.byte q) ∧ ∀ c n, (c, n) ≠ s1.cur → t.track c n = s1.track c n)

/-- R235, R426: TRAP.ACK sets acked of its level, and its frame's; in user mode it raises PRIV and at level 0 ILLEGAL. R235, R426:
TRAP.RET, where its level is acknowledged or as if it were, restores x2 and the mode from the level's frame, goes to TEPC one level down, and below level 1 reloads the cause registers from
that level's frame; a misaligned TEPC raises ALIGN before the handler's strip closes, user mode PRIV, level 0 ILLEGAL. The model's own readings in it, which no rule fixes:
log entry 7. -/
def Obligations.TrapReturns : Prop :=
  (∀ (s : State), s.steady = true →
    (s.me.super = false → Faults s .trapAck s.openStrip .priv 0 0) ∧
    (s.me.super = true → s.me.level = 0 → Faults s .trapAck s.openStrip .illegal 0 0) ∧
    (s.me.super = true → 1 ≤ s.me.level → Completes s .trapAck (s.openStrip.modMe fun t =>
      { t with acked := true, frames := mupd {} t.level (fun f => { f with acked := true }) t.frames }))) ∧
  (∀ (s s1 : State), s.entered .trapRet = some s1 →
    (s1.me.super = false → Faults s .trapRet s1 .priv 0 0) ∧
    (s1.me.super = true → s1.me.level = 0 → Faults s .trapRet s1 .illegal 0 0) ∧
    (s1.me.super = true → 1 ≤ s1.me.level → s1.me.tepc.toNat % 4 ≠ 0 → Faults s .trapRet (if s.steady then s else s1) .align s1.me.tepc 0) ∧
    (s1.me.super = true → 1 ≤ s1.me.level → s1.me.tepc.toNat % 4 = 0 →
      let f := mget {} s1.me.level s1.me.frames
      let g := mget {} (s1.me.level - 1) s1.me.frames
      ∃ t, exec .trapRet s = .next t ∧ t.me.pc = s1.me.tepc ∧ t.me.level = s1.me.level - 1 ∧ t.me.super = f.pmode ∧
        t.x 2 = f.x2 ∧ (∀ r : Reg, r ≠ 2 → t.x r = s1.x r) ∧ t.me.m = s1.me.m ∧ t.me.arith = s1.me.arith ∧
        (s1.me.level = 1 → t.me.tcause = s1.me.tcause ∧ t.me.taddr = s1.me.taddr ∧ t.me.tepc = s1.me.tepc ∧
          t.me.tfpc = s1.me.tfpc ∧ t.me.telem = s1.me.telem ∧ t.me.acked = true ∧ t.me.pmode = s1.me.pmode) ∧
        (2 ≤ s1.me.level → t.me.tcause = g.tcause ∧ t.me.taddr = g.taddr ∧ t.me.tepc = g.tepc ∧ t.me.tfpc = g.tfpc ∧
          t.me.telem = g.telem ∧ t.me.acked = g.acked ∧ t.me.pmode = g.pmode) ∧
        ∀ q, t.byte q = s1.byte q))

/-! Vector length, bands and the grid engine's commands. Where a strip-closing instruction finds `s1` when its own part begins, the
strip before it has closed without a fault (R64). -/

/-- R57 to R61: SETVL takes the groups that the lane word in force gives the track (two where it assigns none) and that others leave,
scales them under the lane cap, and grants min(xa, 16 groups); .ADV first moves SBASE on by the previous grant. R57, R60: LANES is PRIV in
user mode where the word in force has `right` clear, ILLEGAL for a word whose counts sum to more than eight or with a bit above 16, and
else puts the word in force and gives the old one. -/
def Obligations.VectorLength : Prop :=
  (∀ (s s1 : State) (d a : Reg) (adv : Bool), s.entered (if adv then .setvlAdv d a else .setvl d a) = some s1 →
    let k := s1.myCore
    let w := k.lane
    let others := ((List.range 4).filter (· ≠ s1.cur.2)).foldl (fun n u => n + (k.track u).held) 0
    let h := min (if w % 65536 = 0 then 2 else w / 16 ^ s1.cur.2 % 16) (8 - others)
    let cap := s1.laneCap s1.cur.1
    let usable := if h = 0 then 0 else if others + h ≤ cap then h else max 1 (h * cap / (others + h))
    let vl := min (s1.x a).toNat (16 * usable)
    Completes s (if adv then .setvlAdv d a else .setvl d a) ((s1.modMe fun t =>
      { t with sbase := if adv then t.sbase + BitVec.ofNat 64 t.vl else t.sbase, held := h, vlmax := 16 * usable, vl := vl }).setX d
        (BitVec.ofNat 64 vl))) ∧
  (∀ (s s1 : State) (d a : Reg), s.entered (.lanes d a) = some s1 →
    let old := s1.myCore.lane
    let w := (s1.x a).toNat
    let sum := w % 16 + w / 16 % 16 + w / 256 % 16 + w / 4096 % 16
    let allowed := s1.me.super = true ∨ old / 65536 % 2 = 1
    (¬allowed → Faults s (.lanes d a) s1 .priv 0 0) ∧
    (allowed → (8 < sum ∨ 2 ^ 17 ≤ w) → Faults s (.lanes d a) s1 .illegal 0 0) ∧
    (allowed → sum ≤ 8 → w < 2 ^ 17 →
      Completes s (.lanes d a) ((s1.modMyCore fun k => { k with lane := w }).setX d (BitVec.ofNat 64 old))))

/-- R86: GCLAIM and GCLAIM.T: past band 3 ILLEGAL, holding a band already GRIDOWN; a claim whose bands no other track holds takes them;
one of a held band waits, or with .T claims nothing and gives all ones. R87, R89: GRELEASE waits for the track's busy rows and gives up
its bands; GWAIT waits for the busy rows of the masked bands, or of the bands held under a mask of 0, and raises GRIDOWN for a masked band
that is not held. R91, R371: FMT pushes a legal word; a value above 32 bits or a full queue is ILLEGAL, then a word against R100 is
FMTBAD. The model's own readings in it, which no rule fixes: log entries 11, 22, 28. -/
def Obligations.GridBands : Prop :=
  (∀ (s s1 : State) (d : Reg) (band count : Fin 4) (t : Bool),
    let i := if t then Instr.gclaimT d band count else Instr.gclaim d band count
    let n := count.val + 1
    let k := s1.myCore
    let heldByOther := ∃ u, u < 4 ∧ u ≠ s1.cur.2 ∧ ∃ b, band.val ≤ b ∧ b < band.val + n ∧ (k.track u).band ≤ b ∧
      b < (k.track u).band + (k.track u).bands
    (s.entered i = some s1 → 4 < band.val + n → Faults s i s1 .illegal 0 0) ∧
    (s.entered i = some s1 → band.val + n ≤ 4 → s1.me.bands ≠ 0 → Faults s i s1 .gridOwn 0 0) ∧
    (s.entered i = some s1 → band.val + n ≤ 4 → s1.me.bands = 0 → ¬heldByOther → (t = true ∨ ∀ u, u < 4 → u ≠ s1.cur.2 → (k.track u).wait = none) →
      Completes s i ((s1.modMe fun t => { t with band := band.val, bands := n }).setX d (BitVec.ofNat 64 (32 * band.val)))) ∧
    (s.entered i = some s1 → band.val + n ≤ 4 → s1.me.bands = 0 → heldByOther →
      if t then Completes s i (s1.setX d (BitVec.allOnes 64)) else Waits s i s1 .band (band.val + 4 * n)) ∧
    ∀ c m w, s.waitsFor c m .band w → w.instr = .gclaim d band count → s1 = { s with cur := (c, m) } → band.val + n ≤ 4 → s1.me.bands = 0 →
      ¬heldByOther → (∀ u, u < 4 → u ≠ m → (s.track c u).wait = none) → Resumes s (.gclaimGrant c m) c m w.instr
        ((s1.modMe fun t => { t with band := band.val, bands := n }).setX d (BitVec.ofNat 64 (32 * band.val)))) ∧
  (∀ (s s1 : State) (mask : BitVec 4),
    (s.entered .grelease = some s1 →
      let busy := ∃ r, s1.me.rowbase ≤ r ∧ r < s1.me.rowbase + s1.me.rows ∧ s1.myCore.busy r = true
      (busy → Waits s .grelease s1 .release 0) ∧
      (¬busy → Completes s .grelease (s1.modMe fun t => { t with band := 0, bands := 0 }))) ∧
    (s.entered (.gwait mask) = some s1 →
      let held := fun b => s1.me.band ≤ b ∧ b < s1.me.band + s1.me.bands
      let named := fun (r : Nat) => if mask = 0 then held (r / 32) else r < 128 ∧ mask.getLsbD (r / 32) = true
      let busy := ∃ r, named r ∧ s1.myCore.busy r = true
      ((∃ b, b < 4 ∧ mask.getLsbD b = true ∧ ¬held b) → Faults s (.gwait mask) s1 .gridOwn 0 0) ∧
      ((∀ b, b < 4 → mask.getLsbD b = true → held b) →
        (busy → Waits s (.gwait mask) s1 .gwait 0) ∧ (¬busy → Completes s (.gwait mask) s1)))) ∧
  (∀ (s s1 : State) (a : Reg), s.entered (.fmt a) = some s1 →
    let v := (s1.x a).toNat
    ((2 ^ 32 ≤ v ∨ 8 ≤ s1.me.fq.length) → Faults s (.fmt a) s1 .illegal 0 0) ∧
    (v < 2 ^ 32 → s1.me.fq.length < 8 → fmtLegal v = false → Faults s (.fmt a) s1 .fmtBad 0 0) ∧
    (v < 2 ^ 32 → s1.me.fq.length < 8 → fmtLegal v = true →
      Completes s (.fmt a) (s1.modMe fun t => { t with fq := t.fq ++ [BitVec.ofNat 32 v] })))

/-- R88, R90, R379, R461: GZERO, GPARK and GUNPARK: their checks, then the command joins the grid engine's queue; with eight of the
track's commands there that have not entered, the command waits with no effect. R154, R408, R409, R461: ROWFILL's and ROWSEND's checks in
their order, and their issue. R378, R461: GSAVE's and GLOAD's checks in their order, and their issue. The model's own readings in it,
which no rule fixes: log entries 22, 23. -/
def Obligations.GridCommandsIssue : Prop :=
  (∀ (s s1 : State) (mask : BitVec 4) (a : Reg) (band : Fin 4),
    let rows := fun (b : Nat) => (List.range 32).map (32 * b + ·)
    let held := fun (b : Nat) => s1.me.band ≤ b ∧ b < s1.me.band + s1.me.bands
    let issues := fun (i : Instr) (op : GridOp) (rows : List Nat) =>
      (s1.gridRoom = true → Completes s i (s1.queued (s1.newCmd op rows none))) ∧ (s1.gridRoom = false → Waits s i s1 .gridRoom 0)
    (s.entered (.gzero mask) = some s1 →
      (mask = 0 → Faults s (.gzero mask) s1 .illegal 0 0) ∧
      (mask ≠ 0 → (∃ b, b < 4 ∧ mask.getLsbD b = true ∧ ¬held b) → Faults s (.gzero mask) s1 .gridOwn 0 0) ∧
      (mask ≠ 0 → (∀ b, b < 4 → mask.getLsbD b = true → held b) →
        issues (.gzero mask) .zero (((List.range 4).filter fun b => mask.getLsbD b).flatMap rows))) ∧
    (s.entered (.gpark a band) = some s1 →
      (s1.myCore.parks ≤ (s1.x a).toNat → Faults s (.gpark a band) s1 .illegal 0 0) ∧
      ((s1.x a).toNat < s1.myCore.parks → ¬held band.val → Faults s (.gpark a band) s1 .gridOwn 0 0) ∧
      ((s1.x a).toNat < s1.myCore.parks → held band.val → issues (.gpark a band) (.park (s1.x a).toNat) (rows band.val))) ∧
    (s.entered (.gunpark a band) = some s1 →
      (s1.myCore.parks ≤ (s1.x a).toNat → Faults s (.gunpark a band) s1 .illegal 0 0) ∧
      ((s1.x a).toNat < s1.myCore.parks → ¬held band.val → Faults s (.gunpark a band) s1 .gridOwn 0 0) ∧
      ((s1.x a).toNat < s1.myCore.parks → held band.val → issues (.gunpark a band) (.unpark (s1.x a).toNat) (rows band.val)))) ∧
  (∀ (s s1 : State) (et : ElemType) (row : Fin 128) (count : Fin 8) (xs xj : Reg),
    let n := count.val + 1
    let rows := (List.range n).map (row.val + ·)
    let held := ∀ r, r ∈ rows → s1.me.holds r = true
    let issues := fun (i : Instr) (op : GridOp) (j : Option Word) =>
      (s1.gridRoom = true → Completes s i (s1.queued (s1.newCmd op rows j))) ∧ (s1.gridRoom = false → Waits s i s1 .gridRoom 0)
    (s.entered (.rowfill et row count xs) = some s1 →
      let i := Instr.rowfill et row count xs
      let a := s1.x xs
      let bad := et ∈ [ElemType.int4, .e2m1, .k8, .int64] ∨ 128 < row.val + n
      let size := match et with
        | .int16 => 2 | .fp16 => 2 | .bf16 => 2 | .fp32 => 4 | .int32 => 4 | .fp64 => 8 | _ => 1
      (bad → Faults s i s1 .illegal 0 0) ∧ (¬bad → ¬held → Faults s i s1 .gridOwn 0 0) ∧
      (¬bad → held → a.toNat % size ≠ 0 → Faults s i s1 .align a 0) ∧
      (¬bad → held → a.toNat % size = 0 → issues i (.fill et a) none)) ∧
    (s.entered (.rowsend row count xs xj) = some s1 →
      let i := Instr.rowsend row count xs xj
      let w := (s1.x xs).toNat
      let target := w % 512
      let first := w / 512 % 128
      let j := if xj = 0 then 0 else s1.x xj
      let bad := 2 ^ 16 ≤ w ∨ 128 < first + n ∨
        (target = s1.cur.1 ∧ ∃ r, r ∈ rows ∧ first ≤ r ∧ r < first + n)
      (bad → Faults s i s1 .illegal 0 0) ∧ (¬bad → ¬held → Faults s i s1 .gridOwn 0 0) ∧
      (¬bad → held → j.toNat % 64 ≠ 0 → Faults s i s1 .align j 0) ∧
      (¬bad → held → j.toNat % 64 = 0 → issues i (.send target first) (if xj = 0 then none else some j)))) ∧
  (∀ (s s1 : State) (row : Fin 128) (count : Fin 32) (xs xj : Reg) (load : Bool),
    let i := if load then Instr.gload row count xs xj else Instr.gsave row count xs xj
    s.entered i = some s1 →
    let n := count.val + 1
    let rows := (List.range n).map (row.val + ·)
    let held := ∀ r, r ∈ rows → s1.me.holds r = true
    let a := s1.x xs
    let j := if xj = 0 then 0 else s1.x xj
    (128 < row.val + n → Faults s i s1 .illegal 0 0) ∧
    (row.val + n ≤ 128 → ¬held → Faults s i s1 .gridOwn 0 0) ∧
    (row.val + n ≤ 128 → held → a.toNat % 64 ≠ 0 → Faults s i s1 .align a 0) ∧
    (row.val + n ≤ 128 → held → a.toNat % 64 = 0 → j.toNat % 64 ≠ 0 → Faults s i s1 .align j 0) ∧
    (row.val + n ≤ 128 → held → a.toNat % 64 = 0 → j.toNat % 64 = 0 →
      (s1.gridRoom = false → Waits s i s1 .gridRoom 0) ∧
      (s1.gridRoom = true → Completes s i (s1.queued (s1.newCmd (if load then .load a else .save a) rows (if xj = 0 then none else some j))))))

/-- R103, R402: OPA's checks in their order, and its issue: the format word is popped, k M and k N elements of the two streams are
reserved, the command is queued, and k updates are charged for each band that its rows enter. The model's own readings in it, which no
rule fixes: log entry 22. -/
def Obligations.OuterProductIssue : Prop :=
  ∀ (s s1 : State) (na nb z : Bool) (qa qb : Q8) (r : Reg),
    let i := Instr.opa na nb z qa qb r
    s.entered i = some s1 →
    let xk := s1.x r
    let k := xk.toNat % 512
    let m := xk.toNat / 2 ^ 9 % 128 + 1
    let n := xk.toNat / 2 ^ 16 % 128 + 1
    let col0 := xk.toNat / 2 ^ 23 % 128
    let row0 := xk.toNat / 2 ^ 30 % 128
    let bad1 := k = 0 ∨ 256 < k ∨ 2 ^ 37 ≤ xk.toNat ∨ 128 < col0 + n ∨ qa = qb
    let bad2 := s1.me.bands = 0 ∨ s1.me.rows < row0 + m
    (bad1 → Faults s i s1 .illegal 0 0) ∧
    (¬bad1 → bad2 → Faults s i s1 .gridOwn 0 0) ∧
    (¬bad1 → ¬bad2 → s1.me.fq = [] → Faults s i s1 .fmtEmpty 0 0) ∧
    ∀ f rest, ¬bad1 → ¬bad2 → s1.me.fq = f :: rest →
      let wide := f.toNat / 2 ^ 12 % 4 = 2 ∧ 64 < col0 + n
      let badQ := fun (q : Q8) (count : Nat) => opaStreamBad s1.myCore s1.cur.2 q count = true
      (wide → Faults s i s1 .illegal 0 0) ∧
      (¬wide → badQ qa (k * m) → Faults s i s1 .stream 0 qa.val) ∧
      (¬wide → ¬badQ qa (k * m) → badQ qb (k * n) → Faults s i s1 .stream 0 qb.val) ∧
      (¬wide → ∀ sa sb, s1.myCore.owned s1.cur.2 qa.val = some sa → s1.myCore.owned s1.cur.2 qb.val = some sb →
        ¬badQ qa (k * m) → ¬badQ qb (k * n) →
        let fits := fmtMatches sa.pat (f.toNat % 16) (f.toNat / 2 ^ 8 % 4) (f.toNat / 2 ^ 14 % 4 == 1) (f.toNat / 2 ^ 16 % 8)
            (f.toNat / 2 ^ 19 % 4) = true ∧
          fmtMatches sb.pat (f.toNat / 2 ^ 4 % 16) (f.toNat / 2 ^ 10 % 4) false 0 0 = true
        (¬fits → Faults s i s1 .fmtBad 0 0) ∧
        (fits → s1.gridRoom = false → Waits s i s1 .gridRoom 0) ∧
        (fits → s1.gridRoom = true →
          let first := s1.me.rowbase + row0
          let g := { s1.newCmd (.opa na nb z qa qb k m n col0 f) ((List.range m).map (first + ·)) none with
            posA := sa.pos, posB := sb.pos, sideA := s1.myCore.sidePos qa.val, sideB := s1.myCore.sidePos qb.val }
          let u := ((s1.queued g).modMyCore fun c => (c.reserve qa.val (k * m) m).reserve qb.val (k * n) n).modMe fun t =>
            { t with fq := rest }
          Completes s i (u.charge s1.cur.1 (k * ((first + m - 1) / 32 + 1 - first / 32) * u.weight s1.cur.1 (opaClass f.toNat)))))

/-- R374 to R376, R112: GDRAIN's checks in their order, and its issue with the mask and the rounding mode in force. The model's own
readings in it, which no rule fixes: log entries 21, 35, and 81 for the mode at issue. -/
def Obligations.GridDrain : Prop :=
  ∀ (s s1 : State) (va : View) (xs xj : Reg) (ad : DrainAddr) (cv : VConv),
    let i := Instr.gdrain va xs ad xj cv
    s.entered i = some s1 →
    let stride := match ad with
      | .stride r => s1.x r
      | .scale _ => 0
      | .index _ => 0
    let scale := match ad with
      | .scale r => some (s1.x r)
      | .stride _ => none
      | .index _ => none
    let index := match ad with
      | .index v => some v
      | .stride _ => none
      | .scale _ => none
    let j := if xj = 0 then 0 else s1.x xj
    let bad := (cv.et = .int4 ∨ cv.et = .e2m1) ∧ stride ≠ 0
    let owned := gridOk s1.me va = true ∧ ∀ v, index = some v → gridOk s1.me v = true
    (bad → Faults s i s1 .illegal 0 0) ∧ (¬bad → ¬owned → Faults s i s1 .gridOwn 0 0) ∧
    (¬bad → owned → j.toNat % 64 ≠ 0 → Faults s i s1 .align j 0) ∧
    (¬bad → owned → j.toNat % 64 = 0 →
      let rm := if cv.rm = .dyn then (rctx .dyn s1.me.arith 0 0).rm else cv.rm
      let cv' := { cv with rm := rm }
      let g := { s1.newCmd (.drain va (s1.x xs) stride scale index cv') [] (if xj = 0 then none else some j) with mask := s1.me.getM cv.mask }
      (s1.gridRoom = false → Waits s i s1 .gridRoom 0) ∧
      (s1.gridRoom = true → Completes s i (s1.queued { g with rows := g.drainRows va index cv' })))

/-! Vector forms. `VectorGives` says what a form delivers where its operands are the track's, free and filled, by the function given: the
result of each active element and its flags. -/

/-- R428 to R430: the float forms deliver the exact result rounded once, element i under SR drawn with index SBASE + i. The model's own
readings in it, which no rule fixes: log entries 4, 21. -/
def Obligations.VectorFloatForms : Prop :=
  ∀ (s : State), s.steady = true → ∀ (et : FD) (sub : FmaSub) (vd va vb vc : View) (c : VCtl),
    let t := s.me
    let ctx := fun (i : Nat) => rctx c.rm t.arith t.srseed (t.sbase + BitVec.ofNat 64 i)
    let rounded := fun (fmt : FloatFmt) (i : Nat) (v : Machine.Num × Flags) =>
      some ((roundFloat (ctx i) fmt c.sat v.1).1, v.2.or (roundFloat (ctx i) fmt c.sat v.1).2)
    let fmt : FloatFmt := match et with
      | .f => .fp32
      | .d => .fp64
    let form := fun (i : Instr) (srcs : List View) (f : Bool → (Nat → Machine.Num) → Machine.Num × Flags) =>
      VectorGives s i vd et.toEt (srcs.map fun v => (v, et.toEt)) c.mz c.mask (fun _ => false) readView fun src i =>
        rounded fmt i (f ((ctx i).rm == .rdn) fun j => (src j i).toNum)
    let form32 := fun (i : Instr) (f : Machine.Num → Machine.Num × Flags) =>
      VectorGives s i vd .f [(va, .f)] c.mz c.mask (fun _ => false) readView fun src i => rounded .fp32 i (f (src 0 i).toNum)
    form (.vadd et vd va vb c) [va, vb] (fun rdn x => numAdd rdn (x 0) (x 1)) ∧
    form (.vsub et vd va vb c) [va, vb] (fun rdn x => numAdd rdn (x 0) (x 1).negate) ∧
    form (.vmul et vd va vb c) [va, vb] (fun _ x => numMul (x 0) (x 1)) ∧
    form (.vfma sub et vd va vb vc c) [va, vb, vc] (fun rdn x => match sub with
      | .madd => numFma rdn (x 0) (x 1) (x 2)
      | .msub => numFma rdn (x 0) (x 1) (x 2).negate
      | .nmadd => numFma rdn (x 0).negate (x 1) (x 2)
      | .nmsub => numFma rdn (x 0).negate (x 1) (x 2).negate) ∧
    form (.vdiv et vd va vb c) [va, vb] (fun _ x => numDiv (x 0) (x 1)) ∧
    form (.vsqrt et vd va c) [va] (fun _ x => numSqrt (x 0)) ∧
    form32 (.vrcp vd va c) numRcp ∧ form32 (.vrsqrt vd va c) numRsqrt ∧ form32 (.vexp2 vd va c) numExp2 ∧
    form32 (.vlog2 vd va c) numLog2 ∧ form32 (.vtanh vd va c) numTanh

/-- R430, R434, R462: forms that pick an element. VMIN, VMAX and VSGN round nothing away and raise no flag; the moves deliver an element,
rounded to the encoding where a popped one does not fit, or the 40 bits under I. R434: VEXT gives element xi of va, or 0 beyond VL and
where it is inactive; VINS writes element xi of vd and no other. The model's own readings in it, which no rule fixes: log entry 21. -/
def Obligations.VectorPicksAndMoves : Prop :=
  (∀ (s : State), s.steady = true → ∀ (et : FD) (e : Et) (sg : SgnSub) (vd va vb : View) (p : VPol) (r : Reg) (ms : MReg),
    let t := s.me
    let fmt : FloatFmt := match et with
      | .f => .fp32
      | .d => .fp64
    let pick := fun (i : Instr) (f : Machine.Num → Machine.Num → Machine.Num) =>
      VectorGives s i vd et.toEt [(va, et.toEt), (vb, et.toEt)] p.mz p.mask (fun _ => false) readView fun src i =>
        some ((roundFloat .rne fmt false (f (src 0 i).toNum (src 1 i).toNum)).1, {})
    let move := fun (i : Instr) (srcs : List (View × Et)) (extra : Nat → Bool) (f : (Nat → Nat → Elem) → Nat → Option (Nat × Flags)) =>
      VectorGives s i vd e srcs p.mz p.mask extra readView f
    let given := fun (x : Elem) => match e with
      | .i => ((BitVec.ofInt 40 x.toInt).toNat, {})
      | .f => roundFloat .rne .fp32 false x.toNum
      | .d => roundFloat .rne .fp64 false x.toNum
    let orZero := fun (x : Elem) => if x.isOn then given x else (0, {})
    let n := (s.x r).toNat
    let below := fun (i : Nat) => decide (i < t.vl)
    pick (.vmin et vd va vb p) numMin ∧ pick (.vmax et vd va vb p) numMax ∧
    pick (.vsgn sg et vd va vb p) (fun a b => a.withSign (match sg with
      | .copy => b.neg
      | .neg => !b.neg
      | .xor => a.neg != b.neg)) ∧
    move (.vmv e vd va p) [(va, e)] (fun _ => false) (fun src i => some (given (src 0 i))) ∧
    move (.vsel e vd va vb ms p) [(va, e), (vb, e)] (fun _ => false)
      (fun src i => some (given (if (s.mreg ms).getLsbD i then src 0 i else src 1 i))) ∧
    move (.vbcast e vd va r p) [(va, e)] (fun i => i == n) (fun src _ => some (orZero (src 0 n))) ∧
    move (.vslide false e vd va r p) [(va, e)] below
      (fun src i => if n ≤ i ∧ (src 0 (i - n)).isOn = true then some (given (src 0 (i - n))) else none) ∧
    move (.vslide true e vd va r p) [(va, e)] below
      (fun src i => if i + n < t.vl ∧ (src 0 (i + n)).isOn = true then some (given (src 0 (i + n))) else none) ∧
    move (.vperm e vd va vb p) [(va, e), (vb, .i)] below (fun src i =>
      let j := (src 1 i).toInt
      if 0 ≤ j ∧ j < t.vl then some (orZero (src 0 j.toNat)) else some (0, {}))) ∧
  (∀ (s : State), s.steady = true → ∀ (et : Et) (d r xs : Reg) (va vd : View) (u u' : State),
    let t := s.openStrip.me
    let j := (s.x r).toNat
    let below := fun (i : Nat) => decide (i < t.vl)
    (s.openStrip.vectorReady [(va, et)] none below (fun _ => false) = .ok () u →
      let x := readView u.myCore u.cur.2 t va et j
      let v : Word × Flags := if t.vl ≤ j ∨ x.isOn = false then (0, {}) else match et with
        | .i => (BitVec.ofInt 64 x.toInt, {})
        | .f => (BitVec.ofNat 64 (roundFloat .rne .fp32 false x.toNum).1, (roundFloat .rne .fp32 false x.toNum).2)
        | .d => (BitVec.ofNat 64 (roundFloat .rne .fp64 false x.toNum).1, (roundFloat .rne .fp64 false x.toNum).2)
      Completes s (.vext et d va r) (((u.popAll t.vl (popList [(va, et)])).setX d v.1).raiseAll [(j, v.2)])) ∧
    (viewStream vd = none → s.openStrip.vectorReady [] (some (vd, et)) (fun _ => false) (fun i => i == j && below i) = .ok () u →
      let v := s.x xs
      let bits := match et with
        | .i => v.toNat % 2 ^ 40
        | .f => (roundFloat .rne .fp32 false (FloatFmt.fp32.value (v.toNat % 2 ^ 32))).1
        | .d => (roundFloat .rne .fp64 false (FloatFmt.fp64.value v.toNat)).1
      u.writeView vd et false (fun i => if i = j ∧ i < t.vl ∧ (viewCell t vd et i).isSome = true then some bits else none) = .ok () u' →
      Completes s (.vins et vd xs r) u'))

/-- R431: the integer forms on 40-bit values; sums, differences and products are exact, clamped with saturation where `sat` says so, and
else keep their low 40 bits with no flag. R435: VCVT converts the exact value to the target type, clamping a float to an integer target,
and writes the value in the target's encoding. The model's own readings in it, which no rule fixes: log entry 21. -/
def Obligations.VectorIntegerForms : Prop :=
  (∀ (s : State), s.steady = true → ∀ (vd va vb : View) (sat : Bool) (p : VPol),
    let int := fun (i : Instr) (f : Cell40 → Cell40 → Cell40 × Bool) =>
      VectorGives s i vd .i [(va, .i), (vb, .i)] p.mz p.mask (fun _ => false) readView fun src i =>
        let r := f (BitVec.ofInt 40 (src 0 i).toInt) (BitVec.ofInt 40 (src 1 i).toInt)
        some (r.1.toNat, { sf := r.2 })
    let fit := fun (z : Int) =>
      if sat = true ∧ z < -2 ^ 39 then (BitVec.ofInt 40 (-2 ^ 39), true)
      else if sat = true ∧ 2 ^ 39 ≤ z then (BitVec.ofInt 40 (2 ^ 39 - 1), true)
      else (BitVec.ofInt 40 z, false)
    int (.viadd vd va vb sat p) (fun a b => fit (a.toInt + b.toInt)) ∧
    int (.visub vd va vb sat p) (fun a b => fit (a.toInt - b.toInt)) ∧
    int (.vimul vd va vb sat p) (fun a b => fit (a.toInt * b.toInt)) ∧
    int (.vshl vd va vb p) (fun a b => (a <<< (b.toNat % 64), false)) ∧
    int (.vshr vd va vb p) (fun a b => (a >>> (b.toNat % 64), false)) ∧
    int (.vsra vd va vb p) (fun a b => (a.sshiftRight (b.toNat % 64), false)) ∧
    int (.vand vd va vb p) (fun a b => (a &&& b, false)) ∧ int (.vor vd va vb p) (fun a b => (a ||| b, false)) ∧
    int (.vxor vd va vb p) (fun a b => (a ^^^ b, false)) ∧
    int (.vimin vd va vb p) (fun a b => (if b.toInt < a.toInt then b else a, false)) ∧
    int (.vimax vd va vb p) (fun a b => (if a.toInt < b.toInt then b else a, false))) ∧
  (∀ (s : State), s.steady = true → ∀ (target : ElemType) (et : Et) (vd va : View) (c : VCtl),
    let t := s.me
    let dest : Et := match target with
      | .fp64 => .d
      | .e2m1 => .f | .e4m3 => .f | .e5m2 => .f | .fp16 => .f | .bf16 => .f | .fp32 => .f
      | _ => .i
    let fmtD : FloatFmt := if target = .fp64 then .fp64 else .fp32
    let gives := fun (f : Nat → Machine.Num → Nat × Flags) => VectorGives s (.vcvt target et vd va c) vd dest [(va, et)] c.mz c.mask (fun _ => false) readExact
      fun src i => some (f i (src 0 i).toNum)
    let ctx := fun (i : Nat) => rctx c.rm t.arith t.srseed (t.sbase + BitVec.ofNat 64 i)
    (∀ g, elemKind target = .float g → gives fun i v =>
      ((roundFloat .rne fmtD false (g.value (roundFloat (ctx i) g c.sat v).1)).1, (roundFloat (ctx i) g c.sat v).2)) ∧
    (∀ b sg, elemKind target = .int b sg → b ≤ 40 → gives fun i v =>
      let r := roundInt (ctx i) b sg (et != .i || c.sat) v
      ((if sg then BitVec.ofInt 40 ((BitVec.ofNat b r.1).toInt) else BitVec.ofNat 40 (r.1 % 2 ^ b)).toNat, r.2)))

/-- R130, R131, R439: VRED combines the elements, with the identity for inactive ones, in the fixed pairwise tree, and writes element 0;
VSCAN gives the running values in element order, the first of them element 0 as it is. The model's own readings in it, which no rule
fixes: log entries 4, 21, and 82 for a first value that the encoding cannot hold. -/
def Obligations.ReductionsAndScans : Prop :=
  ∀ (s : State), s.steady = true → ∀ (op : RedOp) (et : Et) (vd va : View) (rm : Rounding) (sat : Bool) (mk : MReg) (c : VCtl)
    (u u' : State),
    let t := s.openStrip.me
    let cell := fun (w : Nat) => match et with
      | .i => Elem.int (BitVec.ofNat 40 w)
      | .f => .num (FloatFmt.fp32.value w)
      | .d => .num (FloatFmt.fp64.value w)
    let fmt : FloatFmt := if et = .d then .fp64 else .fp32
    let ident : Elem := match et with
      | .i => .int (match op with
        | .sum => 0
        | .max => BitVec.ofInt 40 (-2 ^ 39)
        | .min => BitVec.ofInt 40 (2 ^ 39 - 1))
      | _ => .num (match op with
        | .sum => .fin ⟨true, 0, 0⟩
        | .max => .inf true
        | .min => .inf false)
    let step := fun (c : RCtx) (sat : Bool) (a b : Elem) =>
      let r := match et with
        | .i => roundInt .rne 40 true sat (.ofInt (match op with
          | .sum => a.toInt + b.toInt
          | .max => max a.toInt b.toInt
          | .min => min a.toInt b.toInt))
        | _ =>
          let v : Machine.Num × Flags := match op with
            | .sum => numAdd (c.rm == Rounding.rdn) a.toNum b.toNum
            | .max => (numMax a.toNum b.toNum, {})
            | .min => (numMin a.toNum b.toNum, {})
          ((roundFloat c fmt sat v.1).1, v.2.or (roundFloat c fmt sat v.1).2)
      (cell r.1, r.2)
    let ctx := fun (rm : Rounding) (j : Nat) => rctx rm t.arith t.srseed (t.sbase + BitVec.ofNat 64 j)
    let elems := fun (mk : MReg) (i : Nat) => if t.active mk i then readView u.myCore u.cur.2 t va et i else .off
    (viewStream vd = none → s.openStrip.vectorReady [(va, et)] (some (vd, et)) (t.active mk) (fun i => i == 0) = .ok () u →
      let leaf := fun (i : Nat) => if (elems mk i).isOn then elems mk i else ident
      -- the values of the tree: level 0 holds the elements, level n + 1 the pairs of level n combined
      let level := fun (n : Nat) => Nat.rec (motive := fun _ => Nat → Elem × Flags) (fun i => (leaf i, {}))
        (fun _ below j => step (ctx rm j) sat (below (2 * j)).1 (below (2 * j + 1)).1) n
      let top := if et = .d then 6 else 7
      let out := (level top 0).1
      let bits := match et with
        | .i => (BitVec.ofInt 40 out.toInt).toNat
        | _ => (roundFloat .rne fmt false out.toNum).1
      (u.popAll t.vl (popList [(va, et)])).writeView vd et false (fun i => if i = 0 then some bits else none) = .ok () u' →
      Completes s (.vred op et vd va rm sat mk) (u'.raiseAll ((List.range 128).flatMap fun j =>
        ((List.range top).filter fun n => decide (j < 2 ^ (top - 1 - n))).map fun n => (j, (level (n + 1) j).2)))) ∧
    (let x := elems c.mask
      let run := fun (n : Nat) => Nat.rec (motive := fun _ => Elem × Flags)
        (if (x 0).isOn then x 0 else ident, {})
        (fun n (r : Elem × Flags) => step (ctx c.rm (n + 1)) c.sat r.1 (if (x (n + 1)).isOn then x (n + 1) else ident)) n
      let r := resultElem t c.mask vd et [fun i => readView u.myCore u.cur.2 t va et i] fun i =>
        some ((match et with
          | .i => (BitVec.ofInt 40 (run i).1.toInt).toNat
          | _ => (roundFloat .rne fmt false (run i).1.toNum).1), (run i).2)
      s.openStrip.vectorReady [(va, et)] (some (vd, et)) (fun i => t.active c.mask i || false) (fun i => t.active c.mask i || c.mz) = .ok () u →
      (u.popAll t.vl (popList [(va, et)])).writeView vd et c.mz (fun i => (r i).map (·.1)) = .ok () u' →
      Completes s (.vscan op et vd va c) (u'.raiseAll ((List.range 128).filterMap fun i => (r i).map fun y => (i, y.2))))

/-- R436: VFCMP and VICMP set each active element's bit to the condition; other bits are cleared under mz and kept otherwise. R72, R398,
R399: the mask forms bit by bit; m0 reads as all ones and discards writes (R53). -/
def Obligations.ComparesAndMasks : Prop :=
  (∀ (s : State), s.steady = true → ∀ (fc : VfCond) (ic : ICond) (et : FD) (md : MReg) (va vb : View) (p : VPol) (u : State),
    let t := s.openStrip.me
    let compares := fun (i : Instr) (e : Et) (holds : Elem → Elem → Prop) =>
      s.openStrip.vectorReady [(va, e), (vb, e)] none (t.active p.mask) (fun _ => false) = .ok () u →
      ∃ v : Mask128, Completes s i ((u.popAll t.vl (popList [(va, e), (vb, e)])).setMreg md v) ∧
        ∀ j, j < 128 →
          let a := readView u.myCore u.cur.2 t va e j
          let b := readView u.myCore u.cur.2 t vb e j
          if t.active p.mask j = true ∧ a.isOn = true ∧ b.isOn = true then (v.getLsbD j = true ↔ holds a b)
          else v.getLsbD j = (!p.mz && (t.getM md).getLsbD j)
    compares (.vfcmp fc et md va vb p) et.toEt (fun a b =>
      let nan := a.toNum.isNan = true ∨ b.toNum.isNan = true
      match fc with
      | .eq => ¬nan ∧ numEq a.toNum b.toNum = true
      | .ne => nan ∨ numEq a.toNum b.toNum = false
      | .lt => ¬nan ∧ numLt a.toNum b.toNum = true
      | .ge => ¬nan ∧ (numLt b.toNum a.toNum = true ∨ numEq a.toNum b.toNum = true)
      | .le => ¬nan ∧ (numLt a.toNum b.toNum = true ∨ numEq a.toNum b.toNum = true)
      | .gt => ¬nan ∧ numLt b.toNum a.toNum = true
      | .un => nan) ∧
    compares (.vicmp ic md va vb p) .i (fun a b =>
      let z := fun (x : Elem) => (BitVec.ofInt 40 x.toInt)
      match ic with
      | .eq => z a = z b
      | .ne => z a ≠ z b
      | .lt => (z a).toInt < (z b).toInt
      | .ge => (z b).toInt ≤ (z a).toInt
      | .ltn => (z a).toNat < (z b).toNat
      | .gen => (z b).toNat ≤ (z a).toNat)) ∧
  (∀ (s : State), s.steady = true → ∀ (op : LogicOp) (md ma mb mk : MReg) (p : VPol) (d xs xh : Reg),
    let a := fun (i : Nat) => s.me.active mk i && (s.mreg ma).getLsbD i
    (∃ v : Mask128, SetsMask s (.mlogic op md ma mb p) md v ∧ ∀ i, i < 128 →
      let x := (s.mreg ma).getLsbD i
      let y := (s.mreg mb).getLsbD i
      v.getLsbD i = if s.me.active p.mask i then (match op with
          | .and => x && y | .or => x || y | .xor => x != y | .andn => x && !y | .orn => x || !y
          | .xnor => x == y | .nand => !(x && y) | .nor => !(x || y))
        else !p.mz && (s.mreg md).getLsbD i) ∧
    (∃ v : Mask128, SetsMask s (.mfirst md ma mk) md v ∧ ∀ i, i < 128 →
      (v.getLsbD i = true ↔ s.me.active mk i = true ∧ ∀ j, j < i → a j = false)) ∧
    Sets s (.mpopc d ma mk) 8 d (BitVec.ofNat 64 ((List.range 128).filter a).length) ∧
    (∀ i, i < 128 → a i = true → (∀ j, j < i → a j = false) → Sets s (.mfind d ma mk) 8 d (BitVec.ofNat 64 i)) ∧
    ((∀ i, i < 128 → a i = false) → Sets s (.mfind d ma mk) 8 d (BitVec.ofNat 64 s.me.vl)) ∧
    (let h := if (s.x xh).getLsbD 0 then 64 else 0
     (∃ v : Word, Sets s (.mtox d ma xh) 8 d v ∧ ∀ i, i < 64 → v.getLsbD i = (s.mreg ma).getLsbD (h + i)) ∧
     ∃ v : Mask128, SetsMask s (.mfromx md xs xh) md v ∧ ∀ i, i < 128 →
       v.getLsbD i = if h ≤ i ∧ i < h + 64 then (s.x xs).getLsbD (i - h) else (s.mreg md).getLsbD i))

/-- R84, R93, R97, R428: with operands in the grid, a vector form raises GRIDOWN for a view outside the track's rows, waits for a busy
row, and else goes on with no effect yet; a result in the grid then changes the cells of its view's elements, by the encoding (R79), with
mz zeroing those without a result, and no other cell, nothing of another track or core, and no byte of memory. The model's own readings in
it, which no rule fixes: log entries 21, 35. -/
def Obligations.VectorOperandsInTheGrid : Prop :=
  ∀ (s : State) (srcs : List (View × Et)) (vd : View) (e : Et) (reads writes : Nat → Bool) (mz : Bool) (r : Nat → Option Nat),
    (∀ v, v ∈ srcs → viewStream v.1 = none) → viewStream vd = none →
    let k := s.myCore
    let ready := s.vectorReady srcs (some (vd, e)) reads writes
    let uses := fun (v : View) (sel : Nat → Bool) (row : Nat) => match v with
      | .row n => row = n.val
      | .col _ => ∃ i, i < s.me.rows ∧ sel i = true ∧ row = s.me.rowbase + i
      | .diag _ => ∃ i, i < s.me.rows ∧ sel i = true ∧ row = s.me.rowbase + i
      | _ => False
    ((∃ v, v ∈ vd :: srcs.map (·.1) ∧ gridOk s.me v = false) → ready = .stop (faulty .gridOwn s)) ∧
    ((∀ v, v ∈ vd :: srcs.map (·.1) → gridOk s.me v = true) →
      let waits := ∃ row, k.busy row = true ∧ (uses vd writes row ∨ ∃ v, v ∈ srcs ∧ uses v.1 reads row)
      (waits → ∃ row i, k.busy row = true ∧ ready = .stop (.wait .busyRow row (s.atElem i))) ∧ (¬waits → ready = .ok () s)) ∧
    ∀ u, k.gridWf = true → s.writeView vd e mz r = .ok () u →
      let new := fun (i : Nat) => match r i with
        | some b => some b
        | none => if mz then some 0 else none
      (∀ i row col, i < 128 → viewCell s.me vd e i = some (row, col) → ∀ b, new i = some b →
        match e with
        | .f => u.myCore.cell row col = BitVec.ofNat 40 (b % 2 ^ 32 * 2 ^ 8)
        | .i => u.myCore.cell row col = BitVec.ofNat 40 b
        | .d => (u.myCore.cell row (col + 1)).toNat * 2 ^ 40 + (u.myCore.cell row col).toNat = b % 2 ^ 64 * 2 ^ 16) ∧
      (∀ row col, (∀ i c, i < 128 → viewCell s.me vd e i = some (row, c) → (c = col ∨ (e = .d ∧ c + 1 = col)) → new i = none) →
        u.myCore.cell row col = k.cell row col) ∧
      (∀ a, u.byte a = s.byte a) ∧ (∀ c n, (c, n) ≠ s.cur → u.track c n = s.track c n) ∧
      (∀ c, c ≠ s.cur.1 → u.core c = s.core c) ∧ u.me.visible = s.me.visible

/-! Vector loads, stores, atomics and waits. -/

/-- R71, R437, R438: VLD, VLDFF and VLDX read their active elements in ascending order at xs + i * stride (the element size where the
register holds 0) or xs + the offset element, and write them, extended exactly, to the view; 4-bit elements lie two to a byte, and with a
stride are ILLEGAL. `loadElems` ends early only for VLDFF, at an element after the first that faults, which becomes VL. R66, R71, R437: an
element of a vector load that is in memory here has the value of its bytes, the strip's own first, exactly in the cell encoding; a fault
at the first element is the load's, at a later one of VLDFF it ends the load there. The model's own readings in it, which no rule fixes:
log entries 8, 21. -/
def Obligations.VectorLoads : Prop :=
  (∀ (s : State), s.steady = true → ∀ (et : ElemType) (vd vo : View) (xs xr : Reg) (p : VPol),
    let t := s.openStrip.me
    let e := et.cellEt
    let stride := s.x xr
    let small := et = .int4 ∨ et = .e2m1
    let size : Int := match et with
      | .int16 => 2 | .fp16 => 2 | .bf16 => 2 | .fp32 => 4 | .int32 => 4 | .fp64 => 8 | .int64 => 8 | .acc40 => 5 | _ => 1
    let strided := fun (i : Nat) => if small then wrap ((s.x xs).toNat + (i / 2 : Nat))
      else wrap ((s.x xs).toNat + (i : Int) * (if stride = 0 then size else stride.toInt))
    let loads := fun (i : Instr) (srcs : List (View × Et)) (addr : State → Nat → Nat) (first : Bool) =>
      ∀ (u u1 u2 u3 : State) (l : List (Nat × Nat)) (stop : Option Nat),
        let on := fun (j : Nat) => t.active p.mask j && (viewCell t vd e j).isSome && srcs.all fun v => (viewCell t v.1 .i j).isSome
        s.openStrip.vectorReady srcs (some (vd, e)) (t.active p.mask) (fun j => t.active p.mask j || p.mz) = .ok () u →
        u.beforeRows (writtenRows t vd e fun j => on j || p.mz) = .ok () u1 →
        u1.loadElems et (addr u) first ((List.range 128).filter on) [] = .ok (l, stop) u2 →
        u2.writeView vd e p.mz (fun j => mfind j l) = .ok () u3 →
        Completes s i (match stop with
          | some j => u3.modMe fun t => { t with vl := j }
          | none => u3)
    let bad := small ∧ xr ≠ 0 ∧ stride ≠ 0
    (bad → Faults s (.vld et vd xs xr p) s.openStrip .illegal 0 0 ∧ Faults s (.vldff et vd xs xr p) s.openStrip .illegal 0 0) ∧
    (¬bad → loads (.vld et vd xs xr p) [] (fun _ => strided) false ∧ loads (.vldff et vd xs xr p) [] (fun _ => strided) true) ∧
    loads (.vldx et vd xs vo p) [(vo, .i)]
      (fun u j => wrap ((s.x xs).toNat + (readView u.myCore u.cur.2 t vo .i j).toInt)) false) ∧
  (∀ (s : State) (et : ElemType) (va i : Nat) (rest : List Nat) (addr : Nat → Nat) (first : Bool) (acc : List (Nat × Nat)), et ≠ .acc40 →
    let n := elemBytes et
    (∀ pa u, s.access s.who va n .read true = .ok pa u → (∀ k o, area pa ≠ .remote k o) →
      let b := u.ownBytes pa n
      let v := if elemBits et = 4 then (if i % 2 = 1 then b / 16 else b % 16) else b
      let bits := match elemKind et with
        | .float .fp64 => (roundFloat .rne .fp64 false (FloatFmt.fp64.value v)).1
        | .float f => (roundFloat .rne .fp32 false (f.value v)).1
        | .int w true => (BitVec.ofInt 40 (BitVec.ofNat w v).toInt).toNat
        | .int w false => v % 2 ^ w % 2 ^ 40
        | .codebook => 0
        | .raw => v % 2 ^ 40
      s.loadElem et va i = .ok bits (u.touch ⟨BitVec.ofNat 64 va, n, i, true, false, elemBits et⟩)) ∧
    (∀ c u, s.access s.who (addr i) n .read true = .fault c u →
      s.loadElems et addr first (i :: rest) acc =
        if first = true ∧ acc ≠ [] then .ok (acc, some i) u else .stop (faulty c u (BitVec.ofNat 64 (addr i)) i)) ∧
    (∀ v u, s.loadElem et (addr i) i = .ok v u →
      s.loadElems et addr first (i :: rest) acc = u.loadElems et addr first rest (acc ++ [(i, v)])) ∧
    s.loadElems et addr first [] acc = .ok (acc, none) s)

/-- R124, R440, R441: VST and VSTX convert their active elements and put them in the strip store buffer in ascending order at the
addresses of R438, each block's scale byte after the block; their flags are raised by element, and no byte of memory changes. R66, R186,
R441: an element stored is checked as a write and its bytes take their place in the strip store buffer; a 4-bit element merges its own
nibble; an element that faults is the instruction's fault, with TELEM the element. The model's own readings in it, which no rule fixes:
log entries 8, 21, and 80 for the invalid flag under a NaN scale. -/
def Obligations.VectorStores : Prop :=
  (∀ (s : State), s.steady = true → ∀ (va vo : View) (xs r : Reg) (ad : StoreAddr) (cv : VConv),
    let t := s.openStrip.me
    let e := drainEt cv
    let small := cv.et = .int4 ∨ cv.et = .e2m1
    let size : Int := match cv.et with
      | .int16 => 2 | .fp16 => 2 | .bf16 => 2 | .fp32 => 4 | .int32 => 4 | .fp64 => 8 | .int64 => 8 | .acc40 => 5 | _ => 1
    let base := s.x xs
    let strided := fun (stride : Word) (i : Nat) => if small then wrap (base.toNat + (i / 2 : Nat))
      else wrap (base.toNat + (i : Int) * (if stride = 0 then size else stride.toInt))
    let stores := fun (i : Instr) (srcs : List (View × Et)) (addr : State → Nat → Nat) (scale : Option Word) =>
      ∀ u u1 : State,
        let x := fun (j : Nat) => readExact u.myCore u.cur.2 t va e j
        let ons := (List.range 128).filter fun j => t.active cv.mask j && (x j).isOn && (srcs.drop 1).all fun v => (viewCell t v.1 .i j).isSome
        let block := fun (b : Nat) => scale.map fun _ => mxScale (mxEmax cv.et) ((ons.filter fun j => j / 32 == b).map fun j => (x j).toNum)
        let res := fun (j : Nat) => convert cv (rctx cv.rm t.arith t.srseed (t.sbase + BitVec.ofNat 64 j)) (block (j / 32)) (x j)
        s.openStrip.vectorReady srcs none (t.active cv.mask) (fun _ => false) = .ok () u →
        (u.popAll t.vl (popList srcs)).storeElems cv.et (addr u) (fun j => (res j).1)
          (fun b => scale.bind fun sa => (block b).map fun v => (wrap (sa.toNat + b), v)) ons = .ok () u1 →
        Completes s i (u1.raiseAll (ons.map fun j => (j, (res j).2))) ∧ ∀ a, u1.byte a = u.byte a
    (small → r ≠ 0 → s.x r ≠ 0 → Faults s (.vst va xs (.stride r) cv) s.openStrip .illegal 0 0) ∧
    (ad = .stride r → ¬(small ∧ r ≠ 0 ∧ s.x r ≠ 0) → stores (.vst va xs ad cv) [(va, e)] (fun _ => strided (s.x r)) none) ∧
    (ad = .scale r → stores (.vst va xs ad cv) [(va, e)] (fun _ => strided 0) (some (s.x r))) ∧
    stores (.vstx va xs vo cv) [(va, e), (vo, .i)]
      (fun u j => wrap (base.toNat + (readView u.myCore u.cur.2 t vo .i j).toInt)) none) ∧
  (∀ (s : State) (et : ElemType) (va i v : Nat), et ≠ .acc40 →
    let n := elemBytes et
    (∀ c u, s.access s.who va n .write true = .fault c u → s.storeElem et va i v = .stop (faulty c u (BitVec.ofNat 64 va) i)) ∧
    ∀ pa u b, s.access s.who va n .write true = .ok pa u →
      let bytes := if elemBits et = 4 then [(pa, if i % 2 = 1 then v % 16 * 16 else v % 16, if i % 2 = 1 then 240 else 15)]
        else byteList (span pa n) v
      bufferAll (u.roomTaken - u.me.strip.buf.length) bytes u.me.strip.buf = some b →
      ∃ u1, s.storeElem et va i v = .ok () u1 ∧ u1.me.strip.buf = b ∧ u1.me.strip.pushes = u.me.strip.pushes ∧
        (∀ a, u1.byte a = u.byte a) ∧ u1.me.visible = u.me.visible)

/-- R211, R432, R433: VATOM checks every element's atomic first, then performs them one at a time in element order, the scope and order on
each, and writes the old values to the view; FADD's flags are raised at the end. R213, R214, R442, R443: VWAIT returns at once where its
condition holds (any element, or all), with the mask of the elements that satisfy their comparison, the memory value on the left; else it
waits. A timeout that has run out ends the wait; an evaluation ends it where the condition then holds. Elements are at this node. The
model's own readings in it, which no rule fixes: log entries 8, 28. -/
def Obligations.VectorAtomicsAndWaits : Prop :=
  (∀ (s s1 : State) (op : AmoOp) (et : ElemType) (o : MemOrder) (sc : Scope) (vd va vb : View) (xs : Reg) (p : VPol),
    let i := Instr.vatom op et o sc vd xs va vb p
    s.entered i = some s1 →
    let t := s1.me
    let e : Et := if et = .fp32 then .f else .i
    let n := elemBytes et
    ∀ (u u1 u3 : State) (l : List (Nat × Nat)),
      let data := fun (j : Nat) => (match vb with
        | .x r => (t.getX r).toNat
        | v => match readView u.myCore u.cur.2 t v e j with
          | .num x => (roundFloat .rne .fp32 false x).1
          | x => (BitVec.ofInt 64 x.toInt).toNat) % 2 ^ (8 * n)
      let on := fun (j : Nat) => t.active p.mask j && (viewCell t vd e j).isSome && (readView u.myCore u.cur.2 t va .i j).isOn &&
        (readView u.myCore u.cur.2 t vb e j).isOn
      let addr := fun (j : Nat) => wrap ((s1.x xs).toNat + (readView u.myCore u.cur.2 t va .i j).toInt)
      s1.vectorReady [(va, .i), (vb, e)] (some (vd, e)) (t.active p.mask) (fun j => t.active p.mask j || p.mz) = .ok () u →
      u.atomicPlaces n addr ((List.range 128).filter on) = .ok l u1 → (∀ x, x ∈ l → ∀ k a, area x.2 ≠ .remote k a) →
      let one := fun (r : State × List (Nat × Nat)) (x : Nat × Nat) =>
        let old := r.1.bytes x.2 n
        let w := r.1.syncRead (r.1.relsAt x.2 n) o.acquires sc
        ((w.setBytes x.2 n (amoValue op (8 * n) old (data x.1)).1).addRels x.2 n (w.relsOf o.releases sc), r.2 ++ [(x.1, old)])
      let done := l.foldl one (u1, [])
      let given := fun (v : Nat) => match et with
        | .fp32 => (roundFloat .rne .fp32 false (FloatFmt.fp32.value v)).1
        | .int64 => v % 2 ^ 40
        | .uint8 => v
        | _ => (BitVec.ofInt 40 (sInt (elemBits et) v)).toNat
      let touched := done.2.foldl (fun u x => u.touch ⟨BitVec.ofNat 64 (addr x.1), n, x.1, true, true, 0⟩) done.1
      touched.newRegion.writeView vd e p.mz (fun j => (mfind j done.2).map given) = .ok () u3 →
      Completes s i (u3.modMe fun t => done.2.foldl (fun t x => t.raise (amoValue op (8 * n) x.2 (data x.1)).2) t)) ∧
  (∀ (s s1 : State) (cond : ICond) (all wide : Bool) (sc : Scope) (md mk : MReg) (xt xs : Reg) (va vb : View),
    let i := Instr.vwait cond all wide sc md xt xs va vb mk
    let n := if wide then 8 else 4
    let holds := fun (u : State) (w : Watched) => match u.peek u.who w.addr .read with
      | none => false
      | some pa =>
        let v := BitVec.ofNat (8 * n) (u.bytes pa n)
        let x := BitVec.ofNat (8 * n) w.expected
        match cond with
        | .eq => v == x | .ne => v != x | .lt => v.slt x | .ge => x.sle v | .ltn => v.ult x | .gen => x.ule v
    let here := fun (u : State) (l : List Watched) => ∀ w, w ∈ l → ∃ pa, u.peek u.who w.addr .read = some pa ∧ u.farFrozen pa = false ∧
      u.underTest (dieOf u.cur.1) pa = false ∧ ∀ k a, area pa ≠ .remote k a
    -- an element that has just been read: known, with the releases at its bytes
    let read := fun (u : State) (w : Watched) => match u.peek u.who w.addr .read with
      | some pa => { w with known := true, rels := u.relsAt pa n }
      | none => w
    let returns := fun (u : State) (l : List Watched) => l = [] ∨ if all then ∀ w, w ∈ l → holds u w = true else ∃ w, w ∈ l ∧ holds u w = true
    (s.entered i = some s1 → ∀ u u1 : State,
      let l := u.watchList wide xs va vb mk
      s1.vectorReady [(va, .i), (vb, .i)] none (s1.me.active mk) (fun _ => false) = .ok () u → u.watchChecks n l = .ok () u1 → here u1 l →
      (returns u1 l → Completes s i (u1.watchDone n sc md (l.map (read u1)) ((l.filter (holds u1)).map (·.elem)))) ∧
      (¬returns u1 l → ∃ t w, exec i s = .next t ∧ t.me.wait = some w ∧ w.kind = .vwait ∧ w.instr = i ∧ w.obj = (u.x xt).toNat ∧ w.watch = l.map (read u1) ∧
        w.others = (l.filter (holds u1)).map (·.elem) ∧ ∀ a, t.byte a = u1.byte a)) ∧
    (∀ c k w, s.waitsFor c k .vwait w → w.instr = i →
      let u := { s with cur := (c, k) }
      let l := w.watch
      here u l →
      let ends := fun (event : Instr) => Resumes s event c k i (u.watchDone n sc md (l.map (read u)) ((l.filter (holds u)).map (·.elem)))
      (w.obj ≠ 0 → w.obj ≤ w.cycles → ends (.vwaitTimeout c k)) ∧
      (w.again = true → returns u l → ∀ e, ends (.vwaitReevaluate c k e)) ∧
      ∀ x, x ∈ l → w.again = false → holds u x = true → (all = false ∨ ∀ y, y ∈ l → y.elem = x.elem ∨ y.elem ∈ w.others) →
        Resumes s (.vwaitReevaluate c k x.elem) c k i (u.watchDone n sc md
          (l.map fun y => if y.elem = x.elem then read u y else y)
          ((l.filter fun y => if y.elem = x.elem then holds u y else w.others.contains y.elem).map (·.elem)))))

/-! Crossings, junctions, barriers and meetings, with the events that end their waits. -/

/-- R76, R77: where no other track waits for the same on the queue, CROSS.POST adds xa (above 255 ILLEGAL) and waits for room, CROSS.TAKE
takes one and waits for a counter that is not zero; a post's releases are what a take acquires, at core scope. The oldest post, and the
oldest take, that waits goes on once it can, and does the same; a younger one waits on. The model's own readings in it, which no rule
fixes: log entries 11, 28. -/
def Obligations.Crossings : Prop :=
  ∀ (s s1 : State) (q : Q8) (a d : Reg),
    let count := fun (u : State) => mget 0 q.val u.myCore.cross
    let others := fun (u : State) (k : WaitKind) (f : Wait → Prop) =>
      ∀ n t, (n, t) ∈ u.myCore.tracks → n ≠ u.cur.2 → ∀ w, t.wait = some w → w.kind = k → w.obj = q.val → f w
    let posted := fun (u : State) => (u.modMyCore fun k =>
      { k with cross := mput q.val (mget 0 q.val k.cross + (u.x a).toNat) k.cross
               crossRels := mupd [] q.val (fun l => addPending l (u.relsOf true .core)) k.crossRels }).newRegion
    let taken := fun (u : State) => ((u.syncRead (mget [] q.val u.myCore.crossRels) true .core).modMyCore fun k =>
      { k with cross := mput q.val (count u - 1) k.cross
               crossRels := if u.relsOf false .core = [] then k.crossRels
                 else mupd [] q.val (fun l => addPending l (u.relsOf false .core)) k.crossRels }).newRegion.setX d (BitVec.ofNat 64 (count u - 1))
    (s.entered (.crossPost q a) = some s1 →
      (255 < (s1.x a).toNat → Faults s (.crossPost q a) s1 .illegal 0 0) ∧
      (count s1 + (s1.x a).toNat ≤ 255 → others s1 .crossPost (fun _ => False) → Completes s (.crossPost q a) (posted s1)) ∧
      ((s1.x a).toNat ≤ 255 → 255 < count s1 + (s1.x a).toNat → Waits s (.crossPost q a) s1 .crossPost q.val)) ∧
    (s.entered (.crossTake d q) = some s1 →
      (count s1 = 0 → Waits s (.crossTake d q) s1 .crossTake q.val) ∧
      (count s1 ≠ 0 → others s1 .crossTake (fun _ => False) → Completes s (.crossTake d q) (taken s1))) ∧
    ∀ c n w, let u := { s with cur := (c, n) }
      (s.waitsFor c n .crossPost w → w.obj = q.val → w.instr = .crossPost q a → (u.x a).toNat ≤ 255 →
        (count u + (u.x a).toNat ≤ 255 → others u .crossPost (fun w' => w.seq < w'.seq) →
          Resumes s (.crossPostWake c n) c n w.instr (posted u)) ∧
        (¬others u .crossPost (fun w' => w.seq < w'.seq) → ∃ t, exec (.crossPostWake c n) s = .next t ∧ t.me.wait = some { w with issued := true } ∧ t.myCore.cross = u.myCore.cross)) ∧
      (s.waitsFor c n .crossTake w → w.obj = q.val → w.instr = .crossTake d q →
        (count u ≠ 0 → others u .crossTake (fun w' => w.seq < w'.seq) → Resumes s (.crossTakeWake c n) c n w.instr (taken u)) ∧
        (¬others u .crossTake (fun w' => w.seq < w'.seq) → ∃ t, exec (.crossTakeWake c n) s = .next t ∧ t.me.wait = some { w with issued := true } ∧ t.myCore.cross = u.myCore.cross))

/-- R195: an addition to a junction in memory here moves its count and phase as the rule says and no other byte. R195, R383 to R386: the
junction instructions: JCT.INIT sets count and expected, JCT.ADD adds xb and releases, JCT.TEST reads the phase, JCT.WAIT waits while it
is xb<31:0>; both acquire what was released up to the phase's flip. At a junction of another node its home does it, and the track waits
for the answer. The model's own readings in it, which no rule fixes: log entries 8, 14, 28, 58. -/
def Obligations.Junctions : Prop :=
  (∀ (s : State) (ctx pa units : Nat) (r : Rel), s.memWf = true → pa % 64 = 0 →
    let count := s.bytes pa 8
    let expected := s.bytes (pa + 8) 8
    let phase := s.bytes (pa + 16) 4
    let total := min (count + units) (2 ^ 64 - 1)
    let t := s.addUnits ctx pa units r
    (expected = 0 ∨ total < expected → t.bytes pa 8 = total ∧ t.bytes (pa + 16) 4 = phase) ∧
    (expected ≠ 0 → expected ≤ total →
      t.bytes pa 8 = total % expected ∧ t.bytes (pa + 16) 4 = (phase + total / expected) % 2 ^ 32) ∧
    t.bytes (pa + 8) 8 = expected ∧
    ∀ a, (∀ i, i < 24 → s.loc a ≠ s.loc (pa + i)) → t.byte a = s.byte a) ∧
  (∀ (s s1 u : State) (a b d : Reg) (sc : Scope) (pa : Nat),
    let reached := fun (i : Instr) => s.entered i = some s1 ∧ s1.jctFind s1.who (s1.x a).toNat = .ok pa u
    let found := fun (i : Instr) => reached i ∧ ∀ k o, area pa ≠ .remote k o
    let observed := fun (u : State) =>
      (u.syncRead (mget {} (u.loc pa) u.jcts).flipped true sc).newRegion.setX d (BitVec.ofNat 64 (u.bytes (pa + 16) 4))
    -- a phase answered by another node: what its additions released up to that phase is acquired
    let observedFar := fun (v : State) (p : Nat) =>
      let l := (mget {} (v.loc pa) v.jcts).far.filter fun e => decide ((p + 2 ^ 32 - e.1) % 2 ^ 32 < 2 ^ 31)
      (v.syncRead (l.map (·.2)) true sc).newRegion.setX d (BitVec.ofNat 64 (p % 2 ^ 32))
    (found (.jctInit a b) → Completes s (.jctInit a b) ((u.setBytes pa 8 0).setBytes (pa + 8) 8 (s1.x b).toNat).newRegion) ∧
    (found (.jctAdd a b sc) → Completes s (.jctAdd a b sc)
      ((u.jctNote pa (u.relsOf false sc)).addUnits u.me.ctxid pa (s1.x b).toNat ⟨.core u.cur.1, sc, u.who.released⟩).newRegion) ∧
    (found (.jctTest d a sc) → Completes s (.jctTest d a sc) (observed u)) ∧
    (found (.jctWait d a b sc) →
      let seen := (s1.x b).toNat % 2 ^ 32
      (u.bytes (pa + 16) 4 ≠ seen → Completes s (.jctWait d a b sc) (observed u)) ∧
      (u.bytes (pa + 16) 4 = seen → Waits s (.jctWait d a b sc) u .junction pa)) ∧
    (∀ i op units, (i, op, units) ∈ [(Instr.jctInit a b, 17, (s1.x b).toNat), (.jctAdd a b sc, 16, (s1.x b).toNat), (.jctTest d a sc, 18, 0),
        (.jctWait d a b sc, 18, 0)] → reached i → (∃ k o, area pa = .remote k o) →
      (∀ v, u.ask u.cur.1 u.cur.2 pa 5 (jctWire op units) = (none, v) →
        Waits s i (v.askRels v.cur.1 v.cur.2 pa (if op = 16 then s1.relsOf true sc else [])) .remote 0) ∧
      ∀ l v, u.ask u.cur.1 u.cur.2 pa 5 (jctWire op units) = (some l, v) →
        let seen := (s1.x b).toNat % 2 ^ 32
        (i = .jctInit a b ∨ i = .jctAdd a b sc → Completes s i v.newRegion) ∧
        (i = .jctTest d a sc → Completes s i (observedFar v (ofBytes l))) ∧
        (i = .jctWait d a b sc → (ofBytes l % 2 ^ 32 ≠ seen → Completes s i (observedFar v (ofBytes l))) ∧
          (ofBytes l % 2 ^ 32 = seen → Waits s i (v.asked v.cur.1 v.cur.2) .junction pa))) ∧
    (∀ i c v, i ∈ [Instr.jctInit a b, .jctAdd a b sc, .jctTest d a sc, .jctWait d a b sc] → s.entered i = some s1 →
      s1.jctFind s1.who (s1.x a).toNat = .fault c v → Faults s i v c (s1.x a) 0) ∧
    (∀ i k v, i ∈ [Instr.jctInit a b, .jctAdd a b sc, .jctTest d a sc, .jctWait d a b sc] → s.entered i = some s1 →
      s1.jctFind s1.who (s1.x a).toNat = .wait k v → Waits s i v k 0) ∧
    ∀ c n w v, s.waitsFor c n .junction w → w.instr = .jctWait d a b sc →
      let r := { s with cur := (c, n) }
      r.jctFind r.who (r.x a).toNat = .ok pa v → (∀ k o, area pa ≠ .remote k o) → v.bytes (pa + 16) 4 ≠ (r.x b).toNat % 2 ^ 32 →
      Resumes s (.jctWaitReturn c n) c n w.instr (observed v))

/-- R206, R216 to R220, R346, R347: the barrier instructions at an object that the checks find. R218, R219: an arrival that reaches
`members` completes the phase: arrived 0, phase one more, and the arrivals of the phase join those of the earlier ones; BAR.LEAVE takes
one from members, and completes the phase where the arrivals have then reached members above 0. The waits for a phase end when it is over,
or the barrier is broken; a break gives every waiting BAR.WAIT BROKEN, whatever follows. The model's own readings in it, which no rule fixes: log entries 11, 12, 13, 14, 28. -/
def Obligations.Barriers : Prop :=
  (∀ (s s1 u : State) (a b d : Reg) (sc : Scope) (pa : Nat),
    let found := fun (i : Instr) => s.entered i = some s1 ∧ s1.objFind (s1.x a) = .ok pa u
    let marked := u.barLine pa = true ∧ u.poisoned pa = false
    let members := u.bytes pa 4
    let phase := u.bytes (pa + 8) 4
    let broken := u.bytes (pa + 12) 1 % 2 = 1
    let record := u.me.barriers.find? fun x => x.1 == pa
    let xd := fun (v : State) (n : Nat) => v.newRegion.setX d (BitVec.ofNat 64 n)
    let forms := [Instr.barArrive d a, .barWait d a b, .barLeave a, .barReset d a]
    (∀ i, i ∈ forms ++ [Instr.barJoin a] → found i → u.barLine pa = false → Faults s i u .protect (s1.x a) 0) ∧
    (∀ i, i ∈ forms → found i → marked → record = none → Faults s i u .gang (s1.x a) 0) ∧
    (found (.barJoin a) → marked →
      (u.me.trip.bind (·.gang) = none → Faults s (.barJoin a) u .gang (s1.x a) 0) ∧
      ∀ g, u.me.trip.bind (·.gang) = some g →
        let gang := u.bytes (pa + 16) 8
        (gang ≠ 0 → gang ≠ gangId g → Faults s (.barJoin a) u .gang (s1.x a) 0) ∧
        (gang = 0 ∨ gang = gangId g → (4 ≤ u.me.barriers.length ∨ record ≠ none) → Faults s (.barJoin a) u .illegal 0 0) ∧
        (gang = 0 ∨ gang = gangId g → u.me.barriers.length < 4 → record = none → Completes s (.barJoin a)
          (((u.setBytes (pa + 16) 8 (gangId g)).setBytes pa 4 (members + 1)).newRegion.modMe fun t => { t with barriers := t.barriers ++ [(pa, none)] }))) ∧
    (∀ x, marked → record = some x →
      (found (.barArrive d a) →
        let arrived := u.bytes (pa + 4) 4 + 1
        let rels := u.relsOf true (u.barScope pa)
        let bar := mget ({} : BarObj) pa u.bars
        let seen := fun (v : State) => v.syncRead bar.past false (u.barScope pa)
        let v := ((((seen { u with bars := mput pa { bar with current := rels ++ bar.current } u.bars }).setBytes (pa + 4) 4 arrived).modMe fun t =>
            { t with barriers := t.barriers.map fun (y : Nat × Option Nat) => if y.1 = pa then (pa, some phase) else y }).emitCore u.cur.1 8 0 u.me.ctxid
          (BitVec.ofNat 64 pa))
        (broken → Completes s (.barArrive d a) (xd (seen u) phase)) ∧
        (¬broken → x.2 = some phase → Waits s (.barArrive d a) u .barrierNext pa) ∧
        (¬broken → x.2 ≠ some phase → Completes s (.barArrive d a)
          (xd (if v.bytes pa 4 ≤ arrived then v.barComplete v.me.ctxid pa else v) phase))) ∧
      (found (.barWait d a b) →
        let seen := (s1.x b).toNat % 2 ^ 32
        (broken → Completes s (.barWait d a b) (xd u 1)) ∧
        (¬broken → phase = seen → Waits s (.barWait d a b) u .barrier pa) ∧
        (¬broken → phase ≠ seen →
          Completes s (.barWait d a b) (xd (u.syncRead (mget {} pa u.bars).past true (u.barScope pa)) 0))) ∧
      (found (.barLeave a) → Completes s (.barLeave a) ((u.barWithdraw u.me.ctxid pa (u.relsOf false (u.barScope pa))).newRegion.modMe fun t =>
        { t with barriers := t.barriers.filter fun y => y.1 != pa })) ∧
      (found (.barReset d a) → Completes s (.barReset d a)
        (let v := (u.setBytes (pa + 12) 1 0).setBytes (pa + 4) 4 0
         xd { v with bars := mupd ({} : BarObj) pa (fun b => { b with current := [] }) v.bars } 0))) ∧
    (found (.barResetI d a sc) →
      (u.meetLine pa = true → Faults s (.barResetI d a sc) u .protect (s1.x a) 0) ∧
      (u.meetLine pa = false → u.poisoned pa = false →
        let v := u.mark pa 1 true
        (members ≠ 0 → Completes s (.barResetI d a sc) (xd { v with bars := mupd {} pa id v.bars } 1)) ∧
        (members = 0 → Completes s (.barResetI d a sc)
          (let v := (v.setBytes pa 64 0).setBytes (pa + 13) 1 sc.code
           xd { v with bars := mput pa ({} : BarObj) v.bars } 0))))) ∧
  (∀ (s : State) (ctx pa : Nat) (rels : List Rel), s.memWf = true → pa % 64 = 0 →
    let b := mget ({} : BarObj) pa s.bars
    let t := s.barComplete ctx pa
    (t.bytes (pa + 4) 4 = 0 ∧ t.bytes (pa + 8) 4 = (s.bytes (pa + 8) 4 + 1) % 2 ^ 32 ∧ t.bytes pa 4 = s.bytes pa 4 ∧
      t.bytes (pa + 12) 4 = s.bytes (pa + 12) 4 ∧ mget ({} : BarObj) pa t.bars = { current := [], past := b.current ++ b.past }) ∧
    (let n := s.bytes pa 4 - 1
     let v := s.setBytes pa 4 n
     s.barWithdraw ctx pa rels = if 0 < n ∧ n ≤ v.bytes (pa + 4) 4 then
       { v with bars := mupd {} pa (fun b => { b with current := rels ++ b.current }) v.bars }.barComplete ctx pa else v) ∧
    (let t := s.breakBarrier ctx pa
     t.bytes (pa + 12) 1 = 1 ∧ ∀ c n w, (s.core c).frozen = false → (s.track c n).wait = some w → w.kind = .barrier → w.obj = pa →
      (t.track c n).wait = some { w with verdict := some 1 }) ∧
    (∀ (c n : Nat) (w : Wait) (a d r : Reg) (v : Nat), s.waitsFor c n .barrier w → w.instr = .barWait d a r → w.verdict = some v →
      Resumes s (.barWaitReturn c n) c n w.instr (({ s with cur := (c, n) } : State).newRegion.setX d (BitVec.ofNat 64 v))) ∧
    ∀ (c n : Nat) (w : Wait) (a d r : Reg) (u : State) (x : Nat × Option Nat), let s' := { s with cur := (c, n) }
      w.verdict = none → s'.objFind (s'.x a) = .ok pa u → u.barLine pa = true → u.poisoned pa = false → (u.me.barriers.find? fun x => x.1 == pa) = some x →
      (s.waitsFor c n .barrier w → w.instr = .barWait d a r →
        (u.bytes (pa + 12) 1 % 2 = 1 → Resumes s (.barWaitReturn c n) c n w.instr (u.newRegion.setX d 1)) ∧
        (u.bytes (pa + 12) 1 % 2 = 0 → u.bytes (pa + 8) 4 ≠ (s'.x r).toNat % 2 ^ 32 →
          Resumes s (.barWaitReturn c n) c n w.instr ((u.syncRead (mget {} pa u.bars).past true (u.barScope pa)).newRegion.setX d 0))) ∧
      (s.waitsFor c n .barrierNext w → w.instr = .barArrive d a → u.bytes (pa + 12) 1 % 2 = 0 → x.2 ≠ some (u.bytes (pa + 8) 4) →
        ∃ v, Resumes s (.barArriveNextPhase c n) c n w.instr v ∧ v.x d = if d = 0 then 0 else BitVec.ofNat 64 (u.bytes (pa + 8) 4)))

/-- R222, R395, R396: MEET.OPEN at an object in the sync window that is no barrier, with a descriptor that can be read: BUSY for an open
object, FIELD for a descriptor against R221, else the object opens afresh at round 0. R223 to R225, R228, R395 to R397: MEET.SLOT,
MEET.ARRIVE, MEET.WAIT, MEET.REJOIN and MEET.CLOSE at an object whose home is here, with the waits' ends: the slot's address, an arrival's
class by its lag, a round's result, the open round, and the close, which gives CLOSED to the forms that wait. The model's own readings in
it, which no rule fixes: log entries 11, 13, 14, 28, 77. -/
def Obligations.Meetings : Prop :=
  (∀ (s s1 u v : State) (d a b : Reg) (pa w : Nat), s.entered (.meetOpen d a b) = some s1 → s1.objFind (s1.x a) = .ok pa u →
    let i := Instr.meetOpen d a b
    let xb := s1.x b
    u.backed (pa + 64) true = true →
    (xb.toNat % 64 ≠ 0 → Faults s i u .align xb 0) ∧
    (xb.toNat % 64 = 0 → execMeetOpen.readDescriptor u xb.toNat 16 = .ok w v →
      (v.barLine pa = true ∨ v.barLine (pa + 64) = true → Faults s i v .protect (s1.x a) 0) ∧
      (v.barLine pa = false → v.barLine (pa + 64) = false → v.poisoned pa = false → v.poisoned (pa + 64) = false →
        let isOpen := (v.meet pa).status % 2 = 1
        (isOpen → Completes s i (v.newRegion.setX d 1)) ∧
        (¬isOpen → descriptorBad w = true → Completes s i (v.newRegion.setX d 2)) ∧
        (¬isOpen → descriptorBad w = false → ∃ t : State, Completes s i (t.setX d 0) ∧
          (t.meet pa).record = w ∧ (t.meet pa).round = 0 ∧ (t.meet pa).status % 4 = 1 ∧ (t.meet pa).lapsed = [] ∧ (t.meet pa).ontime = [] ∧
          (t.meet pa).late = [] ∧ (t.meet pa).expected = [] ∧ (t.meet pa).rounds = [] ∧ (t.meet pa).written = [] ∧
          t.isMarked pa = true)))) ∧
  (∀ (s s1 : State) (d a b : Reg) (pa : Nat),
    let xb := s1.x b
    let m : Nat := xb.toNat % 512
    let t : Nat := xb.toNat / 2 ^ 32
    let xd := fun (v : State) (n : Nat) => v.newRegion.setX d (BitVec.ofNat 64 n)
    -- what a form does in the state `u` at the object, issued or woken
    let slot := fun (u : State) (ends : State → Prop) (waits : Prop) =>
      let o := u.meet pa
      let closed := o.status / 2 % 2 = 1
      (closed → ends (xd u 3)) ∧ (¬closed → (∀ x, x ∈ o.sent → x.1 ≠ m) → o.holds m = false →
        ends (xd u (wrap (o.field 0x58 8 + (2 * m + t % 2) * o.field 0x60 8)))) ∧
      (¬closed → (o.holds m = true ∨ ∃ x, x ∈ o.sent ∧ x.1 = m) → waits)
    let waiting := fun (u : State) (o : MeetObj) (ends : State → Prop) (waits : Prop) =>
      (∀ r, (o.written.find? fun r => r.1 == t) = some r →
        (t + 3 ≤ o.round → ends (xd u 4)) ∧ (o.round < t + 3 → ends (xd (u.syncRead r.2 true .system) 0))) ∧
      ((o.written.find? fun r => r.1 == t) = none → o.status / 2 % 2 = 1 → (∀ r, r ∈ o.rounds → r.round ≠ t) → o.due ≤ t → ends (xd u 3)) ∧
      ((o.written.find? fun r => r.1 == t) = none → (o.status / 2 % 2 = 0 ∨ (∃ r, r ∈ o.rounds ∧ r.round = t) ∨ t < o.due) → waits)
    let arrives := fun (u : State) (ends : State → Prop) (waits illegal : Prop) =>
      let o := u.meet pa
      let closed := o.status / 2 % 2 = 1
      let rel : Rel := ⟨.core u.cur.1, .system, u.who.released⟩
      (closed → (o.isProxy = false ∨ u.homeAnswered = false) → ends (xd u 3)) ∧
      (¬closed → o.isProxy = false → (o.round = t → u.arrivalTurn pa = true) → (o.holds m = true ∨ t < mget 0 m o.expected) → illegal) ∧
      (¬closed → o.isProxy = false → o.round = t → u.arrivalTurn pa = false → waits) ∧
      (¬closed → o.isProxy = false → o.holds m = false → mget 0 m o.expected ≤ t →
        (o.round = t → u.arrivalTurn pa = true) →
        let noted := u.emitAt rel.loc 0xC 0 o.ctx (BitVec.ofNat 64 (t * 2 ^ 32 + m))
        let o' := { o with expected := mput m (t + 1) o.expected }
        let c := fun (lag : Nat) => (⟨m, t, lag, rel, none⟩ : Contrib)
        let done := fun (v : State) (status : Nat) => ends (xd v status)
        (o.lapsed.contains m = true → done u 2) ∧
        (o.lapsed.contains m = false →
          (o.round < t → waits) ∧
          (t = o.round → done ((noted.setMeet pa { o' with ontime := o.ontime ++ [c 0] }).quorumTest pa) 0) ∧
          (t < o.round → o.round - t ≤ o.limit → done (noted.setMeet pa { o' with late := o.late ++ [c (o.round - t)] }) 1) ∧
          (t < o.round → o.limit < o.round - t →
            done ((noted.setMeet pa { o with lapsed := insertNat m o.lapsed }).quorumTest pa) 2)))
    (∀ u, s1.objFind (s1.x a) = .ok pa u → u.backed (pa + 64) true = true → u.barLine pa = false → u.barLine (pa + 64) = false →
      let o := u.meet pa
      let closed := o.status / 2 % 2 = 1
      mhas pa u.meets = true → u.bytes (pa + 0x14) 1 % 4 ≠ 0 → u.poisoned pa = false → u.poisoned (pa + 64) = false →
      (∀ i, i ∈ [Instr.meetSlot d a b, .meetArrive d a b, .meetWait d a b, .meetRejoin d a b] → s.entered i = some s1 → s1.verdict i = none →
        let member := xb.toNat / 2 ^ 9 % 2 ^ 23 = 0 ∧ m < o.n
        (¬member → Faults s i u .illegal 0 0) ∧
        (member →
          (i = .meetSlot d a b → slot u (Completes s i) (Waits s i u .meetSlot pa)) ∧
          (i = .meetArrive d a b → arrives u (Completes s i) (Waits s i u .meetArrive pa) (Faults s i u .illegal 0 0)) ∧
          (i = .meetWait d a b →
            (closed → t ∉ o.atClose → Completes s i (xd u 3)) ∧
            (¬closed ∨ t ∈ o.atClose → waiting u o (Completes s i) (Waits s i u .meetWait pa))) ∧
          (i = .meetRejoin d a b → (closed → (o.isProxy = false ∨ u.homeAnswered = false) → Completes s i (xd u 3)) ∧
            (¬closed → o.isProxy = false → Completes s i (xd (if o.lapsed.contains m then u.setMeet pa
              { o with lapsed := o.lapsed.filter (· ≠ m), expected := mput m o.round o.expected } else u) o.round))))) ∧
      (s.entered (.meetClose a) = some s1 → (o.isProxy = false ∨ o.status % 2 = 0) →
        Completes s (.meetClose a) ((if o.status % 2 = 1 then u.meetShut pa else u).mark pa 2 false).newRegion)) ∧
    ∀ c n k w, s.waitsFor c n k w → s1 = { s with cur := (c, n) } → w.obj = pa →
      (k = .meetSlot → w.instr = .meetSlot d a b → w.verdict = none →
        slot s1 (Resumes s (.meetSlotReturn c n) c n w.instr) True) ∧
      (k = .meetArrive → w.instr = .meetArrive d a b → w.verdict = none → arrives s1 (Resumes s (.meetArriveReclassify c n) c n w.instr) True True) ∧
      (k = .meetWait → w.instr = .meetWait d a b → w.verdict = none →
        (w.meeting = none → waiting s1 (s1.meet pa) (Resumes s (.meetWaitReturn c n) c n w.instr) True) ∧
        ∀ agent, w.meeting = some agent → waiting s1 (s1.meetBy pa agent) (Resumes s (.meetWaitReturn c n) c n w.instr) True) ∧
      ∀ x, w.verdict = some x →
        (k = .meetSlot → w.instr = .meetSlot d a b → Resumes s (.meetSlotReturn c n) c n w.instr (xd s1 x)) ∧
        (k = .meetArrive → w.instr = .meetArrive d a b → Resumes s (.meetArriveReclassify c n) c n w.instr (xd s1 x)) ∧
        (k = .meetWait → w.instr = .meetWait d a b → Resumes s (.meetWaitReturn c n) c n w.instr (xd s1 x))) ∧
  (∀ (s : State) (pa : Nat), (∀ e, e ∈ s.oldMeets → e.1 ≠ pa) →
    let o := s.meet pa
    let o' := (s.meetShut pa).meet pa
    o'.status % 2 = 0 ∧ o'.status / 2 % 2 = 1 ∧ o'.ontime = [] ∧ o'.late = [] ∧ o'.rounds = o.rounds ∧ o'.round = o.round ∧
    ∀ c n w d a b, (s.core c).frozen = false → (s.track c n).wait = some w → w.obj = pa → w.verdict = none → w.meeting = none →
      (w.instr = .meetSlot d a b ∨ w.instr = .meetArrive d a b ∨ w.instr = .meetRejoin d a b) →
      ((s.meetShut pa).track c n).wait = some { w with verdict := some 3 })

/-- R225: a round closes when the on-time arrivals reach min(k, members not lapsed) and that is 1 or more: its contributions wait to be
combined in member order, then the late ones in tag and member order, the round moves on, and members too far behind lapse; past the last
round the meeting closes instead. R226 to R228, R230: where no meeting opened before it at the object is still to be combined, the
combiner takes the oldest closed round, reads its contributions in that order, delivers its result to the buffer of the round's parity and
its bytes to the junction, and notes it as written; a fault of it closes the meeting with its fault bit set and is reported. Element `j`
of the result is made of element `j` of each contribution: the sum from the first value on, each further one weighted and rounded once,
the mean the sum over one more than the further weights, the maximum the largest. A notice closes
a proxy, or says that a closed one has no more results to come. The model's own readings in it, which no rule fixes: log entry 14. -/
def Obligations.MeetingRounds : Prop :=
  (∀ (s : State) (pa : Nat),
    let o := s.meet pa
    let q := min o.k (o.n - o.lapsed.length)
    let t := s.quorumTest pa
    (q = 0 ∨ o.ontime.length < q → t = s) ∧
    (1 ≤ q → q ≤ o.ontime.length → o.round + 1 < 2 ^ 32 →
      let o' := t.meet pa
      o'.round = o.round + 1 ∧ o'.ontime = [] ∧ o'.late = [] ∧ o'.expected = o.expected ∧ o'.written = o.written ∧ o'.status = o.status ∧
      (∀ m, m ∈ o'.lapsed ↔ m < o.n ∧ (o.limit < o.round + 1 - mget 0 m o.expected ∨ m ∈ o.lapsed)) ∧
      ∃ r, o'.rounds = o.rounds ++ [r] ∧ r.round = o.round ∧ r.ontime.Perm o.ontime ∧ r.late.Perm o.late ∧
        r.ontime.Pairwise (fun x y => x.member ≤ y.member) ∧
        ((∀ c, c ∈ o.late → c.member < 512) → r.late.Pairwise fun x y => x.tag < y.tag ∨ (x.tag = y.tag ∧ x.member ≤ y.member))) ∧
    (1 ≤ q → q ≤ o.ontime.length → 2 ^ 32 ≤ o.round + 1 → (∀ e, e ∈ s.oldMeets → e.1 ≠ pa) →
      let o' := t.meet pa
      o'.status % 2 = 0 ∧ o'.status / 2 % 2 = 1 ∧ o'.ontime = [] ∧ o'.late = [] ∧ o'.round = o.round)) ∧
  (∀ (s : State) (pa : Nat) (r : Round) (rest : List Round),
    let o := s.meet pa
    let cs := r.ontime ++ r.late
    let w := { o.who with clock := o.clock.join (acquired (.die (syncDie pa)) .system (cs.map (·.rel))) }
    let weight := fun (late : Bool) (lag : Nat) => if late = false then Machine.Num.fin ⟨false, 1, 0⟩
      else if o.field 5 1 / 128 % 2 = 1 then .fin ⟨false, o.field 6 1, -8⟩ else .fin ⟨false, 1, -((o.field 5 1 % 8 * lag : Nat) : Int)⟩
    let alone := fun (x : State) => ∀ e, e ∈ x.oldMeets → e.1 ≠ pa
    let faults := fun (c : Cause) => ∃ t, exec (.meetCombine pa) s = .next t ∧ (t.meet pa).status / 8 % 2 = 1 ∧ (t.meet pa).status / 2 % 2 = 1 ∧
      (t.meet pa).status % 2 = 0 ∧ (t.meet pa).rounds = rest ∧ .meeting pa c ∈ t.reports
    alone s → (o.rounds = [] → exec (.meetCombine pa) s = .next s) ∧
    (o.rounds = r :: rest →
      (∀ v, readContribs o w pa cs s = .wait v → exec (.meetCombine pa) s = .next v) ∧
      (∀ c x v, readContribs o w pa cs s = .fault c x v → faults c) ∧
      ∀ vs u, readContribs o w pa cs s = .ok vs u →
        let res := o.results (vs.zip ((r.ontime.map fun c => weight false c.lag) ++ r.late.map fun c => weight true c.lag))
        let delivered := u.deliverResult o w pa (wrap (o.field 0x68 8 + r.round % 2 * (o.count * 4))) (res.1.flatMap fun e => toBytes 4 e) (o.count * 4)
        (∀ v, delivered = .ok () v → (v.meet pa).proxies = [] → alone v →
          let m := v.meet pa
          exec (.meetCombine pa) s = .next (v.setMeet pa { m with
            rounds := rest, written := (r.round, ⟨.die (syncDie pa), .system, w.released⟩ :: cs.map (·.rel)) :: m.written, clock := w.released
            status := Nat.lor m.status (stickyFlags res.2) })) ∧
        (∀ v, delivered = .wait v → exec (.meetCombine pa) s = .next v) ∧
        ∀ c x v, delivered = .fault c x v → faults c)) ∧
  (∀ (o : MeetObj) (vs : List (Nat × Machine.Num)) (v w : Machine.Num) (more : List (Machine.Num × Machine.Num)) (b j : Nat),
    let round := fun (x : Machine.Num) => roundFloat .rne .fp32 false x
    let add := fun (a : Machine.Num × Flags) (x : Machine.Num × Machine.Num) =>
      let y := numFma false x.2 x.1 a.1
      (FloatFmt.fp32.value (round y.1).1, (a.2.or y.2).or (round y.1).2)
    let sum := more.foldl add (v, {})
    let mean := numDiv sum.1 (more.foldl (fun a x => (numAdd false a x.2).1) (.fin ⟨false, 1, 0⟩))
    let elem := fun (j : Nat) => o.combine (vs.map fun x => (o.value x.1 j, x.2))
    (o.field 7 1 = 0 → o.combine ((v, w) :: more) = ((round sum.1).1, sum.2)) ∧
    (o.field 7 1 = 1 → o.combine ((v, w) :: more) = ((round mean.1).1, (sum.2.or mean.2).or (round mean.1).2)) ∧
    (o.field 7 1 = 2 → o.combine ((v, w) :: more) = ((round (more.foldl (fun a x => numMax a x.1) v)).1, {})) ∧
    (o.field 8 1 = 8 → o.value b j = FloatFmt.fp32.value (b / 2 ^ (32 * j) % 2 ^ 32)) ∧
    (o.field 8 1 = 6 → o.value b j = FloatFmt.fp16.value (b / 2 ^ (16 * j) % 2 ^ 16)) ∧
    (o.field 8 1 = 7 → o.value b j = FloatFmt.bf16.value (b / 2 ^ (16 * j) % 2 ^ 16)) ∧
    (o.results vs).1 = (List.range o.count).map (fun j => (elem j).1) ∧
    (o.results vs).2 = (List.range o.count).foldl (fun f j => f.or (elem j).2) {}) ∧
  (∀ (s : State) (pa : Nat),
    let o := s.meet pa
    (∀ e, (s.oldMeets.find? fun e => e.1 == pa && e.2.due != 0) = some e →
      exec (.meetCloseNotice pa) s = .next (s.putMeet pa { e.2 with due := 0 })) ∧
    ((s.oldMeets.find? fun e => e.1 == pa && e.2.due != 0) = none →
      (o.isProxy = false → exec (.meetCloseNotice pa) s = .next s) ∧
      (o.isProxy = true → o.status % 2 = 1 → exec (.meetCloseNotice pa) s = .next (s.meetShut pa)) ∧
      (o.isProxy = true → o.status % 2 = 0 → exec (.meetCloseNotice pa) s =
        .next (if o.due = 0 then s else s.putMeet pa { o with due := 0 }))))

/-! Streams, codebooks and copy channels. -/

/-- R132 to R136, R141 to R143, R416, R417, R352: the stream instructions and CBK.LOAD: their checks, and what they make of the register
or give the engine. R144, R145, R147, R149, R150, R357 to R359: CPY checks its record and joins its channel's queue, waiting where four
wait; CPY.ABORT ends the track's commands of the channel and counts them; MILE.WAIT returns at its milestone, or where no earlier command
is left, and acquires what the channel has written. The model's own readings in it, which no rule fixes: log entries 9, 25, and log
entry 59 for what STRM.SKIP does on the ends of a link and for STRM.IDX after it. -/
def Obligations.EngineInstructions : Prop :=
  (∀ (s s1 : State) (q : Q8) (slot : Fin 4) (a b : Reg) (st : Stream),
    let own := s1.myCore.owned s1.cur.2 q.val
    let unused := s1.myCore.opaUses q.val = false
    let landed := ∀ x, x ∈ s1.requests → x.2.core = s1.cur.1 → x.2.unit ≠ storeUnit
    let va := s1.x a
    let bad := fun (i : Instr) (addr : Word) => Faults s i s1 .stream addr q.val
    let put := fun (u : State) (st : Stream) => u.modMyCore fun k => { k with streams := mput q.val st k.streams }
    (s.entered (.strmCfg q a) = some s1 →
      let i := Instr.strmCfg q a
      (∀ o, mfind q.val s1.myCore.streams = some o → o.owner ≠ s1.cur.2 → bad i 0) ∧
      (own = some st → (¬unused ∨ (st.pat.dir = 1 ∧ ¬landed)) → Waits s i s1 .stop q.val) ∧
      ((own = some st ∧ unused ∧ (st.pat.dir = 1 → landed)) ∨ mfind q.val s1.myCore.streams = none →
        (va.toNat % 64 ≠ 0 → Faults s i s1 .align va 0) ∧
        ∀ w u, va.toNat % 64 = 0 → s1.readRecord va.toNat 8 = .ok w u →
          (patternOf w = none → Faults s i u .stream va q.val) ∧
          ∀ p, patternOf w = some p →
            (patternBad q.val p = true → Faults s i u .stream va q.val) ∧
            (patternBad q.val p = false → patternUnaligned p = true → Faults s i u .align p.base 0) ∧
            (patternBad q.val p = false → patternUnaligned p = false → outputBad p = true → Faults s i u .stream va q.val) ∧
            (patternBad q.val p = false → patternUnaligned p = false → outputBad p = false →
              ∃ t st', Completes s i t ∧ mfind q.val t.myCore.streams = some st' ∧ st'.owner = u.cur.2 ∧ st'.ctx = u.me.ctxid ∧
                st'.pat = p ∧ st'.pos = 0 ∧ st'.buffer = [] ∧ st'.fault = none ∧ st'.linked = false ∧ st'.index = none ∧ st'.skipped = 0))) ∧
    (s.entered (.strmIdx q a b) = some s1 →
      let i := Instr.strmIdx q a b
      (own = none → bad i 0) ∧
      (own = some st →
        let n := (s1.x b).toNat
        let fits := st.pat.dir = 0 ∧ windowOf st.pat.base.toNat = some 2 ∧ n = st.pat.counts.getD 1 0 ∧ n ≤ 65536 ∧ st.pos = 0
        (¬fits → bad i 0) ∧ (fits → va.toNat % 2 = 1 → Faults s i s1 .align va 0) ∧
        (fits → va.toNat % 2 = 0 → ∃ t, Completes s i t ∧ (∀ b, t.byte b = s1.byte b) ∧
          (∀ r, r ≠ q.val → mfind r t.myCore.streams = mfind r s1.myCore.streams) ∧ mfind q.val t.myCore.streams = some
            { st with id := s1.nextId, index := some (va, []), buffer := [], freed := 0, fault := none, told := false, clock := s1.who.released }))) ∧
    (s.entered (.strmLink q a) = some s1 →
      let i := Instr.strmLink q a
      let c := va.toNat % 512
      let r := va.toNat / 512 % 8
      (2 ^ 12 ≤ va.toNat → Faults s i s1 .illegal 0 0) ∧ (va.toNat < 2 ^ 12 → own = none → bad i 0) ∧
      (va.toNat < 2 ^ 12 → own = some st →
        let fits := (st.pat.dir = 3 ∨ st.pat.dir = 4) ∧ st.linked = false ∧ (c, r) ≠ (s1.cur.1, q.val)
        (¬fits → bad i 0) ∧ (fits → Completes s i ((put s1 { st with partner := some (c, r) }).join s1.cur.1 q.val)))) ∧
    (s.entered (.strmStop q) = some s1 →
      (own = none → bad (.strmStop q) 0) ∧
      (own = some st → (¬unused ∨ (st.pat.dir = 1 ∧ ¬landed)) → Waits s (.strmStop q) s1 .stop q.val) ∧
      (own = some st → unused → (st.pat.dir = 1 → landed) → ∃ t, Completes s (.strmStop q) t ∧
        (mrising s1.myCore.streams = true → mfind q.val t.myCore.streams = none) ∧
        (∀ r, r ∈ t.me.records → r.cmd ≠ st.id) ∧ ∀ b, t.byte b = s1.byte b)) ∧
    (s.entered (.strmSkip q a) = some s1 →
      let i := Instr.strmSkip q a
      (own = none → bad i 0) ∧
      (own = some st →
        -- those that it has popped already, where it has waited for a link's data, count
        let n := va.toNat - st.skipped
        let left := st.pat.total - st.pos
        let there := st.freed + st.buffer.length
        (st.pat.dir = 2 ∨ left < n ∨ (st.cut = true ∧ there < st.pos + n) → bad i 0) ∧
        (st.pat.dir ≠ 2 → n ≤ left → (st.cut = false ∨ st.pos + n ≤ there) →
          (¬unused → Waits s i s1 .stop q.val) ∧
          (unused → st.pat.dir = 1 → Completes s i (put s1 { st with pos := st.pos + n })) ∧
          (unused → st.pat.dir = 0 →
            let skipped := { st with pos := st.pos + n, freed := st.pos + n, buffer := st.buffer.drop (st.pos + n - st.freed) }
            ((∀ f, st.fault = some f → st.pos + n ≤ f.1) → Completes s i ((put s1 skipped).modMyCore (·.releaseSides skipped))) ∧
            (∀ f, st.fault = some f → f.1 < st.pos + n →
              let forgotten := s1.modMe fun m => { m with records := m.records.filter fun r => r.cmd != st.id }
              let clear := { skipped with fault := none, told := false }
              Completes s i ((put forgotten clear).modMyCore (·.releaseSides clear)))) ∧
          (unused → (st.pat.dir = 3 ∨ st.pat.dir = 4) →
            -- a mismatched link's STREAM fault is told, and the instruction waits
            (∀ f, s1.myCore.reached st n = some f → Waits s i (s1.tell q.val s1.me.pc f) .link q.val) ∧
            (s1.myCore.reached st n = none →
              (st.linked = false ∨ st.held = true → Waits s i s1 .link q.val) ∧
              (st.linked = true → st.held = false → st.pat.dir = 3 →
                let popped := fun (p skipped : Nat) => put s1 { st with
                  pos := p, freed := p, buffer := st.buffer.drop (p - st.freed), skipped := skipped }
                (st.pos + n ≤ there → Completes s i (popped (st.pos + n) 0)) ∧
                (st.pos ≤ there → there < st.pos + n →
                  Waits s i (popped there (st.skipped + (there - st.pos))) .link q.val)) ∧
              (st.linked = true → st.held = false → st.pat.dir = 4 →
                let room := match st.partner with
                  | some p => (s1.core p.1).refillRoom st.pat
                  | none => 0
                (st.credits < min n room → Waits s i s1 .link q.val) ∧
                (min n room ≤ st.credits → ∃ fill, fill.length = n ∧
                  Completes s i (put { s1 with tick := s1.tick + n } { st with
                    pos := st.pos + n, inFlight := st.inFlight ++ fill, credits := st.credits - n })))))))) ∧
    (s.entered (.cbkLoad slot a) = some s1 →
      let i := Instr.cbkLoad slot a
      (va.toNat % 64 ≠ 0 → Faults s i s1 .align va 0) ∧
      let cmd : CbkCmd :=
        { id := s1.nextId, track := s1.cur.2, ctx := s1.me.ctxid, super := s1.me.super, fpc := s1.me.pc, slot := slot.val, addr := va
          clock := s1.who.released }
      (va.toNat % 64 = 0 → Completes s i (({ s1 with nextId := s1.nextId + 1 } : State).newTick.modMyCore fun k =>
        { k with cbkCmds := k.cbkCmds ++ [cmd] })))) ∧
  (∀ (s s1 : State) (c : Q8) (a d : Reg),
    let va := s1.x a
    let queue := (mget {} c.val s1.myCore.chans).queue
    (s.entered (.cpy c a) = some s1 → (∀ w, s1.me.wait = some w → w.record = []) →
      (va.toNat % 64 ≠ 0 → Faults s (.cpy c a) s1 .align va 0) ∧
      ∀ w u, va.toNat % 64 = 0 → s1.readRecord va.toNat 8 = .ok w u →
        (copyOf w = none → Faults s (.cpy c a) u .illegal va 0) ∧
        ∀ r, copyOf w = some r →
          let cmd : CopyCmd :=
            { id := 0, chan := c.val, track := u.cur.2, ctx := u.me.ctxid, super := u.me.super, fpc := u.me.pc, record := toBytes 64 w, cr := r }
          let overlaps := copyOverlaps r (u.outLen u.cur.1 cmd)
          let ch := mget ({} : Chan) c.val u.myCore.chans
          (overlaps = true → Faults s (.cpy c a) u .illegal va 0) ∧
          (overlaps = false → r.junction.toNat % 64 ≠ 0 → Faults s (.cpy c a) u .align r.junction 0) ∧
          (overlaps = false → r.junction.toNat % 64 = 0 → 4 ≤ ch.waiting → ∃ t wt, exec (.cpy c a) s = .next t ∧
            t.me.wait = some wt ∧ wt.kind = .copyRoom ∧ wt.instr = .cpy c a ∧ wt.obj = c.val ∧ wt.record = toBytes 64 w ∧
            t.myCore.chans = u.myCore.chans ∧ ∀ b, t.byte b = u.byte b) ∧
          (overlaps = false → r.junction.toNat % 64 = 0 → ch.waiting < 4 →
            ∃ t, Completes s (.cpy c a) t ∧ (mget ({} : Chan) c.val t.myCore.chans).queue =
                ch.queue ++ [{ cmd with id := u.nextId, clock := u.who.released }] ∧
              (∀ j, j ≠ c.val → mget ({} : Chan) j t.myCore.chans = mget {} j u.myCore.chans) ∧ ∀ b, t.byte b = u.byte b)) ∧
    (s.entered (.cpyAbort d c) = some s1 →
      let n := (queue.filter fun g => g.track == s1.cur.2).length
      -- a write of the active command that another node has yet to acknowledge
      (s1.writeInFlight s1.cur.1 s1.cur.2 c.val = true → Waits s (.cpyAbort d c) s1 .abort c.val) ∧
      (s1.writeInFlight s1.cur.1 s1.cur.2 c.val = false → ∃ t : State, Completes s (.cpyAbort d c) (t.setX d (BitVec.ofNat 64 n)) ∧
        (mget ({} : Chan) c.val t.myCore.chans).queue = queue.filter fun g => g.track != s1.cur.2)) ∧
    (s.entered (.mileWait c a) = some s1 →
      let reached := va.toNat ≤ (s1.mile s1.cur.1 c.val).toNat
      (reached ∨ queue = [] → Completes s (.mileWait c a) (s1.takeMile c.val)) ∧
      (¬reached → s1.me.wait = none → (∃ g, g ∈ queue ∧ g.id ≤ s1.nextId) → Waits s (.mileWait c a) s1 .milestone c.val)) ∧
    ∀ i n w, let u := { s with cur := (i, n) }
      (s.waitsFor i n .milestone w → w.instr = .mileWait c a → (u.x a).toNat ≤ (u.mile i c.val).toNat →
        Resumes s (.mileWaitReturn i n) i n w.instr (u.takeMile c.val)) ∧
      -- a CPY that finds room goes on with the record that it has read and checked
      ∀ r, s.waitsFor i n .copyRoom w → w.instr = .cpy c a → copyOf (ofBytes w.record) = some r →
        let ch := mget ({} : Chan) c.val u.myCore.chans
        ch.waiting < 4 → ∃ t g, Resumes s (.cpyQueueRoom i n) i n w.instr t ∧ (mget ({} : Chan) c.val t.myCore.chans).queue = ch.queue ++ [g] ∧
          g.id = u.nextId ∧ g.cr = r ∧ g.track = n ∧ g.fpc = u.me.pc ∧ g.ctx = u.me.ctxid ∧ g.clock = u.who.released ∧ g.started = false ∧
          ∀ b, t.byte b = u.byte b)

/-- R137, R140, R142, R143, R353: the stream engine reads the next element of a plain pattern ahead of its pops, and keeps the fault it
meets for the pop that reaches it; an element sent on a link comes to its end's buffer and its space comes back as credits; a codebook
load writes its slot byte by byte. The model's own readings in it, which no rule fixes: log entries 9, 27. -/
def Obligations.StreamEngine : Prop :=
  ∀ (s u : State) (core : Nat) (q : Q8) (st : Stream),
    let k := s.core core
    let put := fun (u : State) (c r : Nat) (st : Stream) => u.modCore c fun k => { k with streams := mput r st k.streams }
    (mfind q.val k.streams = some st → k.frozen = false → st.fault = none → (st.pat.dir = 0 ∨ st.pat.dir = 2) → st.pat.scale ≠ 1 →
      st.pat.sparse = false → st.pat.et ≠ .k8 → st.index = none → 8 ≤ elemBits st.pat.et →
      let e := st.freed + st.buffer.length
      e < st.pat.total → st.buffer.length < k.refillRoom st.pat →
      let place := st.elemAt e
      (∀ v, s.engineRead (st.who k core) st.id place.1 place.2 = .ok v u →
        let x := if st.pat.et = .acc40 then SElem.cell (BitVec.ofNat 40 v) else .val (elemValue st.pat.et v)
        exec (.streamRefill core q) s = .next (((put u core q.val { st with buffer := st.buffer ++ [x] }).modCore core (·.releaseSides st)).moved core q.val place.2)) ∧
      (∀ c x, s.engineRead (st.who k core) st.id place.1 place.2 = .fault c x u →
        exec (.streamRefill core q) s = .next (put u core q.val { st with fault := some (e, c, BitVec.ofNat 64 x) }))) ∧
    (∀ c r o x rest, mfind q.val k.streams = some st → st.partner = some (c, r) → mfind r (s.core c).streams = some o → c ≠ core →
      st.linked = true → s.routeTested (c / 128) (core / 128) = false →
      (st.pat.dir = 3 → o.inFlight = x :: rest → st.buffer.length < k.refillRoom st.pat →
        ∃ t st', exec (.linkFlitArrival core q) s = .next t ∧ mfind r (t.core c).streams = some { o with inFlight := rest } ∧
          mfind q.val (t.core core).streams = some st' ∧ st'.pos = st.pos ∧
          st'.buffer = (st.buffer ++ [x]).drop (st'.freed - st.freed) ∧ ∀ a, t.byte a = s.byte a) ∧
      (st.pat.dir = 4 → st.cut = false →
        exec (.linkCreditReturn core q) s = .next (put s core q.val { st with
          credits := max st.credits ((s.core c).refillRoom o.pat - st.inFlight.length - o.buffer.length) }))) ∧
    (∀ g, k.cbkCmds.find? (·.id == g.id) = some g → k.frozen = false → g.faulted = false →
      (∀ c, c ∈ k.cbkCmds → c.slot = g.slot → g.id ≤ c.id) →
      (∀ r o, (r, o) ∈ k.streams → o.id < g.id → o.pat.et = .k8 → o.pat.slot = g.slot → o.pat.dir ≠ 0) →
      exec (.cbkLoadComplete core g.id) s = .next (s.loadCodebook core g (2048 - g.done))) ∧
    ∀ (g : CbkCmd) (n v : Nat), n + 1 ≤ 2048 →
      let at_ : Nat := 2048 - (n + 1)
      s.engineRead (g.who k core) g.id (wrap (g.addr.toNat + at_)) 1 = .ok v u → n ≠ 0 →
      s.loadCodebook core g (n + 1) =
        ((u.modCore core fun k => { k with cbk := mset 0 (g.slot * 2048 + at_) (BitVec.ofNat 8 v) k.cbk }).moved core 17 1).loadCodebook
          core g n

/-- R144 to R147, R155, R164, R167, R178, R276: a channel starts its next command, one through a graph in its turn behind the core's earlier
commands of the slot and an XF.LOAD that waits for it, and only where the slot holds a graph of its context, the source is a whole number
of elements and no node has more than 2^32 - 1 at an input: else the command is suspended with ILLEGAL, engine 2, at offset 0. The bytes
that it moves at once, a granule or one byte, are the source's, as they stand then, and no other byte changes; a piece for another node is
sent, and counts once it is acknowledged. At the end the junction receives the bytes written, MILE its last value and the issuer's ARITH the
flags of a graph's nodes. A fault stops the command where it stands, with its record held; a source behind a link that is lost, and a
target that is full, end it at its milestone. The model's own readings in it, which no rule fixes: log entries 9, 27, and log entry 61 for
the seed of the nodes' draws, which is SRSEED as the command starts. -/
def Obligations.CopyEngine : Prop :=
  ∀ (s : State) (core : Nat) (c : Q8) (g : CopyCmd) (rest : List CopyCmd),
    (mget ({} : Chan) c.val (s.core core).chans).queue = g :: rest → (s.core core).frozen = false → g.faulted = false →
    let w := g.who (s.core core) core
    let len := s.outLen core g
    (g.started = false → g.cr.graph = false → ∃ t g', exec (.copyStart core c) s = .next t ∧
      (mget ({} : Chan) c.val (t.core core).chans).queue = g' :: rest ∧ g'.started = true ∧ g'.done = g.done ∧ g'.cr = g.cr ∧
      g'.seed = (s.track core g.track).srseed ∧ g'.map = s.remoteMap) ∧
    (g.started = false → g.cr.graph = true →
      let awaited := ∃ k n w, k / 16 = core / 16 ∧ n < 4 ∧ (s.core k).frozen = false ∧ (s.track k n).wait = some w ∧ w.kind = .xfload ∧
        w.obj = g.cr.slot
      let behind := ∃ o, o ∈ (s.core core).copies ∧ o.cr.graph = true ∧ o.cr.slot = g.cr.slot ∧ o.id < g.id
      let bad := s.slotGraph core g.cr.slot = none ∨ ∃ gr, s.slotGraph core g.cr.slot = some gr ∧ (gr.ctx ≠ g.ctx ∨
        ∃ (i : Nat) (n : GNode) (e : Nat × Nat × Nat), gr.nodes[i]? = some n ∧ (graphSizes g.total gr.nodes [])[i]? = some e ∧
          (2 ^ 32 ≤ e.1 ∨ 2 ^ 32 ≤ e.2.1 ∨ (n.in0 = 16 ∧ elemBits n.itype ≠ 4 ∧ g.total % n.inUnits ≠ 0)))
      (awaited ∨ behind → exec (.copyStart core c) s = .next s) ∧
      (¬(awaited ∨ behind) →
        (bad → ∃ (t : State) (r : EngRec) (told : Word × Word × Word), exec (.copyStart core c) s = .next t ∧
          (mget ({} : Chan) c.val (t.core core).chans).queue = { g with faulted := true, ending := false, record3 := some told } :: rest ∧
          r ∈ (t.track core g.track).records ∧ r.cause = .illegal ∧ r.engine = 2 ∧ r.unit = c.val ∧ r.cmd = g.id ∧ r.fpc = g.fpc ∧
          r.elem = BitVec.ofNat 64 (c.val * 2 ^ 61) ∧ told.1 = BitVec.ofNat 64 (Cause.illegal.code + 256 + 512 * 2) ∧ told.2.2 = r.elem ∧
          ∀ b, t.byte b = s.byte b) ∧
        ∀ gr, ¬bad → s.slotGraph core g.cr.slot = some gr → ∃ t g', exec (.copyStart core c) s = .next t ∧
          (mget ({} : Chan) c.val (t.core core).chans).queue = g' :: rest ∧ g'.started = true ∧ g'.graph = some gr ∧ g'.done = g.done ∧
          g'.nodes = gr.nodes.map (fun _ => {}) ∧ g'.cr = g.cr ∧ g'.seed = (s.track core g.track).srseed ∧ g'.map = s.remoteMap ∧
          g'.rm = (rctx .dyn (s.track core g.track).arith 0 0).rm)) ∧
    (g.started = true → g.cr.graph = false → g.done < g.total → ∀ (n : Nat) (r : Request), s.pieceSent core g.id = some r → n = g.piece →
      (r.answer = none → exec (.copyTransfer core c n) s = .next s) ∧
      (r.answer.isSome = true → ∃ t g', exec (.copyTransfer core c n) s = .next t ∧
        (mget ({} : Chan) c.val (t.core core).chans).queue = g' :: rest ∧ g'.done = g.done + n ∧ ∀ b, t.byte b = s.byte b)) ∧
    (g.started = true → g.cr.graph = false → g.done < g.total → g.orig = [] → s.pieceSent core g.id = none → s.stopping core c.val g = false →
      -- an aligned granule of eight bytes that lies within its row, or one byte
      let n := if g.dstAddr g.done % 8 = 0 ∧ g.done % g.cr.length + 8 ≤ g.cr.length then 8 else 1
      (∀ v u pas u', s.engineRead w g.id (g.srcAddr g.done) n = .ok v u → u.engineChecks w g.covers (g.dstAddr g.done) n = .ok pas u' →
        u'.memWf = true → (∀ pa, pa ∈ pas → ∀ k o, area pa ≠ .remote k o) → pas.Pairwise (fun x y => u'.loc x ≠ u'.loc y) →
        (mget ({} : Chan) c.val (u'.core core).chans).queue = g :: rest →
        ∃ t g', exec (.copyTransfer core c n) s = .next t ∧ (mget ({} : Chan) c.val (t.core core).chans).queue = g' :: rest ∧
          g'.done = g.done + n ∧ (∀ j pa, pas[j]? = some pa → t.byte pa = BitVec.ofNat 8 (v / 256 ^ j)) ∧
          ∀ b, (∀ pa, pa ∈ pas → u'.loc b ≠ u'.loc pa) → t.byte b = u'.byte b) ∧
      (∀ x a u, s.engineRead w g.id (g.srcAddr g.done) n = .fault x a u → exec (.copyTransfer core c n) s =
        .next (if x = .linkDown then u.suspendCopy core c.val g .linkDown (g.milestone g.total) g.done true
          else u.suspendCopy core c.val g x a (g.done + wrap ((a : Int) - g.srcAddr g.done)) false)) ∧
      (∀ v u pas u' k o, s.engineRead w g.id (g.srcAddr g.done) n = .ok v u → u.engineChecks w g.covers (g.dstAddr g.done) n = .ok pas u' →
        area (pas.headD 0) = .remote k o → exec (.copyTransfer core c n) s =
          .next (u'.ask core (writeUnit g.id) (pas.headD 0) 3 (toBytes n v) w.map).2) ∧
      ∀ v u x a u', s.engineRead w g.id (g.srcAddr g.done) n = .ok v u → u.engineChecks w g.covers (g.dstAddr g.done) n = .fault x a u' →
        x ≠ .linkDown → exec (.copyTransfer core c n) s =
          .next (u'.suspendCopy core c.val g x a (g.done + wrap ((a : Int) - g.dstAddr g.done)) false)) ∧
    (g.started = true → len ≤ g.done → s.stopping core c.val g = false →
      (g.cr.graph = true → s.sentLanded core = true ∧ ∀ n, n ∈ g.nodes → n.ended = true) → ∀ u, s.engineJct w g.id g.cr.junction len = .ok () u →
      ∃ t, exec (.copyComplete core c) s = .next t ∧
        ((mget ({} : Chan) c.val (u.core core).chans).queue = g :: rest → (mget ({} : Chan) c.val (t.core core).chans).queue = rest) ∧
        (mget ({} : Chan) c.val (t.core core).chans).mile = BitVec.ofNat 64 (g.limit len) ∧
        (t.track core g.track).arith = (u.track core g.track).arith ||| g.flags.toArith ∧ ∀ b, t.byte b = u.byte b) ∧
    (g.started = true → g.done < len → s.onOffload core g = true → exec (.offloadTargetFull core c g.done) s =
      .next (s.suspendCopy core c.val g .targetFull (g.milestone len) g.done true))

/-! The interchange, the grid engine's moves, and what befalls a track from outside. -/

/-- R159 to R166, R444: XF.LOAD reads a graph record of 576 bytes, is ILLEGAL at the first offending field's offset, and installs the
graph once no command is active through the slot, what it has read standing meanwhile; a command through a graph makes its next block
whole, and its progress with it, or, where something of the block faults or waits, nothing of it. R165, R167 to R174: what a block of each
operator gives for the elements that it takes, with the flags it raises, the residual TOPK keeps, the additions that SCATTERADD makes; its
output goes to the nodes that read the node, and the out node's to the destination. The model's own readings in it, which no rule fixes:
log entries 26, 80 (the invalid flag under a NaN scale), 83 (the blocks of one element), 84 (a data fault's TADDR), 85 and 86 (the offending field). -/
def Obligations.InterchangeGraphs : Prop :=
  (∀ (s s1 : State) (slot : Fin 4) (a : Reg),
    let i := Instr.xfLoad slot a
    let install := fun (u : State) (gr : Graph) => (u.modCluster (clusterOf u.cur.1) fun k =>
      { k with slots := mput slot.val gr k.slots }).modMe fun t => { t with graph := none }
    -- a command is active through the slot; a frozen core's until the blocks that it has taken have landed
    let busy := fun (u : State) => ∃ c g, c / 16 = clusterOf u.cur.1 ∧ g ∈ (u.core c).copies ∧ g.started = true ∧ g.cr.graph = true ∧
      g.cr.slot = slot.val ∧ ((u.core c).frozen = false ∨ ∃ q, q ∈ u.requests ∧ q.2.core = c ∧
        (q.2.unit = storeUnit ∨ (q.2.unit % 2 ^ 40 = g.id ∧ q.2.answer = none)))
    let others := fun (u : State) (f : Wait → Prop) => ∀ c t w, c / 16 = clusterOf u.cur.1 → t < 4 → (c, t) ≠ u.cur → (u.core c).frozen = false →
      (u.track c t).wait = some w → w.kind = .xfload → w.obj = slot.val → f w
    (s.entered i = some s1 →
      let va := s1.x a
      (va.toNat % 64 ≠ 0 → Faults s i s1 .align va 0) ∧
      ∀ w u, va.toNat % 64 = 0 → s1.readRecord va.toNat 72 = .ok w u →
        (∀ o, graphRecordBad w = some o → Faults s i u .illegal va o) ∧
        (graphRecordBad w = none →
          let u' := u.moved u.cur.1 18 576
          let gr := graphOf w u.me.ctxid
          (busy u → Waits s i (u'.modMe fun t => { t with graph := some gr }) .xfload slot.val) ∧
          (¬busy u → others u (fun _ => False) → Completes s i (install u' gr)))) ∧
    (∀ c n wt gr, s.waitsFor c n .xfload wt → wt.instr = i → (s.track c n).graph = some gr →
      let v := { s with cur := (c, n) }
      ¬busy v → others v (fun w => wt.seq ≤ w.seq) → Resumes s (.xfLoadInstall c n) c n i (install v gr)) ∧
    ∀ (core : Nat) (c : Q8) (g : CopyCmd) (rest : List CopyCmd) (gr : Graph),
      (mget ({} : Chan) c.val (s.core core).chans).queue = g :: rest → (s.core core).frozen = false → g.faulted = false →
      g.graph = some gr → g.started = true → g.cr.graph = true → s.stopping core c.val g = false → (g.nodes.all (·.ended) && g.out.isEmpty) = false →
      let x : GCtx := ⟨core, g, graphSizes g.total gr.nodes []⟩
      (∀ m u, x.make gr (s.outLen core g) s = .ok m u → ∃ t, exec (.graphBlock core c) s = .next t ∧ (∀ b, t.byte b = u.byte b) ∧
        (mget ({} : Chan) c.val (u.core core).chans = mget {} c.val (s.core core).chans →
          (mget ({} : Chan) c.val (t.core core).chans).queue = { g with taken := m.taken, done := g.done + m.out.length, nodes := m.nodes,
                                                                        flags := g.flags.or m.flags, out := m.rest.map (BitVec.ofNat 8) } :: rest)) ∧
      (∀ u, x.make gr (s.outLen core g) s = .wait u → ∃ t, exec (.graphBlock core c) s = .next t ∧ ∀ b, t.byte b = s.byte b) ∧
      (∀ cause a u, x.make gr (s.outLen core g) s = .fault cause a u → cause ≠ .linkDown → exec (.graphBlock core c) s =
        .next ({ s with tick := u.tick }.suspendCopy core c.val g cause a g.taken false)) ∧
      -- a lost link elsewhere than at the destination ends the command at its milestone
      ∀ a u, x.make gr (s.outLen core g) s = .fault .linkDown a u →
        (∀ pa, s.peek (x.who s) (g.dstAddr g.done) .write = some pa → s.linkDown pa g.map = false) → exec (.graphBlock core c) s =
          .next ({ s with tick := u.tick }.suspendCopy core c.val g .linkDown (g.milestone (s.outLen core g)) g.taken true)) ∧
  -- a block of `n` elements of node `j`
  (∀ (x : GCtx) (j : Nat) (g : GNode) (r : NodeRun) (n : Nat) (dry : Bool) (s : State),
    let q := r.in0.take (n * g.inUnits)
    let els := takeElems g.itype n q
    let vals := els.map (elemValue g.itype)
    let ctx := fun (i : Nat) => (⟨if g.rm = .dyn then x.cmd.rm else g.rm,
      (srBits x.cmd.seed g.salt (BitVec.ofNat 64 (r.taken + i))).toNat % 2 ^ 32⟩ : RCtx)
    let at_ := g.addr.toNat
    let nats := fun (l : List Byte) => l.map (·.toNat)
    let short := (g.op = 3 ∧ n ≠ 32) ∨ (g.op = 6 ∧ n ≠ 8) ∨ (g.op = 7 ∧ n ≠ g.param0 * g.param0) ∨ (g.op = 8 ∧ n ≠ 4096)
    let block := x.block j g r n dry s
    let gives := fun (l : List Nat) (v : State) (p : BlockOut → Prop) => ∃ o, block = .ok o v ∧ o.units = l ∧
      o.run.in0 = r.in0.drop (n * g.inUnits) ∧ o.run.taken = r.taken + n ∧ p o
    let each := fun (f : Nat → Machine.Num → Nat × Flags) (v : State) =>
      let l := vals.zipIdx.map fun e => f e.2 e.1
      gives (elemUnits g.otype (l.map (·.1))) v fun o => o.flags = l.foldl (fun a b => a.or b.2) {} ∧ o.adds = []
    let round := fun (i : Nat) (v : Machine.Num) => roundElem (ctx i) g.otype g.sat v
    let times := fun (k : Machine.Num) (i : Nat) (v : Machine.Num) => ((round i (numMul v k).1).1, (numMul v k).2.or (round i (numMul v k).1).2)
    (short → ∃ c, block = .fault c 0 s) ∧
    (g.op = 1 → each (fun i v => roundElem (ctx i) g.otype (g.sat || (!isIntElem g.itype && isIntElem g.otype)) v) s) ∧
    (g.op = 2 → g.param0 = 0 → each (times (FloatFmt.fp32.value g.param1)) s) ∧
    (g.op = 2 → g.param0 = 1 → ∀ b v, x.read s (at_ + r.taken / 32) 1 = .ok b v → each (times (scaled (some b) (.fin ⟨false, 1, 0⟩))) v) ∧
    (g.op = 3 → n = 32 →
      let sc := mxScale (mxEmax g.otype) vals
      let l := vals.zipIdx.map fun e => mxConvert (ctx e.2) g.otype sc e.1
      let ends := r.in1.length = 31 ∨ dry = true
      gives (nats (packElems (elemBits g.otype) (l.map (·.1))) ++ if ends then r.in1 ++ [sc] else []) s fun o =>
        o.flags = l.foldl (fun a b => a.or b.2) {} ∧ o.run.in1 = if ends then [] else r.in1 ++ [sc]) ∧
    (g.op = 4 → ∀ res v u, x.residual g s 0 n = .ok res v → x.keep g v 0 (topkBlock x g r.taken els res).1 = .ok () u →
      gives (nats (topkBlock x g r.taken els res).2.1) u fun o => o.flags = (topkBlock x g r.taken els res).2.2) ∧
    (g.op = 5 →
      let i := ofBytes ((q.take 4).map (BitVec.ofNat 8))
      let add := elemValue g.itype (ofBytes ((q.drop 4).map (BitVec.ofNat 8)))
      (g.param0 ≤ i → ∃ c, block = .fault c 0 s) ∧
      (i < g.param0 → ∀ pa v, x.addCheck s ((at_ + 4 * i) % 2 ^ 64) = .ok pa v →
        gives q v fun o => o.adds = [⟨(at_ + 4 * i) % 2 ^ 64, pa, add⟩])) ∧
    (g.op = 6 → n = 8 →
      let kept := largest g.param0 vals
      let bits := r.crc + kept.zipIdx.foldl (fun m p => m + p.1 * 8 ^ p.2) 0 * 2 ^ (3 * g.param0 * r.side)
      let ends := r.side = 31 ∨ dry = true
      gives (elemUnits g.itype (kept.map fun i => els.getD i 0) ++ if ends then nats (toBytes ((3 * g.param0 * (r.side + 1) + 7) / 8) bits) else []) s
        fun o => o.flags = {} ∧ o.run.side = (if ends then 0 else r.side + 1) ∧ o.run.crc = if ends then 0 else bits) ∧
    (g.op = 7 → n = g.param0 * g.param0 →
      gives (elemUnits g.otype ((List.range n).map fun i => els.getD (i % g.param0 * g.param0 + i / g.param0) 0)) s fun o => o.flags = {}) ∧
    (g.op = 8 → n = 4096 → (g.param0 = 5 ∨ g.param0 = 6 ∨ g.param0 = 40 ∨ g.param0 = 48) → ∃ o, block = .ok o s ∧ o.units.length = 4096 ∧
      ∀ i, i < 4096 → o.units.getD (formPlace (g.param0 / 8) i) 0 = els.getD (formPlace (g.param0 % 8) i) 0) ∧
    (g.op = 9 → ∀ v, x.write s (at_ + 8 * r.side) 8 ((q.map (BitVec.ofNat 8)).foldl crcByte 0) at_
        (at_ + 8 * (((x.sizes.getD j (0, 0, 0)).1 + 4095) / 4096)) = .ok () v →
      gives q v fun o => o.flags = {} ∧ o.run.side = r.side + 1) ∧
    (g.op = 10 ∨ g.op = 11 → (g.in1 ≠ 17 → x.others g r s 0 n = .ok (takeElems g.itype n r.in1) s) ∧
      ∀ bs v, x.others g r s 0 n = .ok bs v →
        let pairs := els.zip bs
        let l := pairs.zipIdx.map fun e =>
          let sum := numAdd ((ctx e.2).rm == .rdn) (elemValue g.itype e.1.1) (elemValue g.itype e.1.2)
          ((round e.2 sum.1).1, sum.2.or (round e.2 sum.1).2)
        (g.op = 10 → gives (elemUnits g.otype (pairs.map fun e =>
            if g.param0 = 1 then (e.1 == e.2).toNat else (numEq (elemValue g.itype e.1) (elemValue g.itype e.2)).toNat)) v fun o => o.flags = {}) ∧
        (g.op = 11 → gives (elemUnits g.otype (l.map (·.1))) v fun o => o.flags = l.foldl (fun a b => a.or b.2) {})) ∧
    (g.op = 12 → gives q s fun o => o.flags = {} ∧ o.adds = [])) ∧
  -- the largest of a block, TOPK's pairs and residual, an addition
  (∀ (x : GCtx) (g : GNode) (start n k old i : Nat) (els res : List Nat) (l : List Machine.Num) (v : Machine.Num),
    let round := fun (c : RCtx) (v : Machine.Num) => roundFloat c .fp32 false v
    let sum := fun (j : Nat) => (round .rne (numAdd false (elemValue g.itype (els.getD j 0)) (FloatFmt.fp32.value (res.getD j 0))).1).1
    let y := fun (j : Nat) => FloatFmt.fp32.value (sum j)
    let beats := fun (a b : Machine.Num) (i j : Nat) => magLess a b = true ∨ (magLess b a = false ∧ j < i)
    let taken := (largest g.param1 ((List.range n).map y)).contains
    let value := fun (j : Nat) => (roundElem ⟨if g.rm = .dyn then x.cmd.rm else g.rm,
      (srBits x.cmd.seed g.salt (BitVec.ofNat 64 (start + j))).toNat % 2 ^ 32⟩ g.otype (g.sat || isIntElem g.otype) (y j)).1
    (i ∈ largest k l ↔ i < l.length ∧ ((List.range l.length).countP fun j => decide (beats (l.getD i .nan) (l.getD j .nan) i j)) < k) ∧
    (largest k l).Pairwise (· < ·) ∧
    (els.length = n → res.length = n →
      (topkBlock x g start els res).1 = (List.range n).map (fun j => if taken j = true then
        (if g.otype = .fp32 then 0 else (round .rne (numAdd false (y j) (elemValue g.otype (value j)).negate).1).1) else sum j) ∧
      (topkBlock x g start els res).2.1 = (List.range n).flatMap fun j =>
        if taken j = true then toBytes 4 (start + j) ++ toBytes (elemBytes g.otype) (value j) else []) ∧
    (scatterSum old v).1 = (round .rne (numAdd false (FloatFmt.fp32.value old) v).1).1) ∧
  -- where a block's units go; JOIN takes a block of either input
  (∀ (x : GCtx) (gr : Graph) (j n len i : Nat) (g : GNode) (r : NodeRun) (second dry : Bool) (p : Pump) (pas : List Nat) (l : List Byte) (s : State),
    let goes := fun (units : List Nat) (flags : Flags) (own : NodeRun) (p' : Pump) =>
      p'.out = p.out ++ (if gr.out = j then units else []) ∧ p'.flags = p.flags.or flags ∧
      ∀ k m, gr.nodes[k]? = some m → k < p.nodes.length →
        let was := if k = j then own else p.nodes.getD k {}
        (p'.nodes.getD k {}).in0 = was.in0 ++ (if m.in0 = j then units else []) ∧
        (p'.nodes.getD k {}).in1 = was.in1 ++ if m.in1 = j ∧ opIn1 m.op ≠ 0 then units else []
    (g.op ≠ 13 → ∀ o u, x.block j g r n dry p.s = .ok o u →
      ∃ p', x.runNode gr j g r n second dry p = .ok p' u ∧ goes o.units o.flags o.run p' ∧ p'.adds = p.adds ++ o.adds) ∧
    (g.op = 13 → let k := n * unitsOf g.itype
      ∃ p', x.runNode gr j g r n second dry p = .ok p' p.s ∧
        (second = false → goes (r.in0.take k) {} { r with in0 := r.in0.drop k, turn := true } p') ∧
        (second = true → goes (r.in1.take k) {} { r with in1 := r.in1.drop k, turn := false } p')) ∧
    (s.memWf = true → pas.length = l.length → (∀ pa, pa ∈ pas → ∀ k o, area pa ≠ .remote k o) → pas.Pairwise (fun a b => s.loc a ≠ s.loc b) →
      (∀ (k pa : Nat) (b : Byte), pas[k]? = some pa → l[k]? = some b → (x.writeOut len i pas l s).byte pa = b) ∧
      ∀ a, (∀ pa, pa ∈ pas → s.loc a ≠ s.loc pa) → (x.writeOut len i pas l s).byte a = s.byte a))

/-- R97, R108, R151, R154, R251, R409, R461: a command enters its rows where no earlier command, nor a delivery before it, still has one
of them, its slot, or (two OPAs) a band of theirs; a ROWSEND's rows are checked against a claim of the target core, wait for its thaw, and
are busy there from then on. R106, R192, R377, R460: a command whose transfers are done completes: its junction gets its bytes, it leaves
the engine, and the trap of an enabled flag is left for its track, which takes it at a strip boundary at level 0 with engine 0 in TCAUSE.
The model's own readings in it, which no rule fixes: log entries 9, 23. -/
def Obligations.GridCommands : Prop :=
  (∀ (s : State) (core : Nat) (g : GridCmd), (s.core core).gq.find? (·.id == g.id) = some g → (s.core core).frozen = false →
    let k := s.core core
    let slot := fun (o : GridOp) => match o with
      | .park p => some p
      | .unpark p => some p
      | _ => none
    let behind := fun (e : GridCmd) => (∃ r, r ∈ g.rows ∧ e.keeps r = true) ∨ (slot g.op ≠ none ∧ slot g.op = slot e.op) ∨
      (g.op.isOpa = true ∧ e.op.isOpa = true ∧ ∃ r x, r ∈ g.rows ∧ x ∈ e.rows ∧ r / 32 = x / 32) ∨ (e.faulted = true ∧ e.track = g.track)
    let blocked := g.entered = true ∨ (∃ e, e ∈ k.gq ∧ e.id < g.id ∧ behind e) ∨
      ∃ i r, i ∈ k.incoming ∧ i.stamp < g.id ∧ r ∈ g.rows ∧ r ∈ i.rows
    (blocked → exec (.gridCommandEnter core g.id) s = .next s) ∧
    (¬blocked → exec (.gridCommandEnter core g.id) s = .next (s.modCore core fun k =>
      { k with gq := k.gq.map fun e => if e.id = g.id then { e with entered := true } else e })) ∧
    ∀ target row, g.op = .send target row → g.entered = true → g.faulted = false → g.done < g.rows.length →
      let t := s.core target
      let rows := (List.range (g.rows.length - g.done)).map (row + g.done + ·)
      let claimed := ∃ n, n < 4 ∧ (t.track n).trip.isSome = true ∧ (t.track n).ctxid = g.ctx ∧ ∀ r, r ∈ rows → (t.track n).holds r = true
      let tested := s.routeTested (dieOf core) (dieOf target) = true
      let here := t.ctx = some g.ctx ∧ t.departed = false
      -- its rows are busy there already
      let held := ∃ i, i ∈ t.incoming ∧ i.src = core ∧ i.cmd = g.id
      (held → exec (.rowsendArrival core g.id) s = .next s) ∧
      (¬held → (¬here ∨ (t.frozen = false ∧ ¬tested ∧ ¬claimed)) →
        exec (.rowsendArrival core g.id) s = .next (s.suspendCmd core g .gridOwn (target + 512 * row) 0)) ∧
      (¬held → here → t.frozen = true ∨ tested → exec (.rowsendArrival core g.id) s = .next s) ∧
      (¬held → here → t.frozen = false → ¬tested → claimed → ∃ u, exec (.rowsendArrival core g.id) s = .next u ∧
        (∀ r, r ∈ rows → (u.core target).busy r = true) ∧ ∀ r c, (u.core target).cell r c = t.cell r c)) ∧
  (∀ (s u : State) (core n : Nat) (g : GridCmd),
    ((s.core core).gq.find? (·.id == g.id) = some g → (s.core core).frozen = false → g.entered = true → g.faulted = false →
      g.total ≤ g.done → (match g.jct with
        | some j => s.engineAdd (g.who (s.core core) core) g.id j g.bytes
        | none => .ok () s) = .ok () u →
      let left := u.modCore core fun k => { k with gq := k.gq.filter fun e => e.id != g.id }
      let told := match g.trapElem with
        | none => left
        | some e => left.modTrack core g.track fun t => { t with opaTraps := t.opaTraps ++ [(g.fpc, BitVec.ofNat 64 e)] }
      let done := told.modTrack core g.track fun t => { t with ended := t.ended.join (g.who (u.core core) core).released }
      let landed := s.sentLanded core = true
      let ends := fun (i : Instr) => exec i s = .next done
      match g.op with
      | .opa _ _ _ _ _ _ _ _ _ _ => ends (.opaComplete core g.id)
      | .zero => ends (.gzeroComplete core g.id)
      | .park _ => ends (.gparkComplete core g.id)
      | .unpark _ => ends (.gunparkComplete core g.id)
      | .fill _ _ => ends (.rowfillComplete core g.id)
      | .drain _ _ _ _ _ _ => landed → ends (.gdrainComplete core g.id)
      | .save _ => landed → ends (.gsaveComplete core g.id)
      | .load _ => ends (.gloadComplete core g.id)
      | .send _ _ => ends (.rowsendComplete core g.id)) ∧
    (let t := s.track core n
     ∀ fpc elem rest, t.opaTraps = (fpc, elem) :: rest → t.level = 0 → t.strip.isOpen = false → t.trip.isSome = true →
      (s.core core).frozen = false → t.halted = false → t.escalated = false → t.wait = none →
      ∃ v, exec (.opaArithTrap core n) s = .next v ∧
        let t' := v.track core n
        t'.tcause = 0x10D ∧ t'.taddr = 0 ∧ t'.tfpc = fpc ∧ t'.telem = elem ∧ t'.tepc = t.pc ∧ t'.level = 1 ∧ t'.super = true ∧
        t'.pmode = t.super ∧ t'.pc = t.tvec &&& ~~~3#64 ∧ t'.getX 2 = t.tstack &&& ~~~63#64 ∧ t'.opaTraps = rest ∧ t'.arith = t.arith))

/-- R88, R104 to R106, R153, R154, R376 to R379, R460: the grid engine's transfers. An OPA's update adds a product, rounded once, to every
cell of its block (the first replaces under Z) and changes no other cell, and its flags land in ARITH; GZERO clears four rows; a ROWFILL's
element, a GLOAD's cell and a ROWSEND's row land in their places. GSAVE writes a cell's five bytes at its place, GDRAIN a converted element
at its address, with its block's scale byte after the block's last; GPARK writes a row's bytes in its slot, and GUNPARK reads them back, or
finds a poisoned stripe of the slot. The model's own readings in it, which no rule fixes: log entries 24, 80 and 81. -/
def Obligations.GridTransfers : Prop :=
  ∀ (s : State) (core : Nat) (g : GridCmd), (s.core core).gq.find? (·.id == g.id) = some g → (s.core core).frozen = false →
    g.entered = true → g.faulted = false → g.done < g.total → (s.core core).gridWf = true →
    let k := s.core core
    let moves := fun (P : State → Prop) => ∃ t, exec (.gridEngineTransfer core g.id) s = .next t ∧ P t
    (∀ na nb z qa qb kk m n col0 f as bs, g.op = .opa na nb z qa qb kk m n col0 f →
      k.opaElems qa.val (g.posA + g.done * m) m g.sideA = some as → k.opaElems qb.val (g.posB + g.done * n) n g.sideB = some bs →
      let acc := f.toNat / 2 ^ 12 % 4
      let row0 := g.rows.headD 0
      let wide := acc = 2
      let fmt : FloatFmt := if wide then .acc80 else .acc40
      let old := fun (u : Core) (r c : Nat) => if wide then (u.cell r (2 * c)).toNat + 2 ^ 40 * (u.cell r (2 * c + 1)).toNat else (u.cell r c).toNat
      (acc = 1 ∨ acc = 0 ∨ wide) → moves fun t =>
        (∀ i j a b, as[i]? = some a → bs[j]? = some b →
          let p := if na ≠ nb then a.negate else a
          let before : Machine.Num := if acc = 1 then .ofInt (k.cell (row0 + i) (col0 + j)).toInt else fmt.value (old k (row0 + i) (col0 + j))
          let v := if z = true ∧ g.done = 0 then (numMul p b).1 else (numFma false p b before).1
          old (t.core core) (row0 + i) (col0 + j) =
            (if acc = 1 then (roundInt .rne 40 true true v).1 else (roundFloat .rne fmt false v).1) % 2 ^ (if wide then 80 else 40)) ∧
        -- the flags of every cell land in the issuer's ARITH
        (∃ F : Machine.Flags, (t.track core g.track).arith = (s.track core g.track).arith ||| F.toArith ∧
          ∀ flag : Machine.Flags → Bool, flag ∈ [Flags.nv, Flags.dz, Flags.of, Flags.uf, Flags.nx, Flags.sf] → (flag F = true ↔
            ∃ i j a b, as[i]? = some a ∧ bs[j]? = some b ∧
              let p := if na ≠ nb then a.negate else a
              let before : Machine.Num := if acc = 1 then .ofInt (k.cell (row0 + i) (col0 + j)).toInt else fmt.value (old k (row0 + i) (col0 + j))
              let v := if z = true ∧ g.done = 0 then numMul p b else numFma false p b before
              (flag v.2 || flag (if acc = 1 then (roundInt .rne 40 true true v.1).2 else (roundFloat .rne fmt false v.1).2)) = true)) ∧
        (∀ r c, (r < row0 ∨ row0 + as.length ≤ r ∨ (if wide then c / 2 else c) < col0 ∨ col0 + bs.length ≤ (if wide then c / 2 else c)) →
          (t.core core).cell r c = k.cell r c) ∧ ∀ a, t.byte a = s.byte a) ∧
    (g.op = .zero → moves fun t => (∀ r c, (t.core core).cell r c = if r ∈ (g.rows.drop (4 * g.done)).take 4 then 0 else k.cell r c) ∧
      ∀ a, t.byte a = s.byte a) ∧
    (∀ et a v u, g.op = .fill et a → s.engineRead (g.who k core) g.id (wrap (a.toNat + g.done * elemBytes et)) (elemBytes et) = .ok v u →
      (u.core core).grid = k.grid → moves fun t =>
        let per := if et = .fp64 then 64 else 128
        let r := g.rows.getD (g.done / per) 0
        let c := g.done % per
        (∀ f, elemKind et = .float f → et ≠ .fp64 → (t.core core).cell r c = BitVec.ofNat 40 (roundFloat .rne .acc40 false (f.value v)).1) ∧
        (∀ b, elemKind et = .int b true → (t.core core).cell r c = BitVec.ofInt 40 (BitVec.ofNat b v).toInt) ∧
        (∀ b, elemKind et = .int b false → (t.core core).cell r c = BitVec.ofNat 40 (v % 2 ^ b)) ∧
        (et = .acc40 → (t.core core).cell r c = BitVec.ofNat 40 v) ∧
        ∀ q x, q ≠ r → (t.core core).cell q x = k.cell q x) ∧
    (∀ a v u, g.op = .load a → s.engineRead (g.who k core) g.id (wrap (a.toNat + 5 * g.done)) 5 = .ok v u → (u.core core).grid = k.grid →
      moves fun t => ∀ r c, (t.core core).cell r c =
        if r = g.rows.headD 0 + g.done / 128 ∧ c = g.done % 128 then BitVec.ofNat 40 v else k.cell r c) ∧
    (∀ target row inc, g.op = .send target row → (s.core target).gridWf = true → (s.core target).frozen = false →
      (s.core target).incoming.find? (fun i => i.src == core && i.cmd == g.id) = some inc →
      (∀ e, e ∈ (s.core target).gq → e.id < inc.stamp → e.keeps (row + g.done) = false) →
      (∀ i, i ∈ (s.core target).incoming → i.stamp < inc.stamp → (row + g.done) ∉ i.rows) →
      moves fun t => ∀ r c, (t.core target).cell r c = if r = row + g.done then k.cell (g.rows.getD g.done 0) c else (s.core target).cell r c) ∧
    (let w := g.who k core
     -- bytes that a command writes at the places `l`, in memory here: `v`'s, lowest first, and no other byte
     let here := fun (u : State) (l : List Nat) => u.memWf = true ∧ (∀ pa, pa ∈ l → ∀ k o, area pa ≠ .remote k o) ∧
       l.Pairwise fun x y => u.loc x ≠ u.loc y
     let others := fun (t u : State) (l : List Nat) => ∀ b, (∀ pa, pa ∈ l → u.loc b ≠ u.loc pa) → t.byte b = u.byte b
     (∀ a l u, g.op = .save a → s.engineChecks w (fun _ => true) (wrap (a.toNat + 5 * g.done)) 5 = .ok l u → here u l → moves fun t =>
       (∀ j pa, l[j]? = some pa →
         t.byte pa = BitVec.ofNat 8 ((k.cell (g.rows.headD 0 + g.done / 128) (g.done % 128)).toNat / 256 ^ j)) ∧ others t u l) ∧
     (∀ va b st sc ix cv l u l2 u2, g.op = .drain va b st sc ix cv →
       let i := g.done
       let whole := coversLine (k.drainBytes g va b st sc ix cv g.vl)
       let size := elemBytes cv.et
       let small := elemBits cv.et = 4
       let at_ := match ix with
         | none => if small then wrap (b.toNat + (i / 2 : Nat))
             else wrap (b.toNat + (i : Int) * (if st = 0 then (size : Int) else st.toInt))
         | some v => wrap (b.toNat + (readView k 0 g.views v .i i).toInt)
       let block := (span (32 * (i / 32)) 32).filter (g.drains va ix cv)
       let scale := sc.map fun _ => mxScale (mxEmax cv.et) (block.map fun j => (readExact k 0 g.views va (drainEt cv) j).toNum)
       let ends := sc.isSome && (i % 32 == 31 || i + 1 == g.vl) && !block.isEmpty
       let x := convert cv ⟨cv.rm, (srBits g.seed g.salt (g.sbase + BitVec.ofNat 64 i)).toNat % 2 ^ 32⟩ scale
         (readExact k 0 g.views va (drainEt cv) i)
       g.drains va ix cv i = true → (small ∨ size = 5 ∨ at_ % size = 0) → s.engineChecks w whole at_ (if small then 1 else size) = .ok l u →
       (if ends then u.engineChecks w whole (wrap ((sc.getD 0).toNat + i / 32)) 1 else .ok [] u) = .ok l2 u2 → here u2 (l ++ l2) →
       moves fun t =>
         (¬small → ∀ j pa, l[j]? = some pa → t.byte pa = BitVec.ofNat 8 (x.1 / 256 ^ j)) ∧
         (small → ∀ pa, pa ∈ l → (t.byte pa).toNat =
           if i % 2 = 1 then x.1 % 16 * 16 + (u2.byte pa).toNat % 16 else (u2.byte pa).toNat / 16 * 16 + x.1 % 16) ∧
         (∀ pa, pa ∈ l2 → t.byte pa = BitVec.ofNat 8 (scale.getD 0)) ∧ others t u2 (l ++ l2) ∧
         (t.track core g.track).arith = (u2.track core g.track).arith ||| x.2.toArith) ∧
     (∀ p, g.op = .park p → p < 3 → s.memWf = true → moves fun t => (∀ r c, (t.core core).cell r c = k.cell r c) ∧
       let pa := scratchPa core (k.pool % 16 * 0x10000 + p * 20480 + 640 * g.done)
       (core < 512 → g.done < 32 → ∀ c j, c < 128 → j < 5 →
         t.byte (pa + 5 * c + j) = BitVec.ofNat 8 ((k.cell (g.rows.getD g.done 0) c).toNat / 256 ^ j)) ∧
       ∀ b, (∀ i, i < 640 → s.loc b ≠ s.loc (pa + i)) → t.byte b = s.byte b) ∧
     (∀ p, g.op = .unpark p →
       let pa := scratchPa core (k.pool % 16 * 0x10000 + p * 20480)
       -- the slot's codewords are decoded first
       let u := s.settle pa 20480
       ((∀ i, i < 320 → u.poisoned (pa + 64 * i) = false) → moves fun t => ∀ r c, (t.core core).cell r c =
         if r = g.rows.getD g.done 0 ∧ c < 128 then BitVec.ofNat 40 (u.bytes (pa + 640 * g.done + 5 * c) 5) else k.cell r c) ∧
       ∀ i, i < 320 → u.poisoned (pa + 64 * i) = true → (∀ j, j < i → u.poisoned (pa + 64 * j) = false) → moves fun t =>
         ∃ r, r ∈ (t.track core g.track).records ∧ r.cause = .poison ∧ r.elem = BitVec.ofNat 64 (64 * i) ∧ r.cmd = g.id ∧
           ∀ r c, (t.core core).cell r c = k.cell r c))

/-- R232, R250, R391: a load's data lands, in its register, where its level's x2 is kept, or in a frozen core's arrival buffer. R286,
R287: a halt that is asked for takes effect at the strip's close; a track with no trip keeps the request. R237: an engine's record becomes
a trap at a strip boundary of level 0, or at once where the track waits on that engine, its strip having closed. R238: the steward thaws
an escalated track at TVEC with its level's registers as at the entry (a strip that the handler left open closes: log entry 52), or kills
its trip. R354: a device's acknowledgement ends a CFLUSH, and a port that is down ends it with LINKDOWN. R241, R242: a walk sets the
accessed bit of the leaf, and the dirty bit for a write, and changes no other byte and no track. The model's own readings in it, which no
rule fixes: log entries 20, 28, 52. -/
def Obligations.WhatBefallsATrack : Prop :=
  ∀ (s : State) (core n : Nat),
    let k := s.core core
    let t := s.track core n
    let v0 : State := { s with cur := (core, n) }
    (∀ p, t.pending.find? (fun p => !p.landed) = some p → ∃ v, exec (.loadResponse core n) s = .next v ∧ (∀ a, v.byte a = s.byte a) ∧
      let t' := v.track core n
      (k.frozen = true → t'.pending = t.pending.map (fun x => if x = p then { x with landed := true } else x) ∧
        ∀ r, t'.getX r = t.getX r) ∧
      (k.frozen = false → t'.pending = t.pending.filter (fun x => x.id != p.id) ∧
        (p.cancelled = true ∨ p.reg = 0 → ∀ r, t'.getX r = t.getX r) ∧
        (p.cancelled = false → p.reg ≠ 0 → (p.reg ≠ 2 ∨ t.level ≤ p.level) → ∀ r, t'.getX r = if r = p.reg then p.value else t.getX r) ∧
        (p.cancelled = false → p.reg = 2 → p.level < t.level → (mget ({} : Frame) (p.level + 1) t'.frames).x2 = p.value ∧
          (p.level = 0 → ∀ r, t'.getX r = t.getX r)))) ∧
    (k.frozen = false → t.escalated = false → t.haltReq = true → t.trip.isSome = true → t.halted = false →
      (v0.tookEffect = true → exec (.trackHalt core n) s = .next v0) ∧
      (v0.tookEffect = false → (∀ r, r ∈ t.stepRows → k.busy r = false) → ∀ u, v0.stripClose = .done u → exec (.trackHalt core n) s = .next (u.modMe fun t =>
        { t with halted := true, haltReq := false, why := t.haltWhy, wait := none, stepping := false, stepRows := [] }))) ∧
    (t.trip = none → ∃ v, exec (.trackHalt core n) s = .next v ∧ v.track core n = t) ∧
    (t.level = 0 → t.trip.isSome = true → k.frozen = false → t.halted = false → t.escalated = false →
      (∀ r rest, t.records = r :: rest → t.opaTraps = [] → t.strip.isOpen = false → t.wait = none → v0.waitRecord core n = none →
        ∃ v, exec (.engineRecordDelivery core n) s = .next v ∧
          let t' := v.track core n
          t'.tcause = BitVec.ofNat 64 (r.cause.code + 256 + 512 * r.engine) ∧ t'.taddr = r.addr ∧ t'.tfpc = r.fpc ∧ t'.telem = r.elem ∧
          t'.tepc = t.pc ∧ t'.level = 1 ∧ t'.super = true ∧ t'.resume = some r.cmd ∧ t'.records = rest ∧ t'.pc = t.tvec &&& ~~~3#64) ∧
      (∀ r u, v0.waitRecord core n = some r → v0.stripClose = .done u → ∃ v, exec (.engineRecordDelivery core n) s = .next v ∧
        v.me.tcause = BitVec.ofNat 64 (r.cause.code + 256 + 512 * r.engine) ∧ v.me.taddr = r.addr ∧ v.me.tfpc = r.fpc ∧
        v.me.telem = r.elem ∧ v.me.tepc = u.me.pc ∧ v.me.level = u.me.level + 1 ∧ v.me.super = true ∧ v.me.resume = some r.cmd ∧
        v.me.records = u.me.records.erase r ∧ v.me.wait = none ∧ v.me.pc = u.me.tvec &&& ~~~3#64)) ∧
    -- a frozen core's track stays as it is, and so does one of a die whose steward is stopped
    (k.frozen = true ∨ s.runClear core = true ∨ t.escalated = false →
      exec (.stewardThawEscalated core n) s = .next s ∧ exec (.stewardKillTrip core n) s = .next s) ∧
    (t.escalated = true → k.frozen = false → s.runClear core = false → ∃ v, exec (.stewardThawEscalated core n) s = .next v ∧
      let t' := v.track core n
      let f := mget ({} : Frame) t.level t.entries
      t'.escalated = false ∧ t'.pc = t.tvec &&& ~~~3#64 ∧ t'.super = true ∧ t'.tcause = f.tcause ∧ t'.taddr = f.taddr ∧
      t'.tepc = f.tepc ∧ t'.tfpc = f.tfpc ∧ t'.telem = f.telem ∧ t'.acked = false ∧ t'.pmode = f.pmode ∧ t'.level = t.level ∧
      t'.wait = none ∧ t'.strip.isOpen = t.strip.isOpen ∧ (t.strip.isOpen = true → t'.strip.closing = true ∧ t'.strip.buf = t.strip.buf) ∧
      ∀ r : Reg, t'.getX r = if r = 2 then (if t.level = 1 then t.tstack &&& ~~~63#64 else f.x2) else t.getX r) ∧
    -- a copy's write in flight lands before the kill
    (t.escalated = true → k.frozen = false → s.runClear core = false →
      exec (.stewardKillTrip core n) s = .next (if s.killHeld core n then s else s.killTrip core n)) ∧
    (∀ w a, s.waitsFor core n .cflush w → w.instr = .cflush a →
      (s.linkDown (w.obj * 64) = false → Resumes s (.cxlFlushAck core n) core n (.cflush a) v0) ∧
      (s.linkDown (w.obj * 64) = true → exec (.cxlFlushAck core n) s = .next (((v0.modMe fun t => { t with wait := none, touched := [] }).syncFault
        { cause := .linkDown, addr := v0.x a }).endStepWith []))) ∧
    ∀ (va : Word) (write : Bool), s.memWf = true → t.trip.isSome = true → canonical va.toNat = true → windowOf va.toNat = none →
      let w := v0.who
      let u := s.modCore w.core (·.count 0x21 1)
      let found := walkFrom u w va.toNat 5 0 w.desc.root.toNat []
      s.walkHeld w va.toNat (if write then .write else .read) = false → ∃ v, exec (.pageWalk core n va write) s = .next v ∧ (∀ c m, (v.track c m).visible = (s.track c m).visible) ∧
        (∀ cause seen, found = .fault cause seen → ∀ a, v.byte a = s.byte a) ∧
        ∀ e level at_ seen, found = .leaf e level at_ seen → (∀ a, a < at_ ∨ at_ + 8 ≤ a → v.byte a = s.byte a) ∧
          ((∃ pa, placeLeaf w (if write then .write else .read) va.toNat e level u = .inr pa) →
            BitVec.ofNat 64 (v.bytes at_ 8) = setFld (if write then setFld e 7 7 1 else e) 6 6 1)

/-! Trips and launches. -/

/-- R41, R42, R45, R46, R414, R427: SPAWN makes a child of the trip's continuation, counted in its join, and queues it where the spawn
pool and the queue have room, or else runs it inline over a record of 40 bytes on the stack (a full spill area is reported); CONT sets the continuation's code and frame;
TRIGGER counts once for each leaf trip; YIELD ends once its cycles have passed and the tracks that were ready have issued or are not. R41,
R43, R236: EXIT waits for its trip's rows and commands, then stops the trip's streams and ends it; in an inline child it takes back the
record and goes on after the SPAWN with 1 in its destination; at trap level 1 or deeper it ends the trip as killed. The model's own
readings in it, which no rule fixes: log entries 10, 15, and 87 for when a track has issued. -/
def Obligations.TripInstructions : Prop :=
  (∀ (s s1 : State) (d a b : Reg) (p : Place) (n : Fin 32) (tr : Trip),
    let code := s1.x a
    let frame := s1.x b
    let join := fun (v : State) (id : Nat) => mget { join := 1, trip := tr } id v.conts
    -- a track that has issued since the cycle of the YIELD
    let issued := fun (v : State) (c u : Nat) (w : Wait) => 1 ≤ w.cycles ∧ ∃ e, e ∈ (v.core c).issued ∧ e.1 = u
    s1.me.trip = some tr →
    (s.entered (.spawn d a b p) = some s1 →
      let i := Instr.spawn d a b p
      let c := s1.cur.1
      let child : Trip := { tr with
        code := code, frame := frame, gang := none, acquires := [], scope := placeScope p
        inst := (match p with | .core => .core c | .cluster => .cluster (c / 16) | .die => .die (c / 128)) }
      let pooled := s1.spawned c < 64 ∧ ∃ at_, s1.roomFor child (s1.homeOf tr.serial) = some at_
      (code.toNat % 4 ≠ 0 → Faults s i s1 .align code 0) ∧
      (code.toNat % 4 = 0 → pooled → ∃ (t : State) (id : Nat) (e : Ready), Completes s i (t.setX d 0) ∧ t.me.cont = some id ∧
        (∀ k, s1.me.cont = some k → id = k) ∧ (join t id).join = (if s1.me.cont.isSome then (mget { join := 0, trip := tr } id s1.conts).join else 1) + 1 ∧
        t.ready = s1.ready ++ [e] ∧ e.spawnCore = some c ∧ e.trip.acquires = s1.relsOf true (placeScope p) ∧
        { e.trip with parent := tr.parent, acquires := [] } = { child with parent := tr.parent } ∧ e.trip.parent = .cont id ∧
        (∀ r, t.x r = s1.x r) ∧ t.me.pc = s1.me.pc) ∧
      (code.toNat % 4 = 0 → ¬pooled → s1.me.stillLoads [1, 2, 3, 4] = true →
        Waits s i (if 64 ≤ s1.spawned c then s1 else s1.reportFull tr.ctx) .remote 0) ∧
      (code.toNat % 4 = 0 → ¬pooled → s1.me.stillLoads [1, 2, 3, 4] = false → ∀ (pas : List Nat) (u : State),
        let ra : Nat := ((s1.x 2).toNat + 2 ^ 64 - 40) % 2 ^ 64 / 8 * 8
        let held := fun (g : Granule) => u.storeWaits u.cur.1 g.pa g.mask.toNat
        let words := (pas.zip [s1.x 1, s1.x 2, s1.x 3, s1.x 4, s1.me.pc + 4]).map fun x => (⟨x.1, x.2, BitVec.allOnes 64⟩ : Granule)
        spawnInline.checks ra 5 (if 64 ≤ s1.spawned c then s1 else s1.reportFull tr.ctx) = .ok pas u → (∀ g, g ∈ words → held g = none) →
        ∃ t : State, Jumps s i t ∧ t.conts = u.conts ∧ t.ready = u.ready ∧ t.me.pc = code ∧ t.x 2 = BitVec.ofNat 64 ra ∧ t.x 3 = frame ∧
          t.x 4 = BitVec.ofNat 64 ra ∧ (∀ r : Reg, r ≠ 2 → r ≠ 3 → r ≠ 4 → t.x r = u.x r) ∧
          t.me.inline = (BitVec.ofNat 64 ra, d) :: u.me.inline ∧
          ∀ x, t.byte x = (performGranules u.cur.1 u.me.strip.notes words u).1.byte x)) ∧
    (s.entered (.cont a b) = some s1 →
      (code.toNat % 4 ≠ 0 → Faults s (.cont a b) s1 .align code 0) ∧
      (code.toNat % 4 = 0 → ∃ (t : State) (id : Nat), Completes s (.cont a b) t ∧ t.me.cont = some id ∧ (∀ k, s1.me.cont = some k → id = k) ∧
        (join t id).code = code ∧ (join t id).frame = frame ∧ (s1.me.cont = none → (join t id).join = 1 ∧ (join t id).trip = tr) ∧
        ∀ k, s1.me.cont = some k → (join t k).join = (join s1 k).join)) ∧
    (s.entered .trigger = some s1 →
      let u := s1.newTick
      (tr.leaf = none → Completes s .trigger u) ∧
      (∀ j l, tr.leaf = some j → u.launch? tr.serial = some l →
        (tr.epilogue = true ∨ j ∈ l.triggered → Completes s .trigger u) ∧
        (tr.epilogue = false → j ∉ l.triggered → Completes s .trigger ((u.modLaunch tr.serial fun l =>
          { l with triggered := insertNat j l.triggered, triggers := l.triggers + 1,
                   trigRels := if l.triggers < l.rec_.early then s1.relsOf true .package ++ l.trigRels else l.trigRels }).noteStatus
            tr.serial)))) ∧
    (s.entered (.yield n) = some s1 →
      let ends := match s1.me.wait with
        | some w => n.val ≤ w.cycles ∧ ∀ u, u ∈ w.others → s1.isReady s1.cur.1 u = false ∨ issued s1 s1.cur.1 u w
        | none => n.val = 0 ∧ s1.readyOthers = []
      (ends → Completes s (.yield n) s1) ∧ (¬ends → Waits s (.yield n) s1 .yield 0)) ∧
    ∀ c t w, s.waitsFor c t .yield w → w.instr = .yield n → n.val ≤ w.cycles →
      (∀ u, u ∈ w.others → State.isReady { s with cur := (c, t) } c u = false ∨ issued s c u w) →
      Resumes s (.yieldEnd c t) c t (.yield n) { s with cur := (c, t) }) ∧
  (∀ (s s1 : State), s.entered .exit = some s1 →
    let c := s1.cur.1
    let n := s1.cur.2
    let k := s1.myCore
    let running := (∃ r, s1.me.rowbase ≤ r ∧ r < s1.me.rowbase + s1.me.rows ∧ k.busy r = true) ∨ (∃ g, g ∈ k.copies ∧ g.track = n) ∨
      (∃ g, g ∈ k.gq ∧ g.track = n) ∨ (∃ g, g ∈ k.cbkCmds ∧ g.track = n) ∨
      -- writes of an output stream that are on their way
      ((∃ x, x ∈ s1.requests ∧ x.2.core = c ∧ x.2.unit = storeUnit) ∧ ∃ e, e ∈ k.streams ∧ e.2.owner = n ∧ e.2.pat.dir = 1)
    (1 ≤ s1.me.level → (s1.killHeld c n = true → Waits s .exit s1 .abort 8) ∧
      (s1.killHeld c n = false → Jumps s .exit (s1.killTrip c n))) ∧
    (s1.me.level = 0 → s1.me.inline = [] → (running → Waits s .exit s1 .exit 0) ∧
      (¬running → Jumps s .exit ((s1.stopOwned c n).endTrip c n false))) ∧
    ∀ ra xd rest, s1.me.level = 0 → s1.me.inline = (ra, xd) :: rest →
      (s1.me.stillLoads [1, 2, 3, 4, xd] = true → Waits s .exit s1 .remote 0) ∧
      (s1.me.stillLoads [1, 2, 3, 4, xd] = false → ∀ v0 v1 v2 v3 v4 u0 u1 u2 u3 u4,
        let at_ := fun (o : Nat) => (ra.toNat + o) % 2 ^ 64
        s1.load (at_ 0) 8 0 = .ok v0 u0 → u0.load (at_ 8) 8 0 = .ok v1 u1 → u1.load (at_ 16) 8 0 = .ok v2 u2 →
        u2.load (at_ 24) 8 0 = .ok v3 u3 → u3.load (at_ 32) 8 0 = .ok v4 u4 →
        ∃ t : State, Jumps s .exit t ∧ t.me.pc = BitVec.ofNat 64 v4 ∧ t.me.inline = u4.me.inline.drop 1 ∧
          (∀ r : Reg, t.x r = if r = 0 then 0 else if r = xd then 1 else if r = 1 then BitVec.ofNat 64 v0 else if r = 2 then BitVec.ofNat 64 v1
            else if r = 3 then BitVec.ofNat 64 v2 else if r = 4 then BitVec.ofNat 64 v3 else u4.x r) ∧
          (∀ x, t.byte x = u4.byte x) ∧ t.conts = u4.conts)) ∧
  -- what the end of a trip leaves, and its kill
  (∀ (s : State) (c n : Nat) (tr : Trip) (killed : Bool), (s.track c n).trip = some tr →
    let t := s.track c n
    let idle := fun (v : State) => (v.track c n).trip = none ∧ (v.track c n).band = 0 ∧ (v.track c n).bands = 0 ∧ (v.track c n).held = 0 ∧
      (v.track c n).fq = [] ∧ (v.track c n).barriers = [] ∧ (v.track c n).level = 0 ∧ (v.track c n).records = [] ∧ (v.track c n).opaTraps = [] ∧
      (v.track c n).strip.isOpen = false ∧ (v.track c n).left = [] ∧ (v.track c n).wait = none ∧ (v.track c n).pending = [] ∧
      (v.track c n).escalated = false ∧ (v.track c n).cont = none
    idle (s.endTrip c n killed) ∧ idle (s.killTrip c n) ∧
    -- each barrier that it has joined loses a member; a kill breaks it
    (s.withdraw c n killed = (t.barriers.foldl (fun v b =>
        let v := v.barWithdraw t.ctxid b.1 (t.fenceRel.map fun f => ⟨.core c, f.1, f.2⟩)
        if killed then v.breakBarrier t.ctxid b.1 else v) s).modTrack c n fun t => { t with barriers := [] }) ∧
    (∀ q : Q8, ∀ g, g ∈ (mget ({} : Chan) q.val ((s.killTrip c n).core c).chans).queue → g.track ≠ n) ∧
    (∀ g, g ∈ ((s.killTrip c n).core c).gq → g.track ≠ n) ∧ (∀ g, g ∈ ((s.killTrip c n).core c).cbkCmds → g.track ≠ n) ∧
    -- its completion counts down its continuation, or its parent's join, and a kill counts in its launch
    ∀ l id k, s.launch? tr.serial = some l → (t.cont = some id ∨ (t.cont = none ∧ tr.parent = .cont id)) → mfind id s.conts = some k →
      1 < k.join → ∃ r l', (s.endTrip c n killed).conts = mput id { k with join := k.join - 1, rels := r :: k.rels } s.conts ∧
        r.loc = .core c ∧ r.scope = l.rec_.scopeAt tr.level ∧ (s.endTrip c n killed).launch? tr.serial = some l' ∧
        l'.killed = l.killed + killed.toNat)

/-- R21 to R25, R29, R31, R44, R389: LAUNCH and the host queue take a record of 256 bytes into its home die's pool with its slot, or
reject it with the lowest code of its failed checks, which the record's fields decide; LAUNCH waits for a link under test on the way to
the home die, of which R44 says nothing (R281; log entry 48); a full pool gives FULL to LAUNCH and lets a queue wait; a launch starts once
its predecessors, its queue and its tracks allow. The model's own readings in it, which no rule fixes: log entries 16, 18, 48, and log entry
66 for code 8, which LAUNCH takes from the mode it is issued in. -/
def Obligations.LaunchesAreTaken : Prop :=
  ∀ (s s1 u : State) (d a : Reg) (w queue serial : Nat) (l : Launch),
    let r := launchRec w
    let least := fun (cs : List Nat) (c : Nat) => c ∈ cs ∧ ∀ x, x ∈ cs → c ≤ x
    (s.entered (.launch d a) = some s1 →
      let i := Instr.launch d a
      let va := s1.x a
      (va.toNat % 64 ≠ 0 → Faults s i s1 .align va 0) ∧
      (va.toNat % 64 = 0 → s1.readRecord va.toNat 32 = .ok w u →
        let ctx := u.me.ctxid
        let codes := r.fails ++ (if r.super = true ∧ u.me.super = false then [8] else []) ++
          (if (u.predsOf r ctx).2 = true then [9] else []) ++ (if r.ctx ≠ 0 then [12] else [])
        let tested := u.routeTested (dieOf u.cur.1) r.home = true
        let full := 256 ≤ (u.poolSlots r.home).length
        (tested → Waits s i u .remote 0) ∧
        (¬tested → full → Completes s i (u.setX d 1)) ∧
        (¬tested → ¬full → ∀ c, least codes c → Completes s i (u.setX d (BitVec.ofNat 64 (256 + c)))) ∧
        (¬tested → ¬full → codes = [] →
          let took := (u.takeLaunch r ctx none u.me.launches [⟨u.myLoc, .system, u.who.released⟩] 0).1
          Completes s i (((took.modMe fun t => { t with launches := t.launches ++ [u.nextId] }).newTick).setX d 0)))) ∧
    (let st := (s.lqReg queue 0x20).toNat
     let head := (s.lqReg queue 0x10).toNat % 2 ^ 32
     let next := exec (.queueRecordRead queue) s
     st % 2 = 1 → head ≠ (s.lqReg queue 0x18).toNat % 2 ^ 32 →
       w = s.bytes (fld (s.lqReg queue 0) 51 12 * 4096 + head % 2 ^ ((s.lqReg queue 8).toNat % 32) * 256) 256 →
       let codes := r.fails ++ (if r.super = true ∧ st / 2 % 2 = 0 then [8] else []) ++ (if (s.predsOf r r.ctx).2 = true then [9] else []) ++
         (if r.prio ≠ queue then [11] else []) ++ (if (s.readDesc r.home r.ctx).flags % 2 = 0 then [12] else [])
       let before := (s.launches.filter fun l => l.2.queue == some queue && !l.2.isOver).map (·.1)
       let took := fun (c : Nat) => (s.takeLaunch r r.ctx (some queue) before [s.hostReleased] c).1.setLq queue 0x10 (BitVec.ofNat 64 ((head + 1) % 2 ^ 32))
       (256 ≤ (s.poolSlots r.home).length → next = .next s) ∧
       ((s.poolSlots r.home).length < 256 → (codes = [] → next = .next (took 0)) ∧
         ∀ c, least codes c → next = .next ((took c).setLq queue 0x20 (setFld ((took c).lqReg queue 0x20) 15 8 c)))) ∧
    (let f := recField w
     let lv := r.levels
     let above := fun (i : Nat) => if i = 0 then 0 else (lv[i - 1]?.map (·.domain)).getD 0
     let need := fun (d : Nat) => if d ≤ 1 then 3 else if d = 2 then 2 else if d = 3 then 1 else 0
     let tracks := fun (d : Nat) => if d = 0 then 2048 else if d = 1 then 512 else if d = 2 then 64 else if d = 3 then 4 else 1
     let some_ := fun (p : Nat → LevelRec → Prop) => ∃ i l, lv[i]? = some l ∧ p i l
     let scr := f 0x18 8 % 16
     let park := f 0x18 8 / 16 % 64
     let lanes := f 0x20 4
     r.super = decide (f 2 2 / 2 % 2 = 1) ∧ r.prio = f 2 2 / 4 % 4 ∧ r.home = f 2 2 / 16 % 4 ∧ r.ctx = f 0x2C 4 ∧ r.tag = f 0x28 4 ∧
     lv = (List.range (min (f 0x4C 1) 8)).map (fun i =>
       let a := f (0x70 + 16 * i) 4
       ⟨a % 8, a / 8 % 8, decide (a / 64 % 2 = 1), decide (a / 128 % 2 = 1), a / 256, BitVec.ofNat 64 (f (0x78 + 16 * i) 8)⟩) ∧
     (r.reservedOk = true ↔ f 2 2 < 64 ∧ f 0x4E 2 = 0 ∧ f 0xF0 16 = 0 ∧
       (∀ i, i < 4 → (i < f 0x4D 1 → f (0x50 + 8 * i) 8 < 2 ^ 33) ∧ (f 0x4D 1 ≤ i → f (0x50 + 8 * i) 8 = 0)) ∧
       (∀ i, i < 8 → (i < f 0x4C 1 → f (0x74 + 16 * i) 4 = 0) ∧ (f 0x4C 1 ≤ i → f (0x70 + 16 * i) 16 = 0)) ∧
       ∀ l, l ∈ lv → l.domain < 5 ∧ l.scope < 6 ∧ (l.epilogue = true ∨ l.code = 0)) ∧
     ∀ c, c ∈ r.fails ↔ (c = 1 ∧ f 0 2 ≠ 1) ∨ (c = 2 ∧ r.reservedOk = false) ∨ (c = 3 ∧ (f 0x4C 1 = 0 ∨ 8 < f 0x4C 1 ∨ 4 < f 0x4D 1)) ∨
       (c = 4 ∧ some_ fun i l => l.domain < above i) ∨ (c = 5 ∧ some_ fun i l => l.scope < need (above i)) ∨
       (c = 6 ∧ (2 ^ 40 ≤ lv.foldl (fun n l => n * l.count) 1 ∨
         some_ fun i l => l.count = 0 ∨ (l.gang = true ∧ (i + 1 < lv.length ∨ tracks (above i) < l.count)))) ∨
       (c = 7 ∧ (2 ^ 10 ≤ f 0x18 8 ∨ scr < 5 ∨ 14 < scr ∨ 32 < park ∨ 960 < scr * 64 + park * 20 ∨ 2 ^ 17 ≤ lanes ∨
         8 < lanes % 16 + lanes / 16 % 16 + lanes / 256 % 16 + lanes / 4096 % 16)) ∨
       (c = 10 ∧ (f 8 8 % 4 ≠ 0 ∨ (∃ l, l ∈ lv ∧ l.code.toNat % 4 ≠ 0) ∨ f 0x10 8 % 64 ≠ 0 ∨ f 4 4 % 64 ≠ 0 ∨ f 0x40 8 % 64 ≠ 0 ∨
         f 0x48 4 % 64 ≠ 0))) ∧
    (r.status = 0 → ∀ ctx q after rels, ∃ slot, ((s.poolSlots r.home).length < 256 → slot < 256 ∧ slot ∉ s.poolSlots r.home) ∧
      (s.takeLaunch r ctx q after rels 0).1.launch? s.nextId = some
        { rec_ := r, slot := slot, ctx := ctx, queue := q, phase := .pending, code := 0, preds := (s.predsOf r ctx).1, after := after
          root := (r.levels.map (·.count)).headD 0, rels := rels }) ∧
    (s.launch? serial = some l → l.phase = .pending →
      (∀ p, p ∈ l.preds → ∀ x, s.launch? p.1 = some x → x.isOver = true ∨ (p.2 = true ∧ x.rec_.early ≤ x.triggers)) →
      (l.rec_.afterAll = true → ∀ p x, p ∈ l.after → s.launch? p = some x → x.isOver = true) →
      (∀ q, l.queue = some q → ∀ x, x ∈ s.launches → x.2.queue = some q → x.1 < serial → x.2.phase ≠ .pending) →
      (∃ t c n, t ∈ l.rec_.leafInsts ∧ c < 512 ∧ n < 4 ∧ s.reservedFor c n = none ∧ s.memberFits c n (leafTrip serial l 0 t) = true) →
      exec (.launchStart serial) s = .next ((s.modLaunch serial fun l =>
        { l with phase := .started, rels := l.rels ++ s.predRels l }).noteStatus serial))

/-- R34, R36, R37, R47 to R51: an expander makes the next record, or the next gang, of a started launch while its queue has room; an idle
track takes the best ready trip it may and starts with the state of a new trip; the members of a gang start together; an entry that has
waited the threshold rises a class; a spilled entry returns when it is the oldest and there is room. The model's own readings in it, which
no rule fixes: log entries 16, 19, 67 (the sixteen gangs), 68 (whose SAGE) and 78 (the package's gangs). -/
def Obligations.TripsStart : Prop :=
  ∀ (s : State) (core n serial parent : Nat) (l : Launch) (at_ : Inst) (e : Ready),
    let lv := l.rec_.levels
    let gang := (lv.getLast?.map (·.gang)).getD false
    let turn := fun (home : Nat) => match at_ with
      | .package x => x = home
      | _ => True
    let domain := fun (ls : List LevelRec) => (ls.getLast?.map (·.domain)).getD 0
    let cursor := mget 0 (instKey at_) l.cursor
    let push := exec (.expanderPush serial at_) s
    (s.launch? serial = some l → l.phase = .started → gang = false → turn ((l.rec_.home + l.dealt) % 4) → instDomain at_ = domain lv →
      ∀ i, nextIndex lv at_ cursor = some i → s.queueLength (queueOf at_) < 16 → s.roomFor (leafTrip serial l i at_) l.rec_.home = none →
      push = .next (s.reportFull l.ctx)) ∧
    (s.launch? serial = some l → l.phase = .started → gang = false → turn ((l.rec_.home + l.dealt) % 4) → instDomain at_ = domain lv →
      ∀ i p, nextIndex lv at_ cursor = some i → s.queueLength (queueOf at_) < 16 → s.roomFor (leafTrip serial l i at_) l.rec_.home = some p →
      ∃ (t : State) (x : Ready) (l' : Launch), push = .next t ∧ t.ready = s.ready ++ [x] ∧ x.trip = leafTrip serial l i at_ ∧ x.place = p.1 ∧
        t.launch? serial = some l' ∧ mget 0 (instKey at_) l'.cursor = i + 1 ∧ l'.rec_ = l.rec_) ∧
    (s.launch? serial = some l → l.phase = .started → gang = true → turn l.rec_.home → instDomain at_ = domain lv.dropLast →
      ∀ i, nextIndex lv.dropLast at_ cursor = some i → (s.gangs.filter fun g => g.inst == at_).length < 16 →
      ∃ t, push = .next t ∧ t.gangs = s.gangs ++ [⟨serial, i, at_, s.time⟩] ∧ t.ready = s.ready) ∧
    (let able := fun (x : Ready) => x ∈ s.ready ∧ x.place ≠ 3 ∧ s.canTake core n x.trip = true
     s.reservedFor core n = none → able e → (∀ x, able x → x ≠ e → e.before x = true) →
      ∃ t : State, exec (.tripStart core n) s = .next t ∧ (∀ x, x ∈ t.ready ↔ x ∈ s.ready ∧ x.seq ≠ e.seq) ∧
        let k := t.track core n
        let top := fun (base : Word) (size : Nat) => base + BitVec.ofNat 64 ((core * 4 + n + 1) * size)
        k.trip = some e.trip ∧ k.pc = e.trip.code ∧ k.prio = e.trip.prio ∧ k.super = e.trip.super ∧ k.level = 0 ∧ k.acked = false ∧
        k.getX 3 = e.trip.frame ∧ (∀ x, s.launch? e.trip.serial = some x → k.getX 2 = top x.rec_.stackBase x.rec_.stackSize) ∧
        (∀ r : Reg, r ≠ 2 → r ≠ 3 → k.getX r = 0) ∧ (∀ m : MReg, m ≠ 0 → k.getM m = 0) ∧ k.fq = [] ∧ k.vl = 0 ∧ k.vlmax = 0 ∧ k.sbase = 0 ∧
        k.levelidx = BitVec.ofNat 64 e.trip.levelidx ∧ k.tripid = mget 0 e.trip.ctx s.tripCount ∧ k.arith = 0 ∧ k.band = 0 ∧ k.bands = 0 ∧
        k.strip.isOpen = false ∧ k.ctxid = e.trip.ctx) ∧
    (∀ g ps, s.gangs.find? (fun g => g.serial == serial && g.parent == parent) = some g → s.gangPlaces g (s.gangMembers g) [] = some ps →
      ps.map (·.1) = s.gangMembers g ∧ exec (.gangStart serial parent) s = .next (ps.foldl (fun s x => s.startTrip x.2.1 x.2.2 x.1)
        { s with gangs := s.gangs.filter fun x => !(x.serial == serial && x.parent == parent) })) ∧
    (∃ t : State, exec (.agingThreshold e.seq) s = .next t ∧ t.ready.length = s.ready.length ∧ ∀ x, x ∈ s.ready →
      let sage := (s.stew (s.homeOf x.trip.serial) 0x28).toNat % 2 ^ 32
      let y := if x.seq = e.seq ∧ sage ≠ 0 ∧ sage ≤ x.waited ∧ min 3 (x.trip.prio + x.raised) < 3 then
        { x with raised := x.raised + 1, waited := x.waited - sage } else x
      y ∈ t.ready ∧ y.cls = (if y = x then x.cls else x.cls + 1)) ∧
    (e ∈ s.ready → e.place ≠ 0 → (∀ x, x ∈ s.ready → x.seq = e.seq → x = e) →
      let others := { s with ready := s.ready.filter fun x => x.seq != e.seq }.freeSlot e
      (∀ x, x ∈ s.ready → x.place ≠ 0 → queueOf x.trip.inst = queueOf e.trip.inst → e.seq ≤ x.seq) →
      ∀ p, others.placeFor e.trip (s.homeOf e.trip.serial) = some p → (p.1 = 0 ∨ e.place = 3) →
        exec (.spillReturn e.seq) s = .next (others.putReady e p))

/-- R26, R27, R38, R42: a completion counts its parent down: a continuation's last one starts its code or passes on, a level's last one
starts its epilogue or passes on, the root's ends the launch; then the status block and the junction are written; what of it must wait is made again
from there, a fault there is reported and held for the steward, which has it made again or discards it, and the pool's record is free. The model's own readings
in it, which no rule fixes: log entry 17, and log entry 79 for the list that a continuation goes to. -/
def Obligations.LaunchesComplete : Prop :=
  ∀ (s : State) (serial m : Nat) (l : Launch) (rels : List Rel), s.launch? serial = some l →
    (s.decrement serial .root rels (m + 1) = s.modLaunch serial fun l =>
      { l with root := l.root - 1, phase := if l.root ≤ 1 then .finishing else l.phase }) ∧
    (∀ id c, mfind id s.conts = some c → 1 < c.join → s.decrement serial (.cont id) rels (m + 1) =
      { s with conts := mput id { c with join := c.join - 1, rels := rels ++ c.rels } s.conts }) ∧
    (∀ id c, mfind id s.conts = some c → c.join ≤ 1 → c.code ≠ 0 → s.decrement serial (.cont id) rels (m + 1) =
      { s with conts := mdel id s.conts }.enqueue { c.trip with
        code := c.code, frame := c.frame, gang := none, acquires := rels ++ c.rels, scope := l.rec_.scopeAt c.trip.level }) ∧
    (∀ id c, mfind id s.conts = some c → c.join ≤ 1 → c.code = 0 →
      let all := rels ++ c.rels
      let v : State := { s with conts := mdel id s.conts }
      s.decrement serial (.cont id) rels (m + 1) = (match c.trip.parent with
        | .cont _ => v
        | .root => v.countChain c.trip all
        | .node _ _ => v.countChain c.trip all).decrement serial c.trip.parent all m) ∧
    (∀ lv i e, l.rec_.levels[lv]? = some e → (mfind (lv * 2 ^ 40 + i) l.nodes).getD (((l.rec_.levels[lv + 1]?).map (·.count)).getD 1) ≤ 1 →
      let r := l.rec_
      let key := lv * 2 ^ 40 + i
      let all := rels ++ mget [] key l.nodeRels
      let up : Parent := if lv = 0 then .root else .node (lv - 1) (i / e.count)
      let v := s.modLaunch serial fun l => { l with nodes := mdel key l.nodes, nodeRels := mdel key l.nodeRels }
      let last := s.decrement serial (.node lv i) rels (m + 1)
      (e.epilogue = true → last = (v.deal serial (r.instAt lv i)).1.enqueue
        { serial := serial, ctx := l.ctx, tag := r.tag, code := e.code, levelidx := i, level := lv, prio := r.prio, super := r.super
          frame := r.frameBase + BitVec.ofNat 64 (i * (r.levels.drop (lv + 1)).foldl (fun n x => n * x.count) 1 * r.frameSize)
          epilogue := true, parent := up, inst := (v.deal serial (r.instAt lv i)).2, acquires := all, scope := r.scopeAt (lv + 1) }) ∧
      (e.epilogue = false → last = v.decrement serial up (all.map fun x => { x with scope := r.scopeAt lv }) m)) ∧
    (∀ lv i n, (mfind (lv * 2 ^ 40 + i) l.nodes).getD (((l.rec_.levels[lv + 1]?).map (·.count)).getD 1) = n → 1 < n →
      ∃ t l', s.decrement serial (.node lv i) rels (m + 1) = t ∧ t.launch? serial = some l' ∧ mfind (lv * 2 ^ 40 + i) l'.nodes = some (n - 1) ∧
        t.ready = s.ready ∧ l'.completed = l.completed) ∧
    let done := fun (v : State) => v.modLaunch serial fun l => { l with held := none, phase := if l.phase = .rejected then .rejected else .done }
    let held := fun (v : State) (a : Word) (c : Cause) (j : Bool) =>
      { v.modLaunch serial (fun l => { l with held := some (a, c, j), phase := if l.phase = .rejected then .rejected else .waitingWrite }) with
        reports := v.reports ++ [.launchWrite serial l.rec_.tag a c] }
    let later := fun (v : State) (from_ : Nat) => v.modLaunch serial fun l => { l with held := none, todo := some from_ }
    let code : Nat := if l.phase = .rejected then 4 else if l.killed ≠ 0 then 5 else 3
    let s0 := s.modLaunch serial fun l => { l with todo := none }
    let status := s0.writeStatus serial code
    let jct := fun (v : State) (l : Launch) => v.engineJct (v.homeWho serial l) serial l.rec_.junction 1 (.die l.rec_.home)
    let adds := fun (u : State) (ends : State → Prop) =>
      (∀ v, jct u l = .ok () v → ends (done v)) ∧ (∀ v, jct u l = .wait v → ends (later v 1)) ∧
      ∀ c a v, jct u l = .fault c a v → ends (held v l.rec_.junction c true)
    let writes := fun (ends : State → Prop) =>
      (∀ c a v, status = .fault c a v → ends (held v l.rec_.status c false)) ∧ (∀ v, status = .wait v → ends (later v 0)) ∧
      ∀ u, status = .ok () u → adds u ends
    let ends := fun (i : Instr) (x : State) => exec i s = .next x
    (l.phase = .finishing → l.todo = none → writes (ends (.launchComplete serial))) ∧
    (l.todo = some 0 → writes (ends (.launchComplete serial))) ∧ (l.todo = some 1 → adds s0 (ends (.launchComplete serial))) ∧
    (∀ a c, l.held = some (a, c, false) → writes (ends (.stewardWriteRetry serial)) ∧ adds s0 (ends (.stewardWriteDiscard serial))) ∧
    (∀ a c, l.held = some (a, c, true) → adds s0 (ends (.stewardWriteRetry serial)) ∧ ends (.stewardWriteDiscard serial) (done s0))

/-! Waypoint images. -/

/-- R247 to R253: FREEZE is for supervisors, and for another core; a frozen target gives ALREADY, another is waited for until the request
has stopped it; a steward's own request gives it the same statuses; the stop changes nothing that the core holds. Its image is sealed once nothing is outstanding and every hold notice has
its acknowledgement. R247, R249, R421: THAW and THAW.V: the status by the target's state, and the clock's restart on what the core holds,
or, with .V, on a core with neither trips nor a context. What one core tells another waits for a Causeway link under test. The model's own
readings in it, which no rule fixes: log entries 34, 36, 38, 69. -/
def Obligations.FreezeAndThaw : Prop :=
  (∀ (s s1 : State) (d a : Reg) (core n : Nat) (q : Q8) (st o : Stream) (c r : Nat),
    let k := s.core core
    (s.entered (.freeze d a) = some s1 →
      let i := Instr.freeze d a
      let v := (s1.x a).toNat
      (s1.me.super = false → Faults s i s1 .priv 0 0) ∧
      (s1.me.super = true → (512 ≤ v ∨ v = s1.cur.1) → Faults s i s1 .illegal 0 0) ∧
      (s1.me.super = true → v < 512 → v ≠ s1.cur.1 →
        let stopped := ∃ w, s1.me.wait = some w ∧ w.kind = .freeze ∧ w.others = [1]
        (stopped → Completes s i (s1.setX d 0)) ∧ (¬stopped → (s1.core v).frozen = true → Completes s i (s1.setX d 1)) ∧
        (¬stopped → (s1.core v).frozen = false → Waits s i s1 .freeze v))) ∧
    (let asks := s.freezers core
     let tested := fun (x : Nat × Nat × Nat) => s.routeTested (dieOf x.2.1) (dieOf core) = true
     (k.frozen = true → exec (.freezeArrival core) s = .next (if asks.isEmpty then { s with reports := s.reports ++ [.answer core 1] } else s)) ∧
     (k.frozen = false → asks ≠ [] → (∀ x, x ∈ asks → tested x) → exec (.freezeArrival core) s = .next s) ∧
     (k.frozen = false → (∀ x, x ∈ asks → ¬tested x) → ∃ t : State, exec (.freezeArrival core) s = .next t ∧
      t.reports = s.reports ++ (if asks.isEmpty then [.answer core 0] else []) ∧
      (t.core core).frozen = true ∧ (t.core core).sealed = false ∧ (t.core core).freezeNo = k.freezeNo + 1 ∧ (t.core core).freezeImages = [] ∧ (∀ x, t.byte x = s.byte x) ∧
      (∀ y m, (t.track y m).visible = (s.track y m).visible) ∧ (∀ r x, (t.core core).cell r x = k.cell r x) ∧
      (∀ y, y ≠ core → (t.core y).frozen = (s.core y).frozen))) ∧
    (k.frozen = true → s.tripped = false → k.sealed = false → s.outstanding core = false → k.holds = [] →
      ∃ t, exec (.imageSeal core) s = .next t ∧ (t.core core).sealed = true ∧ { t.core core with sealed := false } = k) ∧
    (k.frozen = true → (s.outstanding core = true ∨ k.holds ≠ [] ∨ k.sealed = true) → exec (.imageSeal core) s = .next s) ∧
    (mfind q.val k.streams = some st → st.partner = some (c, r) → mfind r (s.core c).streams = some o →
      let partner := fun (o : Stream) (i : Instr) => exec i s = .next (s.modCore c fun k => { k with streams := mput r o k.streams })
      let near := s.partnerFar core q.val = false
      (near → k.frozen = true → q.val ∈ k.holds → partner { o with held := true, heldAck := true } (.holdNotice core q)) ∧
      (near → k.frozen = true → o.heldAck = true → o.inFlight = [] →
        exec (.holdAck core q) s = .next (s.modCore core fun k => { k with holds := k.holds.filter (· ≠ q.val) })) ∧
      ((o.heldAck = false ∨ o.inFlight ≠ [] ∨ ¬near) → exec (.holdAck core q) s = .next s) ∧
      (near → (k.frozen = false ∨ k.restored = true) → st.pat.dir = 3 → (s.core c).frozen = false → o.held = true →
        partner { o with held := false, heldAck := false, credits := k.refillRoom st.pat - st.buffer.length - o.inFlight.length }
          (.releaseNotice core q))) ∧
    ∀ w, (s.track core n).wait = some w → w.kind = .frozenCore →
      exec (.frozenCoreRetry core n) s = .next (s.modTrack core n fun t => { t with wait := some { w with kind := .remote } })) ∧
  (∀ (s s1 : State) (d a : Reg) (vacate : Bool),
    let i := if vacate then Instr.thawV d a else Instr.thaw d a
    s.entered i = some s1 →
    let c := (s1.x a).toNat
    let k := s1.core c
    let g := s1.cluster (c / 16)
    let ends := fun (u : State) (code : Word) => Completes s i (u.setX d code)
    let run := (s1.stew (c / 128) 0).toNat % 2 = 1
    let queued := ∃ x, x ∈ g.images ∧ x.core = c
    let stopped := ¬run ∨ s1.tripped = true ∨ s1.bandTested c = true
    let loading := ∃ p, p ∈ g.paused ∧ p.core = c ∧ p.load = true
    let busy := queued ∨ (if vacate then s1.outstanding c = true else loading)
    let idle := (s1.endPaused c fun _ => true).emitImage c 0x14
    (s1.me.super = false → Faults s i s1 .priv 0 0) ∧
    (s1.me.super = true → 512 ≤ c → Faults s i s1 .illegal 0 0) ∧
    (s1.me.super = true → c < 512 →
      (stopped → ends s1 2) ∧
      (¬stopped → k.frozen = false → ends s1 1) ∧
      (¬stopped → k.frozen = true → busy → ends s1 2) ∧
      (¬stopped → k.frozen = true → ¬busy → vacate = false → k.departed = true → ends s1 3) ∧
      (¬stopped → k.frozen = true → ¬busy → vacate = false → k.departed = false → ends (idle.restart c) 0) ∧
      (¬stopped → k.frozen = true → ¬busy → vacate = true → ends ((idle.vacate c (!s1.loadPaused c)).restart c) 0)) ∧
    (let t := s1.restart c
     (t.core c).frozen = false ∧ (t.core c).sealed = false ∧ (∀ x, t.byte x = s1.byte x) ∧ (∀ r x, (t.core c).cell r x = k.cell r x) ∧
      ∀ n, (t.track c n).pc = (s1.track c n).pc ∧ (t.track c n).trip = (s1.track c n).trip ∧
        ((∀ p, p ∈ (s1.track c n).pending → p.landed = false) →
          ((s1.track c n).wait = none → t.track c n = s1.track c n) ∧
          -- a TLBINV and an XF.LOAD begin again, and a VWAIT reads all its elements again
          ∀ w, (s1.track c n).wait = some w → t.track c n = { s1.track c n with
            graph := none
            wait := if w.kind = .tlb then none else some { w with
              again := w.again || w.kind == .vwait, seq := if w.kind = .xfload then s1.nextId + n else w.seq } })) ∧
    (c < 512 → let t := s1.vacate c true
     (t.core c).ctx = none ∧ (∀ n, (t.track c n).trip = none) ∧ (∀ r x, (t.core c).cell r x = 0) ∧ (t.core c).streams = [] ∧
      ∀ o, o < 0x100000 → t.byte (0x400000000 + 0x100000 * c + o) = 0))

/-- R247, R259, R260, R264, R381: IMG.SAVE and IMG.LOAD read a record of 64 bytes and queue a command on the target's cluster; BUSY for a
target with a command or a paused load, NOTFROZEN, and FIELD for a bad record, come in this order. R253, R259 to R263, R265: the image
engine begins the oldest command of its cluster; a stale resume, or a base that is not the core's reference or is too deep, ends with its
status alone; a load's resume gone by, the core is vacated first. It ends a command whose work is done, pauses one that faults or whose area is too small, and goes on unsealed past the seal's time. The model's own
readings in it, which no rule fixes: log entries 36, 37, 38. -/
def Obligations.Images : Prop :=
  (∀ (s s1 u : State) (d a b : Reg) (load : Bool) (w : Nat),
    let i := if load then Instr.imgLoad d a b else Instr.imgSave d a b
    s.entered i = some s1 →
    let c := (s1.x a).toNat
    let va := s1.x b
    let queue := fun (v : State) => (v.cluster (c / 16)).images
    let busy := (∃ x, x ∈ queue u ∧ x.core = c) ∨ (load = false ∧ ∃ p, p ∈ (u.cluster (c / 16)).paused ∧ p.core = c ∧ p.load = true) ∨
      (u.stew (c / 128) 0).toNat % 2 = 0
    let field := fun (o n : Nat) => w / 2 ^ (8 * o) % 2 ^ (8 * n)
    let bad := if load then 2 ≤ field 0x28 4 ∨ field 0x38 8 % 64 ≠ 0
      else field 0 8 % 4096 ≠ 0 ∨ field 8 8 % 4096 ≠ 0 ∨ 2 ≤ field 0x1C 4 ∨ field 0x20 8 % 64 ≠ 0 ∨ field 0x2C 4 ≠ 0
    (s1.me.super = false → Faults s i s1 .priv 0 0) ∧
    (s1.me.super = true → (512 ≤ c ∨ c = s1.cur.1) → Faults s i s1 .illegal 0 0) ∧
    (s1.me.super = true → c < 512 → c ≠ s1.cur.1 → va.toNat % 64 ≠ 0 → Faults s i s1 .align va 0) ∧
    (s1.me.super = true → c < 512 → c ≠ s1.cur.1 → va.toNat % 64 = 0 → s1.readRecord va.toNat 8 = .ok w u →
      (busy → Completes s i (u.setX d 1)) ∧
      (¬busy → (u.core c).frozen = false → Completes s i (u.setX d 2)) ∧
      (¬busy → (u.core c).frozen = true → bad → Completes s i (u.setX d 3)) ∧
      (¬busy → (u.core c).frozen = true → ¬bad → ∃ (t : State) (g : ImgCmd), Completes s i (t.setX d 0) ∧ queue t = queue u ++ [g] ∧
        g.core = c ∧ g.load = load ∧ g.record = va ∧ g.data = w ∧ g.running = false ∧ g.done = 0 ∧ (∀ x, t.byte x = u.byte x) ∧
        ∀ r, t.x r = u.x r))) ∧
  (∀ (s : State) (cl : Nat) (g : ImgCmd) (rest : List ImgCmd), (s.cluster cl).images = g :: rest → (s.stew (g.core / 128) 0).toNat % 2 = 1 →
    let k := s.core g.core
    let reference := k.reference.getD (0, 0, 0)
    let base := g.data / 2 ^ 128 % 2 ^ 64
    let starts := fun (P : State → ImgCmd → Prop) => ∃ (t : State) (h : ImgCmd), exec (.imageEngineStart cl) s = .next t ∧
      (t.cluster cl).images = h :: rest ∧ h.running = true ∧ h.core = g.core ∧ h.load = g.load ∧ h.data = g.data ∧ P t h
    let refused := fun (v : State) (code : Nat) => exec (.imageEngineStart cl) s = .next (v.imgRefuse cl g code)
    let taken := s.endPaused g.core fun x => x.load == g.load && x.record == g.record
    let fresh := s.endPaused g.core fun x => x.record == g.record
    (g.running = false →
      (g.resume = true → (s.cluster cl).pausedAt g = none → refused s 6) ∧
      (∀ p, g.resume = true → (s.cluster cl).pausedAt g = some p → p.freezeNo ≠ k.freezeNo → refused taken 6) ∧
      (∀ p, g.resume = true → (s.cluster cl).pausedAt g = some p → p.freezeNo = k.freezeNo →
        starts fun _ h => h.done = p.done ∧ h.applied = p.applied ∧ h.seqNo = p.seqNo ∧ h.image = p.image ∧ h.timedOut = p.timedOut) ∧
      (g.resume = false → g.load = false → base ≠ 0 → reference.1 ≠ base → refused fresh 4) ∧
      (g.resume = false → g.load = false → base ≠ 0 → reference.1 = base → 4 ≤ reference.2.2 → refused fresh 5) ∧
      (g.resume = false → g.load = false → (base = 0 ∨ (reference.1 = base ∧ reference.2.2 < 4)) →
        starts fun t h => t.imageSeq = s.imageSeq + 1 ∧ h.seqNo = s.imageSeq + 1 ∧ h.done = g.done ∧ h.freezeNo = k.freezeNo) ∧
      (g.resume = false → g.load = true → s.loadPaused g.core = false →
        starts fun t h => t.imageSeq = s.imageSeq ∧ h.done = g.done ∧ h.freezeNo = k.freezeNo) ∧
      (g.resume = false → g.load = true → s.loadPaused g.core = true → exec (.imageEngineStart cl) s =
        .next (((s.vacate g.core false).endPaused g.core (·.load)).imgBegin cl { g with freezeNo := k.freezeNo }))) ∧
    (∀ code, g.refused = some code → s.imgRun cl g = s.imgEnd cl g code 0 1 none id) ∧
    (g.running = true → g.load = false →
      (∀ t, s.imgRun cl g = .ended t → exec (.imageSaveComplete cl) s = .next t) ∧
      (∀ n h, s.imgRun cl g = .small n h → exec (.imageCommandPause cl) s = .next (s.imgPause cl h 3 n)) ∧
      (∀ c off h u, s.imgRun cl g = .stuck c off h u →
        exec (.imageCommandPause cl) s = .next (u.imgPause cl h (2 + 256 * (causeWord c none).toNat % 65536) off)) ∧
      let limit := if g.data / 2 ^ 192 % 2 ^ 32 = 0 then 2 ^ 20 else g.data / 2 ^ 192 % 2 ^ 32
      (k.sealed = false → g.core / 16 = cl → limit ≤ g.cycles → exec (.sealTimeout g.core) s = .next (s.modCluster cl fun c =>
        { c with images := { g with timedOut := true } :: rest })) ∧
      (k.sealed = false → g.image = none → g.refused = none → g.timedOut = false → s.imgRun cl g = .waits)) ∧
    (g.running = true → g.load = true →
      (∀ t, s.imgRun cl g = .ended t → exec (.imageLoadComplete cl) s = .next t) ∧
      ∀ c off h u, s.imgRun cl g = .stuck c off h u →
        exec (.imageCommandPause cl) s = .next (u.imgPause cl h (2 + 256 * (causeWord c none).toNat % 65536) off)))

/-- R255 to R258, R263, R265, R266: a full image of a frozen core, put on a core of any number, brings back the pool's bytes, the grid and
its commands, the codebook, the crossings, the streams with their other ends relocated, the copy channels, the event counters, ENERGY and
every track's registers, trap registers and frames, barrier records and trip, and no other byte changes; the debug registers, the removal
and the failed banks are the target's. The model's own readings in it, which no rule fixes: log entries 37, 38. -/
def Obligations.SavedImagesRestore : Prop :=
  ∀ (s u : State) (core target seq : Nat), s.memWf = true → u.memWf = true → core < 512 → target < 512 →
    (∀ e, e ∈ (u.core target).upsets → e.1 < 65536) →
    let t := u.applyImage target (s.imageOf core seq 0)
    let k := s.core core
    (∀ o, o < 0x100000 → t.byte (0x400000000 + 0x100000 * target + o) = s.byte (0x400000000 + 0x100000 * core + o)) ∧
    (∀ a, (a < 0x400000000 + 0x100000 * target ∨ 0x400000000 + 0x100000 * (target + 1) ≤ a) → mget 0 a t.mem = mget 0 a u.mem) ∧
    (∀ r c, (t.core target).cell r c = k.cell r c) ∧ (t.core target).cbk = k.cbk ∧ (t.core target).cross = k.cross ∧
    (t.core target).chans = k.chans ∧ (t.core target).gq = k.gq ∧ (t.core target).cbkCmds = k.cbkCmds ∧ (t.core target).evc = k.evc ∧
    (t.core target).energy = k.energy ∧ (t.core target).bytes6 = k.bytes6 ∧
    (t.core target).streams = k.streams.map (fun e =>
      let kept := if e.2.partner.any (fun p => p.1 == core) then e.2 else { e.2 with inFlight := [] }
      (e.1, { kept with partner := kept.partner.map fun p => (mget p.1 (k.ctx.getD 0 * 512 + p.1) u.reloc, p.2) })) ∧
    (t.core target).dbg = (u.core target).dbg ∧ (t.core target).debugWait = (u.core target).debugWait ∧
    (t.core target).removed = (u.core target).removed ∧ (t.core target).banksFailed = (u.core target).banksFailed ∧
    (t.core target).lane = k.lane ∧ (t.core target).pool = k.pool ∧ (t.core target).ctx = k.ctx ∧ (t.core target).frozen = true ∧
    (∀ n, n < 4 → let x := s.track core n
      let y := t.track target n
      (∀ r, y.getX r = x.getX r) ∧ (∀ m, y.getM m = x.getM m) ∧ y.pc = x.pc ∧ y.vl = x.vl ∧ y.vlmax = x.vlmax ∧ y.sbase = x.sbase ∧
      y.srseed = x.srseed ∧ y.arith = x.arith ∧ y.fq = x.fq ∧ y.band = x.band ∧ y.bands = x.bands ∧ y.level = x.level ∧ y.acked = x.acked ∧
      y.super = x.super ∧ y.tvec = x.tvec ∧ y.tstack = x.tstack ∧ y.tcause = x.tcause ∧ y.tepc = x.tepc ∧ y.trip = x.trip ∧
      y.taddr = x.taddr ∧ y.tfpc = x.tfpc ∧ y.telem = x.telem ∧ y.tsave = x.tsave ∧ y.pmode = x.pmode ∧ y.prio = x.prio ∧ y.held = x.held ∧
      y.tripid = x.tripid ∧ y.levelidx = x.levelidx ∧ y.ctxid = x.ctxid ∧ y.frames = x.frames ∧ y.entries = x.entries ∧ y.resume = x.resume ∧
      y.barriers = x.barriers ∧ y.records = x.records ∧ y.opaTraps = x.opaTraps ∧ y.cont = x.cont ∧ y.inline = x.inline ∧
      y.launches = x.launches ∧ y.escalated = x.escalated ∧ y.halted = x.halted ∧ y.stepsync = (u.track target n).stepsync ∧
      y.cancelled = (u.track target n).cancelled ∧ y.refused = (u.track target n).refused) ∧
    ∀ c, c ≠ target → { t.core c with streams := [] } = { u.core c with streams := [] } ∧
      -- what the target's link-out streams had sent reaches its partners
      ((∀ e, e ∈ (u.core target).streams → e.2.inFlight = []) → t.core c = u.core c)

/-! Debug, devices, the module and the transport. -/

/-- R285 to R287, R293, R294, R245, R297: halt, resume and step act on the track's halt; DREGDATA reads and writes what DREGSEL names of a
running core: a halted track's x, m, system registers and pc, a grid cell that no busy row holds, or a peek of one; a write to a register
that a load is pending for cancels the load's; a refused access reads 0 and is noted; one at a busy row waits at most 65,536 cycles, and one
to a frozen core or behind another waits as well. R296, R299, R302: a sample of 16 bytes goes to its place in the ring every 2^p
cycles, and the head moves on; the window stops when the cycles after its trigger are recorded; the records dropped are told as one where its
kind is sent. The model's own readings in it, which no rule fixes: log entries 33, 40. -/
def Obligations.DebugAndTrace : Prop :=
  (∀ (s : State) (core n : Nat) (v : Word),
    let mods := fun (i : Instr) (f : Track → Track) => exec i s = .next (s.modTrack core n f)
    let t := s.track core n
    let k := s.core core
    (t.halted = false → t.haltReq = false → mods (.dbgctlHalt core n) fun t => { t with haltReq := true, haltWhy := 1 }) ∧
    (k.frozen = false → t.halted = true → mods (.dbgctlResume core n) fun t => { t with halted := false, why := 0 }) ∧
    (k.frozen = false → t.halted = true → mods (.dbgctlStep core n) fun t => { t with halted := false, why := 0, stepping := true }) ∧
    (t.halted = true ∨ t.haltReq = true → mods (.dbgctlHalt core n) id) ∧
    (k.frozen = false → t.halted = false → mods (.dbgctlResume core n) id ∧ mods (.dbgctlStep core n) id) ∧
    (k.frozen = true → exec (.dbgctlResume core n) s = .next s ∧ exec (.dbgctlStep core n) s = .next s) ∧
    ((core, n) ∈ s.gangHalts → t.halted = false → t.haltReq = false → exec (.gangHaltRequest core n) s =
      .next ({ s with gangHalts := s.gangHalts.erase (core, n) }.modTrack core n fun t => { t with haltReq := true, haltWhy := 5 })) ∧
    exec (.lagctlClear core) s = .next (s.modCore core fun k => { k with lag := [], lagLost := 0 }) ∧
    (let sel := (mget (0 : Word) 0x40 k.dbg).toNat
     let space := sel / 4 % 8
     let i := sel / 2 ^ 16 % 2 ^ 14
     let u := sel % 4
     let t := s.track core u
     let row := i / 128 % 128
     let col := i % 128
     let answers := fun (v : State) (w : Word) => v.modCore core fun k => { k with dbg := mput 0x48 w k.dbg }
     let reads := fun (v : Word) => exec (.dregdataRead core) s = .next (answers s v)
     let refuses := fun (i : Instr) => exec i s = .next ((answers s 0).modTrack core u fun t => { t with refused := true })
     let writes := fun (u : State) => exec (.dregdataWrite core v) s = .next (answers u v)
     let onTrack := fun (f : Track → Track) => writes (s.modTrack core u f)
     let waits := fun (i : Instr) (w : Option Word) => exec i s = .next (s.modCore core fun k =>
       { k with debugWait := k.debugWait ++ [{ sel := mget 0 0x40 k.dbg, write := w }] })
     (space ≠ 5 → (k.frozen = true ∨ k.debugWait ≠ [] ∨ (space = 4 ∧ k.busy row = true)) →
       waits (.dregdataRead core) none ∧ waits (.dregdataWrite core v) (some v)) ∧
     -- a peek never waits
     (space = 5 → reads (BitVec.setWidth 64 (k.cell row col) ||| if k.busy row then 0x8000000000000000#64 else 0#64) ∧
       refuses (.dregdataWrite core v)) ∧
     (k.frozen = false → k.debugWait = [] →
      (t.halted = true →
        (∀ r : Reg, r.val = i → space = 0 → reads (t.getX r) ∧ (r = 0 → refuses (.dregdataWrite core v)) ∧
          (r ≠ 0 → (∀ p, p ∈ t.pending → p.reg ≠ r) → onTrack fun t => t.setX r v) ∧
          (r ≠ 0 → (∃ p, p ∈ t.pending ∧ p.reg = r ∧ p.cancelled = false) → onTrack fun t => { t.setX r v with
            cancelled := true, pending := t.pending.map fun p => if p.reg = r then { p with cancelled := true } else p })) ∧
        (∀ m : MReg, m.val = i → space = 1 → reads (BitVec.setWidth 64 (t.getM m)) ∧ (m = 0 → refuses (.dregdataWrite core v)) ∧
          (m ≠ 0 → onTrack fun t => t.setM m (BitVec.ofNat 128 ((t.getM m).toNat / 2 ^ 64 * 2 ^ 64 + v.toNat)))) ∧
        (∀ m : MReg, m.val = i → space = 2 → reads (BitVec.setWidth 64 (t.getM m >>> 64)) ∧ (m = 0 → refuses (.dregdataWrite core v)) ∧
          (m ≠ 0 → onTrack fun t => t.setM m (BitVec.ofNat 128 (v.toNat * 2 ^ 64 + (t.getM m).toNat % 2 ^ 64)))) ∧
        ((space = 0 ∧ 32 ≤ i) ∨ ((space = 1 ∨ space = 2) ∧ 8 ≤ i) ∨ (space = 3 ∧ sysregNamed i = false) →
          refuses (.dregdataRead core) ∧ refuses (.dregdataWrite core v)) ∧
        (space = 3 → sysregNamed i = true → reads (s.sysRead core u i) ∧
          (sysReadOnly i = true ∨ sysIllegal i v = true → refuses (.dregdataWrite core v)) ∧
          (sysReadOnly i = false → sysIllegal i v = false → writes (s.sysWrite core u i v))) ∧
        (space = 6 → reads t.pc ∧ (v.toNat % 4 ≠ 0 → refuses (.dregdataWrite core v)) ∧
          (v.toNat % 4 = 0 → onTrack fun t => { t with pc := v }))) ∧
      (t.halted = false → space < 4 ∨ space = 6 → refuses (.dregdataRead core) ∧ refuses (.dregdataWrite core v)) ∧
      (space = 7 → refuses (.dregdataRead core) ∧ refuses (.dregdataWrite core v)) ∧
      (space = 4 → k.busy row = false → reads (BitVec.setWidth 64 (k.cell row col)) ∧
        writes (s.modCore core fun k => k.setCell row col (BitVec.setWidth 40 v)))) ∧
     ∀ a rest, k.debugWait = a :: rest →
      let late := a.sel.toNat / 4 % 8 = 4 ∧ k.busy (a.sel.toNat / 2 ^ 23 % 128) = true ∧ 65536 ≤ a.cycles
      (¬late → exec (.debugAccessTimeout core) s = .next s) ∧
      (late → ∃ t : State, exec (.debugAccessTimeout core) s = .next t ∧ (t.core core).debugWait = rest ∧
        mget (0 : Word) 0x48 (t.core core).dbg = 0 ∧ (t.track core (a.sel.toNat % 4)).refused = true ∧
        (∀ h, a.host = some h → mfind h.1 t.hostValues = some 0) ∧ ∀ x, t.byte x = s.byte x))) ∧
  (∀ (s : State) (core die : Nat),
    let k := s.core core
    let ctl := (mget (0 : Word) 0x1C0 k.dbg).toNat
    let due := ctl % 2 = 1 ∧ s.time % 2 ^ (ctl / 2 % 32) = 0
    let n := k.smphead % 4
    let t := k.track n
    let place := (mget (0 : Word) 0x1C8 k.dbg).toNat / 2 ^ 12 % 2 ^ 40 * 4096 + k.smphead % 2 ^ (ctl / 64 % 32) * 16
    (¬due → exec (.samplerTick core) s = .next s) ∧
    (due → ∃ u : State, exec (.samplerTick core) s = .next u ∧ (u.core core).smphead = (k.smphead + 1) % 2 ^ 32 ∧
      ∀ w, w < 2 ^ 128 →
        (t.trip = none → (∀ e, e ∈ k.issued → e.1 ≠ n) → w = 2 ^ 96 * n + 2 ^ 104 * 15 → ∀ x, u.byte x = (s.setBytes place 16 w).byte x) ∧
        (t.trip.isSome = true → (∃ e, e ∈ k.issued ∧ e.1 = n) →
          w = t.pc.toNat + 2 ^ 64 * (t.tripid % 2 ^ 32) + 2 ^ 96 * n + 2 ^ 104 * 128 → ∀ x, u.byte x = (s.setBytes place 16 w).byte x)) ∧
    (let d := s.die die
     let on := (d.reg 0x800).toNat % 2 = 1
     let ends := on ∧ d.twtriggered = true ∧ d.twleft = 0
     (ends → exec (.traceWindowStop die) s = .next (s.modDie die fun d =>
        { d with stew := mput 0x800 (d.reg 0x800 &&& ~~~1#64) d.stew, twstopped := true })) ∧
     (¬ends → ∃ u, exec (.traceWindowStop die) s = .next u ∧ (u.die die).twstopped = d.twstopped ∧ (u.die die).reg 0x800 = d.reg 0x800) ∧
     (d.dropped = 0 ∨ 256 ≤ d.port.length ∨ s.portSends 0x1F 0 = false → ∃ u, exec (.tracePortDropReport die) s = .next u ∧ u.die die = d) ∧
     (d.dropped ≠ 0 → d.port.length < 256 → s.portSends 0x1F 0 = true → ∃ (u : State) (r : PortRec), exec (.tracePortDropReport die) s = .next u ∧
       (u.die die).port = d.port ++ [r] ∧ r.kind = 0x1F ∧ r.payload = BitVec.ofNat 64 d.dropped ∧ (u.die die).dropped = 0)))

/-- R28, R29, R271, R274, R278, R301, R459, R464: a write to a device register replaces the covered bits that are RW, where it is
naturally aligned; the tail of a queue moves within its ring and else notes an overrun; the steward's run bit, kick and watchdog; SSYNC
takes an area within its die's memory, SLCAP a cap from 1 to 8 while the die runs. Before host core 0 is started (R273 step 2) no write of
a host core's has an effect. The model's own readings in it, which no rule fixes: log entry 41, and log entry 70 for the ready bit that
setting run clears. -/
def Obligations.DeviceRegisters : Prop :=
  ∀ (s : State) (w : DevWrite) (q die core : Nat) (v : Word),
    let n := w.size.bytes
    let merge := fun (old : Word) (rw : Nat) =>
      let covered := rw &&& ((2 ^ (8 * n) - 1) * 2 ^ (8 * (w.pa % 8)))
      let new := w.data.toNat % 2 ^ (8 * n) * 2 ^ (8 * (w.pa % 8))
      BitVec.ofNat 64 (old.toNat - (old.toNat &&& covered) + (new &&& covered))
    let write := exec (.deviceRegisterWrite w) s
    (s.booted = false → write = .next s ∧ exec (.lqtailWrite q w) s = .next s ∧ exec (.sctlRunSet die) s = .next s) ∧
    (w.pa % n ≠ 0 → write = .next s) ∧
    (s.booted = true → w.pa % n = 0 →
      (w.pa / 8 * 8 = 0xFFF100000 → write = .next { s with portctl := merge s.portctl (2 ^ 33 - 1) }) ∧
      (w.pa / 8 * 8 = 0xFFF100008 → write = .next { s with portctx := merge s.portctx (2 ^ 32 - 1) }) ∧
      (w.pa / 8 * 8 = 0xFFF200000 → write = .next { s with rmbase := merge s.rmbase (2 ^ 52 - 2 ^ 15) }) ∧
      (w.pa / 8 * 8 = 0xFFF200008 → write = .next { s with rmnode := merge s.rmnode (2 ^ 33 - 1) }) ∧
      (die < 4 → w.pa / 8 * 8 = 0xFFF000018 + die * 0x10000 →
        write = .next (s.setStew die 0x18 (merge (s.stew die 0x18) (2 ^ 52 - 2 ^ 12)))) ∧
      (q < 4 → w.pa / 8 * 8 = 0xFFFF00000 + q * 0x40 → write = .next (s.setLq q 0 (merge (s.lqReg q 0) (2 ^ 52 - 2 ^ 12)))) ∧
      (q < 4 → w.pa / 8 * 8 = 0xFFFF00018 + q * 0x40 →
        let tail := (merge (s.lqReg q 0x18) (2 ^ 32 - 1)).toNat % 2 ^ 32
        let ahead := (tail + 2 ^ 32 - (s.lqReg q 0x10).toNat % 2 ^ 32) % 2 ^ 32
        let moved := if 2 ^ ((s.lqReg q 8).toNat % 32) < ahead then s.setLq q 0x20 (s.lqReg q 0x20 ||| 4)
          else s.setLq q 0x18 (BitVec.ofNat 64 tail)
        write = .next moved ∧ exec (.lqtailWrite q w) s = .next moved)) ∧
    (let d := s.die die
     let ctl := d.reg 0
     (ctl.toNat % 2 = 1 → exec (.sctlRunSet die) s = .next s) ∧
     (s.booted = true → ctl.toNat % 2 = 0 → exec (.sctlRunSet die) s = .next (s.modDie die fun d => { d with stew := mput 0 ((ctl &&& ~~~2#64) ||| 1) d.stew, watchdog := 0 })) ∧
     exec (.sctlRunClear die) s = .next (s.modDie die fun d => { d with stew := mput 0 (ctl &&& ~~~1#64) d.stew }) ∧
     exec (.watchdogKick die) s = .next (s.modDie die fun d => { d with watchdog := 0 }) ∧
     (ctl.toNat % 2 = 0 ∨ d.watchdog < 2 ^ 24 → exec (.watchdogExpire die) s = .next s) ∧
     (die < 4 → ctl.toNat % 2 = 1 → 2 ^ 24 ≤ d.watchdog → ∃ t : State, exec (.watchdogExpire die) s = .next t ∧
       (∀ c, 128 * die ≤ c → c < 128 * die + 128 → (t.core c).frozen = true) ∧ (t.stew die 0).toNat % 2 = 0 ∧ (t.stew die 0).toNat / 4 % 2 = 1 ∧
       t.reports = s.reports ++ [.watchdog die] ∧ (∀ x, t.byte x = s.byte x) ∧
       ∀ c m, (t.track c m).visible = (s.track c m).visible)) ∧
    (let size := v.toNat % 128 * 0x200000
     let base := v.toNat / 2 ^ 21 % 2 ^ 31 * 0x200000
     let fits := v.toNat % 128 ≤ 126 ∧ hbmBase die ≤ base ∧ base + size ≤ hbmBase die + hbmSize
     (¬fits → exec (.ssyncWrite die v) s = .next s) ∧
     (fits → exec (.ssyncWrite die v) s = .next (s.setStew die 0x40 (BitVec.ofNat 64 (v.toNat % 128 + base))))) ∧
    let cap := v.toNat % 16
    let runs := (s.stew (core / 128) 0).toNat % 2 = 1
    (cap = 0 ∨ 8 < cap ∨ ¬runs → exec (.slcapWrite core v) s = .next s) ∧
    (1 ≤ cap → cap ≤ 8 → runs → exec (.slcapWrite core v) s =
      .next (s.setStew (core / 128) (0x100 + 8 * (core % 128)) (BitVec.ofNat 64 cap)))

/-- R20, R275, R273, R276, R279, R280, R281: the throttle holds from the cycle after a sample above 3,200 W until a hundred below 3,100 W, and
lets a track issue every other cycle; a junction's
heat brings its caps and, above 110 degrees, a stop that only a module reset ends; errors start a unit's test, where a steward's firmware
runs, or fail it, and an uncorrectable line is poisoned; a cycle of the clock is one more for every ready trip, every started wait and every watchdog. R249, R265,
R266, R274, R282, R421: the steward's moves, while its firmware runs, for a core that is out of service: one that holds nothing of a context
is only mapped onto its host; where it cannot be sealed its trips are killed; else the host freezes, waits for its seal, leaves what it
holds to an image, and goes on with the removed core's. The model's own readings in it, which no rule fixes: log entries 42, 45, 48, 71, and
log entry 31 for the memory that a module reset leaves as it was. -/
def Obligations.PowerErrorsAndRemoval : Prop :=
  (∀ (s : State) (watts die degrees port pa core bank : Nat) (u : UnitName) (corrected pass : Bool),
    exec (.powerSample watts) s =
      .next { s with
        powerHigh := (if 3200 < watts then true else s.powerHigh), powerLow := (if watts < 3100 then s.powerLow + 1 else 0)
        powerFrom := if s.powerHigh = false ∧ 3200 < watts then s.time else s.powerFrom } ∧
    (∀ t : Track, ∀ at_, t.issuedAt = some at_ → (s.die (core / 128)).cap ≠ 1 →
      (s.throttled core t = true ↔ s.powerHigh = true ∧ s.powerFrom < s.time ∧ s.time < at_ + 2)) ∧
    (100 ≤ s.powerLow → exec .powerThrottleLift s = .next { s with powerHigh := false }) ∧
    (s.powerLow < 100 → exec .powerThrottleLift s = .next s) ∧
    (∃ t, exec (.thermalSense die degrees) s = .next t ∧ (t.die die).degrees = degrees ∧
      (t.die die).cap = (if 105 < degrees then 1 else if 95 < degrees then min (s.die die).cap 4 else (s.die die).cap) ∧
      t.visible = s.visible ∧ ∀ d, d ≠ die → t.die d = s.die d) ∧
    (let d := s.die die
     let cool90 := d.degrees < 90 ∧ d.warmAt + 1250000 ≤ s.time
     let cool95 := d.degrees < 95 ∧ d.hotAt + 1250000 ≤ s.time
     ∃ t : State, exec (.thermalCapLift die) s = .next t ∧
       (t.die die).cap = if cool90 then 8 else if d.cap = 1 ∧ cool95 then 4 else d.cap) ∧
    (((s.die die).degrees ≤ 110 → exec (.thermalTrip die) s = .next s) ∧
      (110 < (s.die die).degrees → ∃ t : State, exec (.thermalTrip die) s = .next t ∧ t.tripped = true ∧ t.reports = s.reports ++ [.thermal die] ∧
        (∀ c, c < 512 → (t.core c).frozen = true) ∧ ∀ x, t.byte x = s.byte x)) ∧
    (∃ t : State, exec .moduleReset s = .next t ∧ t.cores = State.reset.cores ∧ t.dies = State.reset.dies ∧ t.launches = [] ∧ t.ready = [] ∧
      t.lq = State.reset.lq ∧ t.tripped = false ∧ t.booted = false ∧ ∀ a, t.byte a = if 0x400000000 ≤ a ∧ a < 0x420000000 then 0 else mget 0 (State.reset.loc a)
        (s.mem.filter fun e => !inPool e.1)) ∧
    (∃ t : State, exec (.ethernetFrameDrop port) s = .next t ∧ t = { s with ethDropped := s.ethDropped + 1 }) ∧
    exec (.cxlRetrainFail port) s = .next { s with cxlDown := insertNat port s.cxlDown } ∧
    (let told := { s with reports := s.reports ++ [Report.error (.memoryLine pa) corrected] }
     UnitName.memoryLine pa ∉ s.testing → exec (.errorReport (.memoryLine pa) corrected) s =
      .next (if corrected = true then told else told.setPoison pa true)) ∧
    (let told := { s with reports := s.reports ++ [Report.error (.ethernet port) corrected] }
     (UnitName.ethernet port ∉ s.testing → exec (.errorReport (.ethernet port) corrected) s =
        .next (if s.testHeld (.ethernet port) = true then told else { told with testing := s.testing ++ [.ethernet port] })) ∧
     (UnitName.ethernet port ∈ s.testing → exec (.errorReport (.ethernet port) corrected) s =
        .next { told with testing := s.testing.erase (.ethernet port), ethDown := insertNat port s.ethDown })) ∧
    (∃ t : State, exec (.errorReport u corrected) s = .next t) ∧
    ((∀ d, d < 4 → (s.stew d 0).toNat % 2 = 0) ↔ s.testHeld (.ethernet port) = true) ∧
    (u ∉ s.testing ∨ s.testHeld u = true → exec (.targetedUnitTest u pass) s = .next s) ∧
    (UnitName.cxl port ∈ s.testing → s.testHeld (.cxl port) = false → exec (.targetedUnitTest (.cxl port) pass) s =
      .next { s with testing := s.testing.erase (.cxl port), cxlDown := (if pass = true then s.cxlDown else insertNat port s.cxlDown) }) ∧
    (UnitName.poolBank core bank ∈ s.testing → (s.stew (core / 128) 0).toNat % 2 = 1 → ∃ t : State, exec (.targetedUnitTest (.poolBank core bank) pass) s = .next t ∧
      (t.core core).banksFailed = (if pass = true then (s.core core).banksFailed else insertNat bank (s.core core).banksFailed) ∧
      ((t.core core).removed = true ↔ (s.core core).removed = true ∨ (pass = false ∧ 2 ≤ (t.core core).banksFailed.length))) ∧
    ∃ t : State, exec .clockCycle s = .next t ∧ t.time = s.time + 1 ∧ (t.ready.map (·.waited)) = s.ready.map (·.waited + 1) ∧
      (∀ c, (t.core c).frozen = (s.core c).frozen ∧ (t.core c).stopped = (s.core c).stopped + if (s.core c).frozen ∧ mhas c s.cores then 1 else 0) ∧
      ∀ d, mhas d s.dies = true → (t.die d).watchdog = (s.die d).watchdog + if (s.stew d 0).toNat % 2 = 1 then 1 else 0) ∧
  (∀ (s : State) (core h : Nat),
    let k := s.core core
    let serves := fun (c : Nat) => c ≠ core ∧ (s.core c).removed = false ∧ (s.core c).departed = false
    let first := fun (lo n h : Nat) => lo ≤ h ∧ h < lo + n ∧ serves h ∧ ∀ c, lo ≤ c → c < h → ¬serves c
    let none_ := fun (lo n : Nat) => ∀ c, lo ≤ c → c < lo + n → ¬serves c
    let cl := core / 16 * 16
    let d := core / 128 * 128
    let host := first cl 16 h ∨ (none_ cl 16 ∧ first d 128 h) ∨ (none_ cl 16 ∧ none_ d 128 ∧ first 0 512 h)
    let move := fun (t : State) => exec (.coreRemoval core) s = .next t
    let runs := fun (c : Nat) => (s.stew (c / 128) 0).toNat % 2 = 1
    let holds := fun (c : Nat) => (s.core c).lastCtx.isSome = true ∨ ∃ e, e ∈ (s.core c).tracks ∧ e.2.trip.isSome = true
    let late := k.sealed = false ∧ k.freezeTime + 2 ^ 20 ≤ s.time
    (k.removed = false ∨ s.tripped = true ∨ ¬runs core → move s) ∧
    (k.removed = true → s.tripped = false → runs core → mhas core s.hostMap = true → move s.placeDisplaced) ∧
    (k.removed = true → s.tripped = false → runs core → mhas core s.hostMap = false →
      (none_ cl 16 → none_ d 128 → none_ 0 512 → move { s with reports := s.reports ++ [.outOfService] }) ∧
      (host → ¬holds core → move (s.mapOnto core h)) ∧
      (host → holds core → late → move ((s.vacate core false).mapOnto core h)) ∧
      (host → holds core → ¬late →
        (k.sealed = false ∨ ¬runs h ∨ s.bandTested h = true ∨ s.imgQueued h = true ∨ s.imgQueued core = true) → move s) ∧
      (host → holds core → k.sealed = true → runs h → s.bandTested h = false → s.imgQueued h = false → s.imgQueued core = false →
        ((s.core h).frozen = false → move (s.freeze h)) ∧
        ((s.core h).frozen = true → (s.core h).sealed = false → move s) ∧
        ((s.core h).frozen = true → (s.core h).sealed = true → ∃ t : State, move t ∧ mget core core t.hostMap = h ∧
          (t.core h).frozen = false ∧ (t.core h).removed = false ∧ (holds h → t.displaced = s.displaced ++ [s.imageSeq + 2]) ∧
          (¬holds h → t.displaced = s.displaced)))))

/-- R177, R183, R187, R188, R278, R369, R464: a host core's access: a fence; an aligned access to backed memory that no mark, poison or
failed link stands in the way of is performed, and waits for a frozen core's scratchpad and for what is under test; any other is not, and
is reported to the host core as an access fault; one to another package goes through the transport; a device register is read and written
by its rules. Before host core 0 is started (R273 step 2) there is none. The model's own readings in it, which no rule fixes: log entry 43. -/
def Obligations.HostAccesses : Prop :=
  ∀ (s : State) (h pa : Nat) (size : Size) (v : Word) (op : AmoOp),
    let n := size.bytes
    let does := fun (o : HostOp) (t : State) => exec (.hostMemoryAccess ⟨h, pa, size, o⟩) s = .next t
    let u := if pa % n = 0 then s.settle pa n else s
    let fault := fun (u : State) => { u with reports := u.reports ++ [.accessFault h pa] }
    let plain := ∀ slot o x, area pa ≠ .remote slot o ∧ area pa ≠ .device x
    let scratch := ∃ c o, area pa = .scratch c o
    let marked := (¬scratch ∧ (u.isMarked pa = true ∨ u.linkDown pa = true)) ∨ u.poisoned pa = true
    let waits := (∃ c o, area pa = .scratch c o ∧ (u.core c).frozen = true) ∨ u.underTest 4 pa = true
    let reaches := fun (writes : Bool) => pa % n = 0 ∧ u.backed pa writes = true ∧ ¬marked
    (s.booted = false → does .fence s ∧ does .load s ∧ does (.store v) s ∧ does (.amo op v) s) ∧
    (s.booted = true →
    (∃ t : State, does .fence t ∧ mfind h t.hostFence = some (s.hostFenceNow h |>.hostClock h) ∧ mget [] h t.hostPend = [] ∧ ∀ a, t.byte a = s.byte a) ∧
    (plain → (¬reaches false → does .load (fault u)) ∧ (¬reaches true → does (.store v) (fault u) ∧ does (.amo op v) (fault u))) ∧
    (plain → waits → (reaches false → does .load u) ∧ (reaches true → does (.store v) u ∧ does (.amo op v) u)) ∧
    (plain → ¬waits →
      (reaches false → ∃ t : State, does .load t ∧ mfind h t.hostValues = some (BitVec.ofNat 64 (u.bytes pa n)) ∧ ∀ a, t.byte a = u.byte a) ∧
      (reaches true → (∃ t : State, does (.store v) t ∧ ∀ a, t.byte a = (u.setBytes pa n v.toNat).byte a) ∧
        ∃ t : State, does (.amo op v) t ∧ mfind h t.hostValues = some (BitVec.ofNat 64 (u.bytes pa n)) ∧
          ∀ a, t.byte a = (u.setBytes pa n (amoValue op (8 * n) (u.bytes pa n) (v.toNat % 2 ^ (8 * n))).1).byte a)) ∧
    (∀ slot o, area pa = .remote slot o →
      let bad := fun (writes : Bool) => pa % n ≠ 0 ∨ s.backed pa writes = false ∨ s.linkDown pa = true
      let far := fun (op : HostOp) => does op (s.hostRemote ⟨h, pa, size, op⟩)
      (bad false → does .load (fault s)) ∧ (¬bad false → far .load) ∧ (bad true → does (.store v) (fault s) ∧ does (.amo op v) (fault s)) ∧
      (¬bad true → far (.store v) ∧ far (.amo op v))) ∧
    ∀ x, area pa = .device x →
      (pa % n ≠ 0 → does .load (fault s) ∧ does (.store v) (fault s) ∧ does (.amo op v) (fault s)) ∧
      (pa % n = 0 → does (.store v) (s.devWrite ⟨pa, size, v⟩) ∧ does (.amo op v) (fault s) ∧
        (∀ c, devReg pa = .debug c 0x48 → does .load (s.dregAccess c none (some (h, pa % 8, n)))) ∧
        ((∀ c, devReg pa ≠ .debug c 0x48) → does .load { s with
          hostValues := mput h (BitVec.ofNat 64 ((s.devRead (devReg pa)).toNat / 2 ^ (8 * (pa % 8)) % 2 ^ (8 * n))) s.hostValues })))

/-- R155, R230, R276 to R278: a packet of the Lesan transport whose version, length, destination and CRC are right is performed once, in its
order, on a connection that is up; a duplicate is acknowledged again. A read is answered with the bytes, a write is performed and then
acknowledged, an answer reaches its request, what is acknowledged need not be sent again; a retransmission sends what is not, sixteen
times at most, and then the connection goes down and its requests have no answer. The model's own readings in it, which no rule fixes: log
entries 32, 44, 57. -/
def Obligations.LesanTransport : Prop :=
  ∀ (s : State) (p : LesanPkt),
    let c := mget ({} : Conn) p.src s.conns
    let rest := c.unacked.filter fun u => !seqBefore u.1 p.ack
    let heard : Conn := { c with
      acked := if seqBefore c.acked p.ack then p.ack else c.acked, unacked := rest, tries := if rest.length < c.unacked.length then 0 else c.tries }
    let acked := { s with conns := mput p.src heard s.conns }
    let taken := { s with conns := mput p.src { heard with received := (c.received + 1) % 2 ^ 32 } s.conns }
    let kinds := [(1, Instr.lesanRead p), (2, .lesanReadData p), (3, .lesanWrite p), (4, .lesanWriteAck p), (5, .lesanAtomic p),
      (6, .lesanAtomicResult p), (7, .lesanMeetingArrival p), (8, .lesanMeetingStatus p), (9, .lesanMeetingResult p),
      (10, .lesanAcceptLimitNotice p)]
    let comes := fun (kind : Nat) => c.down = false ∧ p.version = 1 ∧ p.length = p.payload.length ∧ p.length ≤ 8192 ∧
      p.dst = s.rmnode.toNat % 2 ^ 32 ∧ p.crc = crc32c (packetHeader p kind ++ p.payload)
    let due := p.seq = c.received
    let sends := fun (i : Instr) (u : State) (kind : Nat) (l : List Byte) => exec i s = .next (u.send p.src kind p.tag p.addr l)
    let confirms := fun (i : Instr) (u : State) => exec i s = .next (u.sendAck p.src)
    (∀ x, x ∈ kinds → ¬comes x.1 → exec x.2 s = .next s) ∧ (¬comes 11 → exec (.lesanAckOnly p) s = .next s) ∧
    (comes 11 → exec (.lesanAckOnly p) s = .next acked) ∧
    (∀ x, x ∈ kinds → comes x.1 → ¬due → exec x.2 s = .next (if seqBefore p.seq c.received then acked.sendAck p.src else acked)) ∧
    (due →
      let n := min (ofBytes (p.payload.take 2)) 8192
      let l := p.payload.length
      let obj := syncObject p.addr
      let field := fun (o n : Nat) => ofBytes ((p.payload.drop o).take n)
      (comes 2 → confirms (.lesanReadData p) (taken.answer p 1)) ∧ (comes 4 → confirms (.lesanWriteAck p) (taken.answer p 3)) ∧
      (comes 6 → confirms (.lesanAtomicResult p) (taken.answer p 5)) ∧
      (∀ kind e, e ∈ s.requests →
        (e.2.takes p kind e.1 = false → e ∈ (taken.answer p kind).requests) ∧
        (e.2.takes p kind e.1 = true → e.2.unit ≠ storeUnit → (e.1, { e.2 with answer := some p.payload }) ∈ (taken.answer p kind).requests)) ∧
      (taken.farWaits p.addr = true → ∀ x, x ∈ [(1, Instr.lesanRead p), (3, .lesanWrite p), (5, .lesanAtomic p)] → comes x.1 → exec x.2 s = .next acked) ∧
      (taken.farWaits p.addr = false → comes 1 →
        let v := taken.settle p.addr n
        let gives := v.farBacked p.addr false n = true ∧ ∀ a, p.addr ≤ a → a < p.addr + n → v.poisoned a = false
        (gives → sends (.lesanRead p) v 2 (toBytes n (v.bytes p.addr n))) ∧
        (¬gives → ∃ l, l.length = n ∧ sends (.lesanRead p) { v with tick := v.tick + 1 } 2 l)) ∧
      (taken.farWaits p.addr = false → comes 3 →
        let v := taken.settle p.addr l
        let poisoned := fun (a : Nat) => p.addr ≤ a ∧ a < p.addr + l ∧ v.poisoned a = true
        let whole := fun (a : Nat) => p.addr ≤ 64 * (a / 64) ∧ 64 * (a / 64) + 64 ≤ p.addr + l
        let written := (v.endRels p.addr l).setBytes p.addr l (ofBytes p.payload)
        (v.farBacked p.addr true l = true → (∀ a, ¬poisoned a) → sends (.lesanWrite p) written 4 []) ∧
        (v.farBacked p.addr true l = true → (∃ a, poisoned a ∧ ¬whole a) → sends (.lesanWrite p) v 4 []) ∧
        (v.farBacked p.addr true l = true → (∀ a, poisoned a → whole a) → ∃ t : State, sends (.lesanWrite p) t 4 [] ∧
          (∀ a, t.byte a = written.byte a) ∧ ∀ a, p.addr ≤ a → a < p.addr + l → t.poisoned a = false) ∧
        (v.farBacked p.addr true l = false → sends (.lesanWrite p) v 4 [])) ∧
      (taken.farWaits p.addr = false → comes 5 → l = 18 →
        let v := taken.settle p.addr 8
        let n := field 1 1
        let old := v.bytes p.addr n
        let leaves := fun (new : Nat) => sends (.lesanAtomic p) (v.setBytes p.addr n new) 6 (toBytes 8 old)
        v.farBacked p.addr true n = true → v.poisoned p.addr = false →
          (∀ op : AmoOp, field 0 1 = op.code → leaves (amoValue op (8 * n) old (field 2 8)).1) ∧
          (field 0 1 = 15 → leaves (if old = field 10 8 then field 2 8 else old))) ∧
      (comes 7 → confirms (.lesanMeetingArrival p)
        (taken.farArrival obj p.src p.tag (field 0 2) (field 2 4) (field 6 4) (p.payload.drop 10))) ∧
      (comes 8 → p.tag = 0 → field 0 1 = 3 → confirms (.lesanMeetingStatus p) (taken.meetNotice obj fun o => o.homeNode == p.src)) ∧
      (comes 8 → (p.tag ≠ 0 ∨ field 0 1 ≠ 3) → confirms (.lesanMeetingStatus p) (taken.answer p 7)) ∧
      (comes 9 → ∀ u, (taken.farResult obj p.src (field 0 4) (field 4 4) (p.payload.drop 8) = (u, true) → confirms (.lesanMeetingResult p) u) ∧
        (taken.farResult obj p.src (field 0 4) (field 4 4) (p.payload.drop 8) = (u, false) → exec (.lesanMeetingResult p) s = .next acked)) ∧
      (comes 10 →
        let hit := fun (r : Nat × Request) => decide (r.2.node = p.src ∧ r.2.kind = 3 ∧ r.2.unit ≠ storeUnit ∧ r.2.answer = none ∧
          p.addr < r.2.addr + r.2.len)
        confirms (.lesanAcceptLimitNotice p) ((s.requests.filter hit).foldl (fun (s : State) (r : Nat × Request) => s.endFull r.2.core (r.2.unit % 2 ^ 40))
          { taken with requests := s.requests.filter fun r => !hit r }))) ∧
    (c.down = true ∨ c.unacked = [] ∨ 16 ≤ c.tries → exec (.lesanRetransmit p.src) s = .next s) ∧
    (c.down = false → c.unacked ≠ [] → c.tries < 16 → ∃ t : State, exec (.lesanRetransmit p.src) s = .next t ∧
      t.outbox = s.outbox ++ c.unacked.map (fun u => (u.2.1, s.packet p.src u.1 u.2.1 u.2.2.1 u.2.2.2.1 u.2.2.2.2)) ∧
      mget {} p.src t.conns = { c with tries := c.tries + 1 }) ∧
    (c.down = true ∨ c.tries < 16 → exec (.lesanConnectionDown p.src) s = .next s) ∧
    (c.down = false → 16 ≤ c.tries → ∃ t : State, exec (.lesanConnectionDown p.src) s = .next t ∧
      mget {} p.src t.conns = { c with down := true, unacked := [] } ∧
      ∀ r, r ∈ t.requests ↔ r ∈ s.requests ∧ (r.2.node ≠ p.src ∨ r.2.answer.isSome = true))

/-! Fetching, decoding, reset, and what every step keeps. -/

/-- R59, R60, R85, R101, R156, R157, R207, R215, R318, R326 to R334 and the entries: words that the spec writes out decode to the
instructions that it writes beside them, and words that it calls no instruction do not. -/
def Obligations.ReferenceWordsDecode : Prop :=
  decodeWords 0x04A63800 0 = .ok (.add 5 6 7) ∧
  decodeWords 0x08A6FFFF 0 = .ok (.addi 5 6 0xFFFF) ∧
  decodeWords 0x40A63830 0 = .ok (.fadd .f64 5 6 7 .rtz) ∧
  decodeWords 0x44A65FF8 0 = .ok (.ld .s32 5 6 0x1FF8) ∧
  decodeWords 0x50A63893 0 = .ok (.amoAdd 5 6 7 .relaxed .package .b8) ∧
  decodeWords 0x58000070 0 = .ok (.fence .acqRel .package) ∧
  decodeWords 0x60A60003 0 = .ok (.beq 5 6 3) ∧
  decodeWords 0x80A00014 0 = .ok (.sysrd 5 0x14) ∧
  decodeWords 0x84A63800 0 = .ok (.spawn 5 6 7 .core) ∧
  decodeWords 0x88A60000 0 = .ok (.setvl 5 6) ∧
  decodeWords 0x8C80A400 0 = .ok (.opa false false true 0 1 9) ∧
  decodeWords 0x90060002 0 = .ok (.strmCfg 2 6) ∧
  decodeWords 0x94060001 0 = .ok (.cpy 1 6) ∧
  decodeWords 0x98A63C40 0 = .ok (.meetArrive 5 6 7) ∧
  decodeWords 0xE4000804 0xD2803440 = .ok (.viadd (.row 1) (.row 1) (.x 5) true ⟨false, 0⟩) ∧
  decodeWords 0xE0E03018 0x00382280 = .ok (.vcvt .bf16 .f (.row 6) (.row 6) ⟨.sr, false, false, 0⟩) ∧
  decodeWords 0xF500400C 0x00019C00 = .ok (.rowfill .bf16 8 3 6) ∧
  (∀ w, w < 0x04000000 → ∃ e, decodeWords w 0 = .error e) ∧
  (∃ e, decodeWords 0x04A63820 0 = .error e) ∧ (∃ e, decodeWords 0x04A63818 0 = .error e) ∧
  (∃ e, decodeWords 0x48E68010 0 = .error e) ∧ (∃ e, decodeWords 0x58000010 0 = .error e) ∧
  (∃ e, decodeWords 0x5C000000 0 = .error e) ∧ ∃ e, decodeWords 0xC0000000 0 = .error e

/-- R315, R317, R318, R335: every well-formed instruction that has a word is what the decoder reads from the words that encode it, with
every operand at every value the encoding admits. -/
def Obligations.DecodingTheEncoding : Prop :=
  ∀ i : Instr, i.hasWord = true → i.wf = true →
    decodeWords ((encode i).headD 0) ((encode i).getD 1 0) = .ok i ∧ isLong ((encode i).headD 0) = decide ((encode i).length = 2) ∧
    ∀ w, w ∈ encode i → w < 2 ^ 32

/-- R317, R335: no two words, or pairs of words, decode to one instruction: a word that decodes is the encoding of what it decodes to, so
every bit of it counts, and none is ignored. -/
def Obligations.EncodingTheDecoded : Prop :=
  ∀ (w0 w1 : Nat) (i : Instr), w0 < 2 ^ 32 → w1 < 2 ^ 32 → (isLong w0 = false → w1 = 0) → decodeWords w0 w1 = .ok i →
    i.wf = true ∧ encode i = if isLong w0 then [w0, w1] else [w0]

/-- R55, R315, R317, R335, R336: where a track has its turn and nothing stands before its next instruction, the step runs the instruction
that the words at its pc decode to, and waits where that names a register that a load is pending for, to read it or only to write it; a
fault of the fetch, or words that are no instruction, are faults at that pc; a track that waits in an instruction that is tried again runs
that instruction, and a VWAIT whose freeze has ended one more evaluation. Beside running it, the step ends the breakpoint exemption at
level 0 and uses up the fetch's answer. The model's own readings in it, which no rule fixes: log entries 2 and 50 (the wait for registers
that are only written). -/
def Obligations.StepRunsTheDecodedInstruction : Prop :=
  ∀ (s : State) (c n : Nat) (slow : Bool) (rest : List Act), s.schedule = (if slow then .issueSlow c n else .issue c n) :: rest →
    let s0 := { s with schedule := rest, cur := (c, n), slow := slow }
    let t := s.track c n
    (s.core c).frozen = false → t.trip.isSome = true → t.escalated = false → t.halted = false →
    s0.throttled c t = false → t.owed = none → t.haltReq = false → s0.waitRecord c n = none →
    (∀ w, t.wait = some w → (w.again = true → step s = exec (.vwaitReevaluate c n 0) s0) ∧
      (w.again = false → (w.kind.byEvent = false → step s = exec w.instr s0) ∧ (w.kind.byEvent = true → step s = .next s0))) ∧
    (t.wait = none → (t.strip.isOpen = true ∨ s0.boundary = none) → t.strip.alone = false → t.strip.closing = false → breakHits (s.core c) t = [] →
      let pc := t.pc.toNat
      let bad := fun (u : State) (x : Cause) (a : Nat) =>
        step s = .next ((u.syncFault { cause := x, addr := BitVec.ofNat 64 a }).endStepWith [])
      let names := fun (i : Instr) (u : State) => ∃ p, p ∈ u.me.pending ∧ p.cancelled = false ∧ p.reg ≠ 0 ∧ p.reg ∈ instrRegs i
      let runs := fun (i : Instr) (u : State) => (names i u → step s = .next u) ∧
        (¬names i u → step s = exec i (u.asked u.cur.1 (24 + u.cur.2)).issuing)
      (∀ x u, s0.fetchWord pc = .fault x u → bad u x pc) ∧ (∀ u, s0.fetchWord pc = .later u → step s = .next u) ∧
      ∀ w0 u, s0.fetchWord pc = .word w0 u →
        (isLong w0 = false → (∀ i, decodeWords w0 0 = .ok i → runs i u) ∧ ∀ e, decodeWords w0 0 = .error e → bad u .illegal 0) ∧
        (isLong w0 = true → (∀ x v, u.fetchWord ((pc + 4) % 2 ^ 64) = .fault x v → bad v x ((pc + 4) % 2 ^ 64)) ∧
          (∀ v, u.fetchWord ((pc + 4) % 2 ^ 64) = .later v → step s = .next v) ∧
          ∀ w1 v, u.fetchWord ((pc + 4) % 2 ^ 64) = .word w1 v →
            (∀ i, decodeWords w0 w1 = .ok i → runs i v) ∧ ∀ e, decodeWords w0 w1 = .error e → bad v .illegal 0)) ∧
    (∀ u : State, u.issuing = u.modMe fun t => if t.level = 0 then { t with exempt := false } else t) ∧
    ∀ (u v : State) (va pa : Nat), u.walkHeld u.who va .fetch = false → u.find u.who va .fetch = .ok pa v →
      let r := v.settle pa 4
      (r.linkDown pa = true → u.fetchWord va = .fault .linkDown r) ∧
      (r.linkDown pa = false → r.underTest (u.cur.1 / 128) pa = true → u.fetchWord va = .later r) ∧
      (r.linkDown pa = false → r.underTest (u.cur.1 / 128) pa = false → (r.poisoned pa = true → u.fetchWord va = .fault .poison r) ∧
        (r.poisoned pa = false → (∀ slot o, area pa ≠ .remote slot o) → u.fetchWord va = .word (r.bytes pa 4) r))

/-- R12, R28, R75, R81, R127, R180, R271, R273: after module reset every core is vacant, with its grid, its pool, its codebook and its
crossings zero; the registers hold what their tables give: LQSIZE 4, SAGE 2^20, SLCAP 1, all others 0. That the lane word and the pool word
of a vacant core are 0 and that no die's cap is lowered from 8 is the model's choice (log entry 6). -/
def Obligations.ResetLeaves : Prop :=
  let s := State.reset
  (∀ c, (s.core c).ctx = none ∧ (s.core c).frozen = false ∧ (s.core c).streams = [] ∧ (s.core c).copies = [] ∧ (s.core c).gq = [] ∧
    (s.core c).lane = 0 ∧ (s.core c).pool = 0 ∧ (s.core c).energy = 0 ∧
    (∀ r x, (s.core c).cell r x = 0) ∧ (∀ i, mget 0 i (s.core c).cbk = 0) ∧ (∀ i, mget 0 i (s.core c).cross = 0) ∧
    (∀ off, mget 0 off (s.core c).dbg = 0) ∧ ∀ n, (s.track c n).trip = none ∧ (s.track c n).wait = none ∧ (s.track c n).halted = false) ∧
  (∀ c o, c < 512 → o < 0x100000 → s.byte (0x400000000 + 0x100000 * c + o) = 0) ∧
  (∀ q, s.lqReg q 0 = 0 ∧ s.lqReg q 8 = 4 ∧ s.lqReg q 0x10 = 0 ∧ s.lqReg q 0x18 = 0 ∧ s.lqReg q 0x20 = 0) ∧
  (∀ d, s.stew d 0x28 = 0x100000 ∧ s.stew d 0 = 0 ∧ s.stew d 0x10 = 0 ∧ s.stew d 0x18 = 0 ∧ s.stew d 0x20 = 0 ∧ s.stew d 0x40 = 0 ∧
    s.stew d 0x800 = 0 ∧ (s.die d).cap = 8) ∧
  (∀ c, s.stew (c / 128) (0x100 + 8 * (c % 128)) = 1) ∧
  s.portctl = 0 ∧ s.portctx = 0 ∧ s.rmbase = 0 ∧ s.rmnode = 0 ∧ s.time = 0 ∧ s.launches = [] ∧ s.ready = [] ∧ s.gangs = [] ∧ s.conts = []

/-- The canonical form of memory, of poison marks, of grids and of images holds after reset; the form is the model's own choice (log entry
47). -/
def Obligations.ResetIsCanonical : Prop :=
  State.reset.canonical = true

/-- The canonical form of memory, of poison marks, of grids and of images is kept by every step, so that states of equal contents are
equal data, and the statements that take it as a premise hold along every run; the form is the model's own choice (log entry 47). -/
def Obligations.StepsKeepCanonicalForm : Prop :=
  ∀ s t : State, s.canonical = true → step s = .next t → t.canonical = true

end
end

