-- ==== Sys2Proof/Laws/Maps.lean ====
section
/-!
SUPPORT. What the operations on sparse tables do: reading back, leaving other keys alone, and keeping the canonical form.
-/
namespace Sys2Proof.Machine
-- one proof after another: in the package as one text every proof under way holds a thread of its own
set_option Elab.async false

variable {α : Type}

@[simp] theorem mget_nil (d : α) (k : Nat) : mget d k [] = d := rfl

@[simp] theorem mget_mput_same (d : α) (k : Nat) (v : α) (l : List (Nat × α)) : mget d k (mput k v l) = v := by
  induction l with
  | nil => simp [mput, mget]
  | cons e t ih =>
    obtain ⟨j, w⟩ := e
    simp only [mput]
    split
    · simp [mget]
    · split
      · simp [mget]
      · rename_i h1 h2
        simp [mget, h1, h2, ih]

theorem mget_mput_other (d : α) {k i : Nat} (h : i ≠ k) (v : α) (l : List (Nat × α)) : mget d i (mput k v l) = mget d i l := by
  induction l with
  | nil =>
    have h1 : ¬ k = i := fun e => h e.symm
    simp only [mput, mget, h1, if_false, ite_self]
  | cons e t ih =>
    obtain ⟨j, w⟩ := e
    simp only [mput]
    split
    · subst_vars
      have h1 : ¬ j = i := fun e => h e.symm
      simp only [mget, h1, if_false]
    · split
      · simp only [mget]
        by_cases hij : j = i
        · subst hij
          have : ¬ k = j := fun e => h e.symm
          have : ¬ j < k := by omega
          simp [*]
        · by_cases hik : i < k
          · have : i < j := by omega
            have : ¬ k = i := fun e => h e.symm
            simp [*]
          · have : ¬ k = i := fun e => h e.symm
            simp [*]
      · simp only [mget, ih]

theorem mget_mput (d : α) (k i : Nat) (v : α) (l : List (Nat × α)) :
    mget d i (mput k v l) = if i = k then v else mget d i l := by
  split
  · subst_vars; simp
  · rename_i h; exact mget_mput_other d h v l

/-- Every key of the table is at least `n`. -/
def mabove (n : Nat) (l : List (Nat × α)) : Bool := l.all fun e => decide (n < e.1)

theorem mrising_cons {j : Nat} {w : α} {t : List (Nat × α)} :
    mrising ((j, w) :: t) = true ↔ mabove j t = true ∧ mrising t = true := by
  induction t generalizing j w with
  | nil => simp [mrising, mabove]
  | cons e t ih =>
    obtain ⟨i, v⟩ := e
    simp only [mrising, Bool.and_eq_true, decide_eq_true_eq]
    constructor
    · rintro ⟨h, r⟩
      refine ⟨?_, r⟩
      have := (ih.mp r).1
      simp only [mabove, List.all_cons, Bool.and_eq_true, decide_eq_true_eq, List.all_eq_true] at this ⊢
      exact ⟨h, fun x hx => by have := this x hx; omega⟩
    · rintro ⟨h, r⟩
      simp only [mabove, List.all_cons, Bool.and_eq_true, decide_eq_true_eq] at h
      exact ⟨h.1, r⟩

theorem mabove_mput {n k : Nat} (v : α) {l : List (Nat × α)} (h : mabove n l = true) (hk : n < k) : mabove n (mput k v l) = true := by
  induction l with
  | nil => simp [mput, mabove, hk]
  | cons e t ih =>
    obtain ⟨j, w⟩ := e
    simp only [mabove, List.all_cons, Bool.and_eq_true, decide_eq_true_eq] at h ih
    simp only [mput]
    split
    · simp only [mabove, List.all_cons, Bool.and_eq_true, decide_eq_true_eq]; exact ⟨hk, h.2⟩
    · split
      · simp only [mabove, List.all_cons, Bool.and_eq_true, decide_eq_true_eq]; exact ⟨hk, h⟩
      · simp only [mabove, List.all_cons, Bool.and_eq_true, decide_eq_true_eq]; exact ⟨h.1, ih h.2⟩

theorem mabove_mono {n k : Nat} {l : List (Nat × α)} (h : mabove k l = true) (hk : n ≤ k) : mabove n l = true := by
  simp only [mabove, List.all_eq_true, decide_eq_true_eq] at h ⊢
  exact fun x hx => by have := h x hx; omega

theorem mrising_mput (k : Nat) (v : α) {l : List (Nat × α)} (h : mrising l = true) : mrising (mput k v l) = true := by
  induction l with
  | nil => rfl
  | cons e t ih =>
    obtain ⟨j, w⟩ := e
    have ⟨ha, hr⟩ := mrising_cons.mp h
    simp only [mput]
    split
    · subst_vars; exact mrising_cons.mpr ⟨ha, hr⟩
    · split
      · rename_i hjk
        refine mrising_cons.mpr ⟨?_, h⟩
        simp only [mabove, List.all_cons, Bool.and_eq_true, decide_eq_true_eq]
        exact ⟨hjk, mabove_mono ha (by omega)⟩
      · exact mrising_cons.mpr ⟨mabove_mput v ha (by omega), ih hr⟩

theorem mabove_mdel {n k : Nat} {l : List (Nat × α)} (h : mabove n l = true) : mabove n (mdel k l) = true := by
  induction l with
  | nil => rfl
  | cons e t ih =>
    obtain ⟨j, w⟩ := e
    simp only [mabove, List.all_cons, Bool.and_eq_true, decide_eq_true_eq] at h ih
    simp only [mdel]
    split
    · exact h.2
    · split
      · simp only [mabove, List.all_cons, Bool.and_eq_true, decide_eq_true_eq]; exact h
      · simp only [mabove, List.all_cons, Bool.and_eq_true, decide_eq_true_eq]; exact ⟨h.1, ih h.2⟩

theorem mrising_mdel (k : Nat) {l : List (Nat × α)} (h : mrising l = true) : mrising (mdel k l) = true := by
  induction l with
  | nil => rfl
  | cons e t ih =>
    obtain ⟨j, w⟩ := e
    have ⟨ha, hr⟩ := mrising_cons.mp h
    simp only [mdel]
    split
    · exact hr
    · split
      · exact h
      · exact mrising_cons.mpr ⟨mabove_mdel ha, ih hr⟩

/-- Below every key of a table the default is read. -/
theorem mget_of_mabove (d : α) {n i : Nat} {l : List (Nat × α)} (h : mabove n l = true) (hi : i ≤ n) : mget d i l = d := by
  cases l with
  | nil => rfl
  | cons e t =>
    obtain ⟨j, w⟩ := e
    simp only [mabove, List.all_cons, Bool.and_eq_true, decide_eq_true_eq] at h
    have h1 : ¬ j = i := by omega
    have h2 : i < j := by omega
    simp [mget, h1, h2]

theorem mget_mdel_same (d : α) (k : Nat) {l : List (Nat × α)} (h : mrising l = true) : mget d k (mdel k l) = d := by
  induction l with
  | nil => rfl
  | cons e t ih =>
    obtain ⟨j, w⟩ := e
    have ⟨ha, hr⟩ := mrising_cons.mp h
    simp only [mdel]
    split
    · subst_vars; exact mget_of_mabove d ha (Nat.le_refl _)
    · split <;> simp [mget, *]

theorem mget_mdel_other (d : α) {k i : Nat} (hi : i ≠ k) {l : List (Nat × α)} (h : mrising l = true) :
    mget d i (mdel k l) = mget d i l := by
  induction l with
  | nil => rfl
  | cons e t ih =>
    obtain ⟨j, w⟩ := e
    have ⟨ha, hr⟩ := mrising_cons.mp h
    simp only [mdel]
    split
    · rename_i hj
      have h1 : ¬ j = i := fun e => hi (e.symm.trans hj)
      simp only [mget, h1, if_false]
      split
      · rename_i hlt; exact mget_of_mabove d ha (by omega)
      · rfl
    · split
      · rfl
      · simp only [mget, ih hr]

theorem all_mput {p : Nat × α → Bool} {k : Nat} {v : α} {l : List (Nat × α)} (h : l.all p = true) (hv : p (k, v) = true) :
    (mput k v l).all p = true := by
  induction l with
  | nil => simp [mput, hv]
  | cons e t ih =>
    obtain ⟨j, w⟩ := e
    simp only [List.all_cons, Bool.and_eq_true] at h
    simp only [mput]
    split
    · simp [hv, h.2]
    · split
      · simp [hv, h.1, h.2]
      · simp [h.1, ih h.2]

theorem all_mdel {p : Nat × α → Bool} {k : Nat} {l : List (Nat × α)} (h : l.all p = true) : (mdel k l).all p = true := by
  induction l with
  | nil => rfl
  | cons e t ih =>
    obtain ⟨j, w⟩ := e
    simp only [List.all_cons, Bool.and_eq_true] at h
    simp only [mdel]
    split
    · exact h.2
    · split <;> simp [h.1, h.2, ih h.2]

theorem mabove_filter {n : Nat} {p : Nat × α → Bool} {l : List (Nat × α)} (h : mabove n l = true) : mabove n (l.filter p) = true := by
  simp only [mabove, List.all_eq_true, List.mem_filter] at h ⊢
  exact fun x hx => h x hx.1

theorem mrising_filter (p : Nat × α → Bool) {l : List (Nat × α)} (h : mrising l = true) : mrising (l.filter p) = true := by
  induction l with
  | nil => rfl
  | cons e t ih =>
    obtain ⟨j, w⟩ := e
    have ⟨ha, hr⟩ := mrising_cons.mp h
    simp only [List.filter]
    split
    · exact mrising_cons.mpr ⟨mabove_filter ha, ih hr⟩
    · exact ih hr

section
variable [DecidableEq α]

/-- Reading back what was set, in a table whose keys rise. -/
theorem mget_mset (d : α) (k i : Nat) (v : α) {l : List (Nat × α)} (h : mrising l = true) :
    mget d i (mset d k v l) = if i = k then v else mget d i l := by
  unfold mset
  split
  · rename_i hv
    split
    · subst_vars; exact mget_mdel_same _ _ h
    · rename_i hi; exact mget_mdel_other d hi h
  · exact mget_mput d k i v l

theorem mrising_mset (d : α) (k : Nat) (v : α) {l : List (Nat × α)} (h : mrising l = true) : mrising (mset d k v l) = true := by
  unfold mset; split
  · exact mrising_mdel k h
  · exact mrising_mput k v h

/-- Setting a key keeps the canonical form. -/
theorem mcanon_mset (d : α) (k : Nat) (v : α) {l : List (Nat × α)} (h : mcanon d l = true) : mcanon d (mset d k v l) = true := by
  unfold mcanon at h ⊢
  rw [Bool.and_eq_true] at h ⊢
  refine ⟨mrising_mset d k v h.1, ?_⟩
  unfold mset
  split
  · exact all_mdel h.2
  · rename_i hv; exact all_mput h.2 (by simpa using hv)

theorem mrising_of_mcanon {d : α} {l : List (Nat × α)} (h : mcanon d l = true) : mrising l = true := by
  unfold mcanon at h; rw [Bool.and_eq_true] at h; exact h.1

theorem mcanon_filter (d : α) (p : Nat × α → Bool) {l : List (Nat × α)} (h : mcanon d l = true) : mcanon d (l.filter p) = true := by
  unfold mcanon at h ⊢
  rw [Bool.and_eq_true] at h ⊢
  refine ⟨mrising_filter p h.1, ?_⟩
  · have h := h.2
    simp only [List.all_eq_true, List.mem_filter] at h ⊢
    exact fun x hx => h x hx.1

end

end Sys2Proof.Machine
end

