-- ==== Sys2Proof/Laws/State.lean ====
section
/-!
SUPPORT. One lemma for each field and each update of the state's records: what an update leaves of every other field.
-/
namespace Sys2Proof.Machine
-- one proof after another: in the package as one text every proof under way holds a thread of its own
set_option Elab.async false

/-! Updates of the whole state. -/

@[simp] theorem State.setCore_cur (s : State) (c : Nat) (k : Core) : (s.setCore c k).cur = s.cur := rfl
@[simp] theorem State.setCore_schedule (s : State) (c : Nat) (k : Core) : (s.setCore c k).schedule = s.schedule := rfl
@[simp] theorem State.setCore_slow (s : State) (c : Nat) (k : Core) : (s.setCore c k).slow = s.slow := rfl
@[simp] theorem State.setCore_tick (s : State) (c : Nat) (k : Core) : (s.setCore c k).tick = s.tick := rfl
@[simp] theorem State.setCore_nextId (s : State) (c : Nat) (k : Core) : (s.setCore c k).nextId = s.nextId := rfl
@[simp] theorem State.setCore_mem (s : State) (c : Nat) (k : Core) : (s.setCore c k).mem = s.mem := rfl
@[simp] theorem State.setCore_poison (s : State) (c : Nat) (k : Core) : (s.setCore c k).poison = s.poison := rfl
@[simp] theorem State.setCore_clusters (s : State) (c : Nat) (k : Core) : (s.setCore c k).clusters = s.clusters := rfl
@[simp] theorem State.setCore_dies (s : State) (c : Nat) (k : Core) : (s.setCore c k).dies = s.dies := rfl
@[simp] theorem State.setCore_time (s : State) (c : Nat) (k : Core) : (s.setCore c k).time = s.time := rfl
@[simp] theorem State.setCore_lq (s : State) (c : Nat) (k : Core) : (s.setCore c k).lq = s.lq := rfl
@[simp] theorem State.setCore_launches (s : State) (c : Nat) (k : Core) : (s.setCore c k).launches = s.launches := rfl
@[simp] theorem State.setCore_ready (s : State) (c : Nat) (k : Core) : (s.setCore c k).ready = s.ready := rfl
@[simp] theorem State.setCore_gangs (s : State) (c : Nat) (k : Core) : (s.setCore c k).gangs = s.gangs := rfl
@[simp] theorem State.setCore_conts (s : State) (c : Nat) (k : Core) : (s.setCore c k).conts = s.conts := rfl
@[simp] theorem State.setCore_tripCount (s : State) (c : Nat) (k : Core) : (s.setCore c k).tripCount = s.tripCount := rfl
@[simp] theorem State.setCore_racestat (s : State) (c : Nat) (k : Core) : (s.setCore c k).racestat = s.racestat := rfl
@[simp] theorem State.setCore_spilled (s : State) (c : Nat) (k : Core) : (s.setCore c k).spilled = s.spilled := rfl
@[simp] theorem State.setCore_rels (s : State) (c : Nat) (k : Core) : (s.setCore c k).rels = s.rels := rfl
@[simp] theorem State.setCore_jcts (s : State) (c : Nat) (k : Core) : (s.setCore c k).jcts = s.jcts := rfl
@[simp] theorem State.setCore_bars (s : State) (c : Nat) (k : Core) : (s.setCore c k).bars = s.bars := rfl
@[simp] theorem State.setCore_meets (s : State) (c : Nat) (k : Core) : (s.setCore c k).meets = s.meets := rfl
@[simp] theorem State.setCore_oldMeets (s : State) (c : Nat) (k : Core) : (s.setCore c k).oldMeets = s.oldMeets := rfl
@[simp] theorem State.setCore_farProxies (s : State) (c : Nat) (k : Core) : (s.setCore c k).farProxies = s.farProxies := rfl
@[simp] theorem State.setCore_hostClocks (s : State) (c : Nat) (k : Core) : (s.setCore c k).hostClocks = s.hostClocks := rfl
@[simp] theorem State.setCore_hostValues (s : State) (c : Nat) (k : Core) : (s.setCore c k).hostValues = s.hostValues := rfl
@[simp] theorem State.setCore_hostPend (s : State) (c : Nat) (k : Core) : (s.setCore c k).hostPend = s.hostPend := rfl
@[simp] theorem State.setCore_hostFence (s : State) (c : Nat) (k : Core) : (s.setCore c k).hostFence = s.hostFence := rfl
@[simp] theorem State.setCore_images (s : State) (c : Nat) (k : Core) : (s.setCore c k).images = s.images := rfl
@[simp] theorem State.setCore_imageSeq (s : State) (c : Nat) (k : Core) : (s.setCore c k).imageSeq = s.imageSeq := rfl
@[simp] theorem State.setCore_reloc (s : State) (c : Nat) (k : Core) : (s.setCore c k).reloc = s.reloc := rfl
@[simp] theorem State.setCore_rmbase (s : State) (c : Nat) (k : Core) : (s.setCore c k).rmbase = s.rmbase := rfl
@[simp] theorem State.setCore_rmnode (s : State) (c : Nat) (k : Core) : (s.setCore c k).rmnode = s.rmnode := rfl
@[simp] theorem State.setCore_conns (s : State) (c : Nat) (k : Core) : (s.setCore c k).conns = s.conns := rfl
@[simp] theorem State.setCore_requests (s : State) (c : Nat) (k : Core) : (s.setCore c k).requests = s.requests := rfl
@[simp] theorem State.setCore_outbox (s : State) (c : Nat) (k : Core) : (s.setCore c k).outbox = s.outbox := rfl
@[simp] theorem State.setCore_ethDropped (s : State) (c : Nat) (k : Core) : (s.setCore c k).ethDropped = s.ethDropped := rfl
@[simp] theorem State.setCore_portctl (s : State) (c : Nat) (k : Core) : (s.setCore c k).portctl = s.portctl := rfl
@[simp] theorem State.setCore_portctx (s : State) (c : Nat) (k : Core) : (s.setCore c k).portctx = s.portctx := rfl
@[simp] theorem State.setCore_portOut (s : State) (c : Nat) (k : Core) : (s.setCore c k).portOut = s.portOut := rfl
@[simp] theorem State.setCore_powerHigh (s : State) (c : Nat) (k : Core) : (s.setCore c k).powerHigh = s.powerHigh := rfl
@[simp] theorem State.setCore_powerFrom (s : State) (c : Nat) (k : Core) : (s.setCore c k).powerFrom = s.powerFrom := rfl
@[simp] theorem State.setCore_powerLow (s : State) (c : Nat) (k : Core) : (s.setCore c k).powerLow = s.powerLow := rfl
@[simp] theorem State.setCore_tripped (s : State) (c : Nat) (k : Core) : (s.setCore c k).tripped = s.tripped := rfl
@[simp] theorem State.setCore_cxlDown (s : State) (c : Nat) (k : Core) : (s.setCore c k).cxlDown = s.cxlDown := rfl
@[simp] theorem State.setCore_ethDown (s : State) (c : Nat) (k : Core) : (s.setCore c k).ethDown = s.ethDown := rfl
@[simp] theorem State.setCore_testing (s : State) (c : Nat) (k : Core) : (s.setCore c k).testing = s.testing := rfl
@[simp] theorem State.setCore_transients (s : State) (c : Nat) (k : Core) : (s.setCore c k).transients = s.transients := rfl
@[simp] theorem State.setCore_booted (s : State) (c : Nat) (k : Core) : (s.setCore c k).booted = s.booted := rfl
@[simp] theorem State.setCore_testFroze (s : State) (c : Nat) (k : Core) : (s.setCore c k).testFroze = s.testFroze := rfl
@[simp] theorem State.setCore_gangHalts (s : State) (c : Nat) (k : Core) : (s.setCore c k).gangHalts = s.gangHalts := rfl
@[simp] theorem State.setCore_hostMap (s : State) (c : Nat) (k : Core) : (s.setCore c k).hostMap = s.hostMap := rfl
@[simp] theorem State.setCore_displaced (s : State) (c : Nat) (k : Core) : (s.setCore c k).displaced = s.displaced := rfl
@[simp] theorem State.setCore_reports (s : State) (c : Nat) (k : Core) : (s.setCore c k).reports = s.reports := rfl

@[simp] theorem State.modCore_cur (s : State) (c : Nat) (f : Core → Core) : (s.modCore c f).cur = s.cur := rfl
@[simp] theorem State.modCore_schedule (s : State) (c : Nat) (f : Core → Core) : (s.modCore c f).schedule = s.schedule := rfl
@[simp] theorem State.modCore_slow (s : State) (c : Nat) (f : Core → Core) : (s.modCore c f).slow = s.slow := rfl
@[simp] theorem State.modCore_tick (s : State) (c : Nat) (f : Core → Core) : (s.modCore c f).tick = s.tick := rfl
@[simp] theorem State.modCore_nextId (s : State) (c : Nat) (f : Core → Core) : (s.modCore c f).nextId = s.nextId := rfl
@[simp] theorem State.modCore_mem (s : State) (c : Nat) (f : Core → Core) : (s.modCore c f).mem = s.mem := rfl
@[simp] theorem State.modCore_poison (s : State) (c : Nat) (f : Core → Core) : (s.modCore c f).poison = s.poison := rfl
@[simp] theorem State.modCore_clusters (s : State) (c : Nat) (f : Core → Core) : (s.modCore c f).clusters = s.clusters := rfl
@[simp] theorem State.modCore_dies (s : State) (c : Nat) (f : Core → Core) : (s.modCore c f).dies = s.dies := rfl
@[simp] theorem State.modCore_time (s : State) (c : Nat) (f : Core → Core) : (s.modCore c f).time = s.time := rfl
@[simp] theorem State.modCore_lq (s : State) (c : Nat) (f : Core → Core) : (s.modCore c f).lq = s.lq := rfl
@[simp] theorem State.modCore_launches (s : State) (c : Nat) (f : Core → Core) : (s.modCore c f).launches = s.launches := rfl
@[simp] theorem State.modCore_ready (s : State) (c : Nat) (f : Core → Core) : (s.modCore c f).ready = s.ready := rfl
@[simp] theorem State.modCore_gangs (s : State) (c : Nat) (f : Core → Core) : (s.modCore c f).gangs = s.gangs := rfl
@[simp] theorem State.modCore_conts (s : State) (c : Nat) (f : Core → Core) : (s.modCore c f).conts = s.conts := rfl
@[simp] theorem State.modCore_tripCount (s : State) (c : Nat) (f : Core → Core) : (s.modCore c f).tripCount = s.tripCount := rfl
@[simp] theorem State.modCore_racestat (s : State) (c : Nat) (f : Core → Core) : (s.modCore c f).racestat = s.racestat := rfl
@[simp] theorem State.modCore_spilled (s : State) (c : Nat) (f : Core → Core) : (s.modCore c f).spilled = s.spilled := rfl
@[simp] theorem State.modCore_rels (s : State) (c : Nat) (f : Core → Core) : (s.modCore c f).rels = s.rels := rfl
@[simp] theorem State.modCore_jcts (s : State) (c : Nat) (f : Core → Core) : (s.modCore c f).jcts = s.jcts := rfl
@[simp] theorem State.modCore_bars (s : State) (c : Nat) (f : Core → Core) : (s.modCore c f).bars = s.bars := rfl
@[simp] theorem State.modCore_meets (s : State) (c : Nat) (f : Core → Core) : (s.modCore c f).meets = s.meets := rfl
@[simp] theorem State.modCore_oldMeets (s : State) (c : Nat) (f : Core → Core) : (s.modCore c f).oldMeets = s.oldMeets := rfl
@[simp] theorem State.modCore_farProxies (s : State) (c : Nat) (f : Core → Core) : (s.modCore c f).farProxies = s.farProxies := rfl
@[simp] theorem State.modCore_hostClocks (s : State) (c : Nat) (f : Core → Core) : (s.modCore c f).hostClocks = s.hostClocks := rfl
@[simp] theorem State.modCore_hostValues (s : State) (c : Nat) (f : Core → Core) : (s.modCore c f).hostValues = s.hostValues := rfl
@[simp] theorem State.modCore_hostPend (s : State) (c : Nat) (f : Core → Core) : (s.modCore c f).hostPend = s.hostPend := rfl
@[simp] theorem State.modCore_hostFence (s : State) (c : Nat) (f : Core → Core) : (s.modCore c f).hostFence = s.hostFence := rfl
@[simp] theorem State.modCore_images (s : State) (c : Nat) (f : Core → Core) : (s.modCore c f).images = s.images := rfl
@[simp] theorem State.modCore_imageSeq (s : State) (c : Nat) (f : Core → Core) : (s.modCore c f).imageSeq = s.imageSeq := rfl
@[simp] theorem State.modCore_reloc (s : State) (c : Nat) (f : Core → Core) : (s.modCore c f).reloc = s.reloc := rfl
@[simp] theorem State.modCore_rmbase (s : State) (c : Nat) (f : Core → Core) : (s.modCore c f).rmbase = s.rmbase := rfl
@[simp] theorem State.modCore_rmnode (s : State) (c : Nat) (f : Core → Core) : (s.modCore c f).rmnode = s.rmnode := rfl
@[simp] theorem State.modCore_conns (s : State) (c : Nat) (f : Core → Core) : (s.modCore c f).conns = s.conns := rfl
@[simp] theorem State.modCore_requests (s : State) (c : Nat) (f : Core → Core) : (s.modCore c f).requests = s.requests := rfl
@[simp] theorem State.modCore_outbox (s : State) (c : Nat) (f : Core → Core) : (s.modCore c f).outbox = s.outbox := rfl
@[simp] theorem State.modCore_ethDropped (s : State) (c : Nat) (f : Core → Core) : (s.modCore c f).ethDropped = s.ethDropped := rfl
@[simp] theorem State.modCore_portctl (s : State) (c : Nat) (f : Core → Core) : (s.modCore c f).portctl = s.portctl := rfl
@[simp] theorem State.modCore_portctx (s : State) (c : Nat) (f : Core → Core) : (s.modCore c f).portctx = s.portctx := rfl
@[simp] theorem State.modCore_portOut (s : State) (c : Nat) (f : Core → Core) : (s.modCore c f).portOut = s.portOut := rfl
@[simp] theorem State.modCore_powerHigh (s : State) (c : Nat) (f : Core → Core) : (s.modCore c f).powerHigh = s.powerHigh := rfl
@[simp] theorem State.modCore_powerFrom (s : State) (c : Nat) (f : Core → Core) : (s.modCore c f).powerFrom = s.powerFrom := rfl
@[simp] theorem State.modCore_powerLow (s : State) (c : Nat) (f : Core → Core) : (s.modCore c f).powerLow = s.powerLow := rfl
@[simp] theorem State.modCore_tripped (s : State) (c : Nat) (f : Core → Core) : (s.modCore c f).tripped = s.tripped := rfl
@[simp] theorem State.modCore_cxlDown (s : State) (c : Nat) (f : Core → Core) : (s.modCore c f).cxlDown = s.cxlDown := rfl
@[simp] theorem State.modCore_ethDown (s : State) (c : Nat) (f : Core → Core) : (s.modCore c f).ethDown = s.ethDown := rfl
@[simp] theorem State.modCore_testing (s : State) (c : Nat) (f : Core → Core) : (s.modCore c f).testing = s.testing := rfl
@[simp] theorem State.modCore_transients (s : State) (c : Nat) (f : Core → Core) : (s.modCore c f).transients = s.transients := rfl
@[simp] theorem State.modCore_booted (s : State) (c : Nat) (f : Core → Core) : (s.modCore c f).booted = s.booted := rfl
@[simp] theorem State.modCore_testFroze (s : State) (c : Nat) (f : Core → Core) : (s.modCore c f).testFroze = s.testFroze := rfl
@[simp] theorem State.modCore_gangHalts (s : State) (c : Nat) (f : Core → Core) : (s.modCore c f).gangHalts = s.gangHalts := rfl
@[simp] theorem State.modCore_hostMap (s : State) (c : Nat) (f : Core → Core) : (s.modCore c f).hostMap = s.hostMap := rfl
@[simp] theorem State.modCore_displaced (s : State) (c : Nat) (f : Core → Core) : (s.modCore c f).displaced = s.displaced := rfl
@[simp] theorem State.modCore_reports (s : State) (c : Nat) (f : Core → Core) : (s.modCore c f).reports = s.reports := rfl

@[simp] theorem State.modTrack_cur (s : State) (c : Nat) (n : Nat) (f : Track → Track) : (s.modTrack c n f).cur = s.cur := rfl
@[simp] theorem State.modTrack_schedule (s : State) (c : Nat) (n : Nat) (f : Track → Track) : (s.modTrack c n f).schedule = s.schedule := rfl
@[simp] theorem State.modTrack_slow (s : State) (c : Nat) (n : Nat) (f : Track → Track) : (s.modTrack c n f).slow = s.slow := rfl
@[simp] theorem State.modTrack_tick (s : State) (c : Nat) (n : Nat) (f : Track → Track) : (s.modTrack c n f).tick = s.tick := rfl
@[simp] theorem State.modTrack_nextId (s : State) (c : Nat) (n : Nat) (f : Track → Track) : (s.modTrack c n f).nextId = s.nextId := rfl
@[simp] theorem State.modTrack_mem (s : State) (c : Nat) (n : Nat) (f : Track → Track) : (s.modTrack c n f).mem = s.mem := rfl
@[simp] theorem State.modTrack_poison (s : State) (c : Nat) (n : Nat) (f : Track → Track) : (s.modTrack c n f).poison = s.poison := rfl
@[simp] theorem State.modTrack_clusters (s : State) (c : Nat) (n : Nat) (f : Track → Track) : (s.modTrack c n f).clusters = s.clusters := rfl
@[simp] theorem State.modTrack_dies (s : State) (c : Nat) (n : Nat) (f : Track → Track) : (s.modTrack c n f).dies = s.dies := rfl
@[simp] theorem State.modTrack_time (s : State) (c : Nat) (n : Nat) (f : Track → Track) : (s.modTrack c n f).time = s.time := rfl
@[simp] theorem State.modTrack_lq (s : State) (c : Nat) (n : Nat) (f : Track → Track) : (s.modTrack c n f).lq = s.lq := rfl
@[simp] theorem State.modTrack_launches (s : State) (c : Nat) (n : Nat) (f : Track → Track) : (s.modTrack c n f).launches = s.launches := rfl
@[simp] theorem State.modTrack_ready (s : State) (c : Nat) (n : Nat) (f : Track → Track) : (s.modTrack c n f).ready = s.ready := rfl
@[simp] theorem State.modTrack_gangs (s : State) (c : Nat) (n : Nat) (f : Track → Track) : (s.modTrack c n f).gangs = s.gangs := rfl
@[simp] theorem State.modTrack_conts (s : State) (c : Nat) (n : Nat) (f : Track → Track) : (s.modTrack c n f).conts = s.conts := rfl
@[simp] theorem State.modTrack_tripCount (s : State) (c : Nat) (n : Nat) (f : Track → Track) : (s.modTrack c n f).tripCount = s.tripCount := rfl
@[simp] theorem State.modTrack_racestat (s : State) (c : Nat) (n : Nat) (f : Track → Track) : (s.modTrack c n f).racestat = s.racestat := rfl
@[simp] theorem State.modTrack_spilled (s : State) (c : Nat) (n : Nat) (f : Track → Track) : (s.modTrack c n f).spilled = s.spilled := rfl
@[simp] theorem State.modTrack_rels (s : State) (c : Nat) (n : Nat) (f : Track → Track) : (s.modTrack c n f).rels = s.rels := rfl
@[simp] theorem State.modTrack_jcts (s : State) (c : Nat) (n : Nat) (f : Track → Track) : (s.modTrack c n f).jcts = s.jcts := rfl
@[simp] theorem State.modTrack_bars (s : State) (c : Nat) (n : Nat) (f : Track → Track) : (s.modTrack c n f).bars = s.bars := rfl
@[simp] theorem State.modTrack_meets (s : State) (c : Nat) (n : Nat) (f : Track → Track) : (s.modTrack c n f).meets = s.meets := rfl
@[simp] theorem State.modTrack_oldMeets (s : State) (c : Nat) (n : Nat) (f : Track → Track) : (s.modTrack c n f).oldMeets = s.oldMeets := rfl
@[simp] theorem State.modTrack_farProxies (s : State) (c : Nat) (n : Nat) (f : Track → Track) : (s.modTrack c n f).farProxies = s.farProxies := rfl
@[simp] theorem State.modTrack_hostClocks (s : State) (c : Nat) (n : Nat) (f : Track → Track) : (s.modTrack c n f).hostClocks = s.hostClocks := rfl
@[simp] theorem State.modTrack_hostValues (s : State) (c : Nat) (n : Nat) (f : Track → Track) : (s.modTrack c n f).hostValues = s.hostValues := rfl
@[simp] theorem State.modTrack_hostPend (s : State) (c : Nat) (n : Nat) (f : Track → Track) : (s.modTrack c n f).hostPend = s.hostPend := rfl
@[simp] theorem State.modTrack_hostFence (s : State) (c : Nat) (n : Nat) (f : Track → Track) : (s.modTrack c n f).hostFence = s.hostFence := rfl
@[simp] theorem State.modTrack_images (s : State) (c : Nat) (n : Nat) (f : Track → Track) : (s.modTrack c n f).images = s.images := rfl
@[simp] theorem State.modTrack_imageSeq (s : State) (c : Nat) (n : Nat) (f : Track → Track) : (s.modTrack c n f).imageSeq = s.imageSeq := rfl
@[simp] theorem State.modTrack_reloc (s : State) (c : Nat) (n : Nat) (f : Track → Track) : (s.modTrack c n f).reloc = s.reloc := rfl
@[simp] theorem State.modTrack_rmbase (s : State) (c : Nat) (n : Nat) (f : Track → Track) : (s.modTrack c n f).rmbase = s.rmbase := rfl
@[simp] theorem State.modTrack_rmnode (s : State) (c : Nat) (n : Nat) (f : Track → Track) : (s.modTrack c n f).rmnode = s.rmnode := rfl
@[simp] theorem State.modTrack_conns (s : State) (c : Nat) (n : Nat) (f : Track → Track) : (s.modTrack c n f).conns = s.conns := rfl
@[simp] theorem State.modTrack_requests (s : State) (c : Nat) (n : Nat) (f : Track → Track) : (s.modTrack c n f).requests = s.requests := rfl
@[simp] theorem State.modTrack_outbox (s : State) (c : Nat) (n : Nat) (f : Track → Track) : (s.modTrack c n f).outbox = s.outbox := rfl
@[simp] theorem State.modTrack_ethDropped (s : State) (c : Nat) (n : Nat) (f : Track → Track) : (s.modTrack c n f).ethDropped = s.ethDropped := rfl
@[simp] theorem State.modTrack_portctl (s : State) (c : Nat) (n : Nat) (f : Track → Track) : (s.modTrack c n f).portctl = s.portctl := rfl
@[simp] theorem State.modTrack_portctx (s : State) (c : Nat) (n : Nat) (f : Track → Track) : (s.modTrack c n f).portctx = s.portctx := rfl
@[simp] theorem State.modTrack_portOut (s : State) (c : Nat) (n : Nat) (f : Track → Track) : (s.modTrack c n f).portOut = s.portOut := rfl
@[simp] theorem State.modTrack_powerHigh (s : State) (c : Nat) (n : Nat) (f : Track → Track) : (s.modTrack c n f).powerHigh = s.powerHigh := rfl
@[simp] theorem State.modTrack_powerFrom (s : State) (c : Nat) (n : Nat) (f : Track → Track) : (s.modTrack c n f).powerFrom = s.powerFrom := rfl
@[simp] theorem State.modTrack_powerLow (s : State) (c : Nat) (n : Nat) (f : Track → Track) : (s.modTrack c n f).powerLow = s.powerLow := rfl
@[simp] theorem State.modTrack_tripped (s : State) (c : Nat) (n : Nat) (f : Track → Track) : (s.modTrack c n f).tripped = s.tripped := rfl
@[simp] theorem State.modTrack_cxlDown (s : State) (c : Nat) (n : Nat) (f : Track → Track) : (s.modTrack c n f).cxlDown = s.cxlDown := rfl
@[simp] theorem State.modTrack_ethDown (s : State) (c : Nat) (n : Nat) (f : Track → Track) : (s.modTrack c n f).ethDown = s.ethDown := rfl
@[simp] theorem State.modTrack_testing (s : State) (c : Nat) (n : Nat) (f : Track → Track) : (s.modTrack c n f).testing = s.testing := rfl
@[simp] theorem State.modTrack_transients (s : State) (c : Nat) (n : Nat) (f : Track → Track) : (s.modTrack c n f).transients = s.transients := rfl
@[simp] theorem State.modTrack_booted (s : State) (c : Nat) (n : Nat) (f : Track → Track) : (s.modTrack c n f).booted = s.booted := rfl
@[simp] theorem State.modTrack_testFroze (s : State) (c : Nat) (n : Nat) (f : Track → Track) : (s.modTrack c n f).testFroze = s.testFroze := rfl
@[simp] theorem State.modTrack_gangHalts (s : State) (c : Nat) (n : Nat) (f : Track → Track) : (s.modTrack c n f).gangHalts = s.gangHalts := rfl
@[simp] theorem State.modTrack_hostMap (s : State) (c : Nat) (n : Nat) (f : Track → Track) : (s.modTrack c n f).hostMap = s.hostMap := rfl
@[simp] theorem State.modTrack_displaced (s : State) (c : Nat) (n : Nat) (f : Track → Track) : (s.modTrack c n f).displaced = s.displaced := rfl
@[simp] theorem State.modTrack_reports (s : State) (c : Nat) (n : Nat) (f : Track → Track) : (s.modTrack c n f).reports = s.reports := rfl

@[simp] theorem State.modMe_cur (s : State) (f : Track → Track) : (s.modMe f).cur = s.cur := rfl
@[simp] theorem State.modMe_schedule (s : State) (f : Track → Track) : (s.modMe f).schedule = s.schedule := rfl
@[simp] theorem State.modMe_slow (s : State) (f : Track → Track) : (s.modMe f).slow = s.slow := rfl
@[simp] theorem State.modMe_tick (s : State) (f : Track → Track) : (s.modMe f).tick = s.tick := rfl
@[simp] theorem State.modMe_nextId (s : State) (f : Track → Track) : (s.modMe f).nextId = s.nextId := rfl
@[simp] theorem State.modMe_mem (s : State) (f : Track → Track) : (s.modMe f).mem = s.mem := rfl
@[simp] theorem State.modMe_poison (s : State) (f : Track → Track) : (s.modMe f).poison = s.poison := rfl
@[simp] theorem State.modMe_clusters (s : State) (f : Track → Track) : (s.modMe f).clusters = s.clusters := rfl
@[simp] theorem State.modMe_dies (s : State) (f : Track → Track) : (s.modMe f).dies = s.dies := rfl
@[simp] theorem State.modMe_time (s : State) (f : Track → Track) : (s.modMe f).time = s.time := rfl
@[simp] theorem State.modMe_lq (s : State) (f : Track → Track) : (s.modMe f).lq = s.lq := rfl
@[simp] theorem State.modMe_launches (s : State) (f : Track → Track) : (s.modMe f).launches = s.launches := rfl
@[simp] theorem State.modMe_ready (s : State) (f : Track → Track) : (s.modMe f).ready = s.ready := rfl
@[simp] theorem State.modMe_gangs (s : State) (f : Track → Track) : (s.modMe f).gangs = s.gangs := rfl
@[simp] theorem State.modMe_conts (s : State) (f : Track → Track) : (s.modMe f).conts = s.conts := rfl
@[simp] theorem State.modMe_tripCount (s : State) (f : Track → Track) : (s.modMe f).tripCount = s.tripCount := rfl
@[simp] theorem State.modMe_racestat (s : State) (f : Track → Track) : (s.modMe f).racestat = s.racestat := rfl
@[simp] theorem State.modMe_spilled (s : State) (f : Track → Track) : (s.modMe f).spilled = s.spilled := rfl
@[simp] theorem State.modMe_rels (s : State) (f : Track → Track) : (s.modMe f).rels = s.rels := rfl
@[simp] theorem State.modMe_jcts (s : State) (f : Track → Track) : (s.modMe f).jcts = s.jcts := rfl
@[simp] theorem State.modMe_bars (s : State) (f : Track → Track) : (s.modMe f).bars = s.bars := rfl
@[simp] theorem State.modMe_meets (s : State) (f : Track → Track) : (s.modMe f).meets = s.meets := rfl
@[simp] theorem State.modMe_oldMeets (s : State) (f : Track → Track) : (s.modMe f).oldMeets = s.oldMeets := rfl
@[simp] theorem State.modMe_farProxies (s : State) (f : Track → Track) : (s.modMe f).farProxies = s.farProxies := rfl
@[simp] theorem State.modMe_hostClocks (s : State) (f : Track → Track) : (s.modMe f).hostClocks = s.hostClocks := rfl
@[simp] theorem State.modMe_hostValues (s : State) (f : Track → Track) : (s.modMe f).hostValues = s.hostValues := rfl
@[simp] theorem State.modMe_hostPend (s : State) (f : Track → Track) : (s.modMe f).hostPend = s.hostPend := rfl
@[simp] theorem State.modMe_hostFence (s : State) (f : Track → Track) : (s.modMe f).hostFence = s.hostFence := rfl
@[simp] theorem State.modMe_images (s : State) (f : Track → Track) : (s.modMe f).images = s.images := rfl
@[simp] theorem State.modMe_imageSeq (s : State) (f : Track → Track) : (s.modMe f).imageSeq = s.imageSeq := rfl
@[simp] theorem State.modMe_reloc (s : State) (f : Track → Track) : (s.modMe f).reloc = s.reloc := rfl
@[simp] theorem State.modMe_rmbase (s : State) (f : Track → Track) : (s.modMe f).rmbase = s.rmbase := rfl
@[simp] theorem State.modMe_rmnode (s : State) (f : Track → Track) : (s.modMe f).rmnode = s.rmnode := rfl
@[simp] theorem State.modMe_conns (s : State) (f : Track → Track) : (s.modMe f).conns = s.conns := rfl
@[simp] theorem State.modMe_requests (s : State) (f : Track → Track) : (s.modMe f).requests = s.requests := rfl
@[simp] theorem State.modMe_outbox (s : State) (f : Track → Track) : (s.modMe f).outbox = s.outbox := rfl
@[simp] theorem State.modMe_ethDropped (s : State) (f : Track → Track) : (s.modMe f).ethDropped = s.ethDropped := rfl
@[simp] theorem State.modMe_portctl (s : State) (f : Track → Track) : (s.modMe f).portctl = s.portctl := rfl
@[simp] theorem State.modMe_portctx (s : State) (f : Track → Track) : (s.modMe f).portctx = s.portctx := rfl
@[simp] theorem State.modMe_portOut (s : State) (f : Track → Track) : (s.modMe f).portOut = s.portOut := rfl
@[simp] theorem State.modMe_powerHigh (s : State) (f : Track → Track) : (s.modMe f).powerHigh = s.powerHigh := rfl
@[simp] theorem State.modMe_powerFrom (s : State) (f : Track → Track) : (s.modMe f).powerFrom = s.powerFrom := rfl
@[simp] theorem State.modMe_powerLow (s : State) (f : Track → Track) : (s.modMe f).powerLow = s.powerLow := rfl
@[simp] theorem State.modMe_tripped (s : State) (f : Track → Track) : (s.modMe f).tripped = s.tripped := rfl
@[simp] theorem State.modMe_cxlDown (s : State) (f : Track → Track) : (s.modMe f).cxlDown = s.cxlDown := rfl
@[simp] theorem State.modMe_ethDown (s : State) (f : Track → Track) : (s.modMe f).ethDown = s.ethDown := rfl
@[simp] theorem State.modMe_testing (s : State) (f : Track → Track) : (s.modMe f).testing = s.testing := rfl
@[simp] theorem State.modMe_transients (s : State) (f : Track → Track) : (s.modMe f).transients = s.transients := rfl
@[simp] theorem State.modMe_booted (s : State) (f : Track → Track) : (s.modMe f).booted = s.booted := rfl
@[simp] theorem State.modMe_testFroze (s : State) (f : Track → Track) : (s.modMe f).testFroze = s.testFroze := rfl
@[simp] theorem State.modMe_gangHalts (s : State) (f : Track → Track) : (s.modMe f).gangHalts = s.gangHalts := rfl
@[simp] theorem State.modMe_hostMap (s : State) (f : Track → Track) : (s.modMe f).hostMap = s.hostMap := rfl
@[simp] theorem State.modMe_displaced (s : State) (f : Track → Track) : (s.modMe f).displaced = s.displaced := rfl
@[simp] theorem State.modMe_reports (s : State) (f : Track → Track) : (s.modMe f).reports = s.reports := rfl

@[simp] theorem State.modMyCore_cur (s : State) (f : Core → Core) : (s.modMyCore f).cur = s.cur := rfl
@[simp] theorem State.modMyCore_schedule (s : State) (f : Core → Core) : (s.modMyCore f).schedule = s.schedule := rfl
@[simp] theorem State.modMyCore_slow (s : State) (f : Core → Core) : (s.modMyCore f).slow = s.slow := rfl
@[simp] theorem State.modMyCore_tick (s : State) (f : Core → Core) : (s.modMyCore f).tick = s.tick := rfl
@[simp] theorem State.modMyCore_nextId (s : State) (f : Core → Core) : (s.modMyCore f).nextId = s.nextId := rfl
@[simp] theorem State.modMyCore_mem (s : State) (f : Core → Core) : (s.modMyCore f).mem = s.mem := rfl
@[simp] theorem State.modMyCore_poison (s : State) (f : Core → Core) : (s.modMyCore f).poison = s.poison := rfl
@[simp] theorem State.modMyCore_clusters (s : State) (f : Core → Core) : (s.modMyCore f).clusters = s.clusters := rfl
@[simp] theorem State.modMyCore_dies (s : State) (f : Core → Core) : (s.modMyCore f).dies = s.dies := rfl
@[simp] theorem State.modMyCore_time (s : State) (f : Core → Core) : (s.modMyCore f).time = s.time := rfl
@[simp] theorem State.modMyCore_lq (s : State) (f : Core → Core) : (s.modMyCore f).lq = s.lq := rfl
@[simp] theorem State.modMyCore_launches (s : State) (f : Core → Core) : (s.modMyCore f).launches = s.launches := rfl
@[simp] theorem State.modMyCore_ready (s : State) (f : Core → Core) : (s.modMyCore f).ready = s.ready := rfl
@[simp] theorem State.modMyCore_gangs (s : State) (f : Core → Core) : (s.modMyCore f).gangs = s.gangs := rfl
@[simp] theorem State.modMyCore_conts (s : State) (f : Core → Core) : (s.modMyCore f).conts = s.conts := rfl
@[simp] theorem State.modMyCore_tripCount (s : State) (f : Core → Core) : (s.modMyCore f).tripCount = s.tripCount := rfl
@[simp] theorem State.modMyCore_racestat (s : State) (f : Core → Core) : (s.modMyCore f).racestat = s.racestat := rfl
@[simp] theorem State.modMyCore_spilled (s : State) (f : Core → Core) : (s.modMyCore f).spilled = s.spilled := rfl
@[simp] theorem State.modMyCore_rels (s : State) (f : Core → Core) : (s.modMyCore f).rels = s.rels := rfl
@[simp] theorem State.modMyCore_jcts (s : State) (f : Core → Core) : (s.modMyCore f).jcts = s.jcts := rfl
@[simp] theorem State.modMyCore_bars (s : State) (f : Core → Core) : (s.modMyCore f).bars = s.bars := rfl
@[simp] theorem State.modMyCore_meets (s : State) (f : Core → Core) : (s.modMyCore f).meets = s.meets := rfl
@[simp] theorem State.modMyCore_oldMeets (s : State) (f : Core → Core) : (s.modMyCore f).oldMeets = s.oldMeets := rfl
@[simp] theorem State.modMyCore_farProxies (s : State) (f : Core → Core) : (s.modMyCore f).farProxies = s.farProxies := rfl
@[simp] theorem State.modMyCore_hostClocks (s : State) (f : Core → Core) : (s.modMyCore f).hostClocks = s.hostClocks := rfl
@[simp] theorem State.modMyCore_hostValues (s : State) (f : Core → Core) : (s.modMyCore f).hostValues = s.hostValues := rfl
@[simp] theorem State.modMyCore_hostPend (s : State) (f : Core → Core) : (s.modMyCore f).hostPend = s.hostPend := rfl
@[simp] theorem State.modMyCore_hostFence (s : State) (f : Core → Core) : (s.modMyCore f).hostFence = s.hostFence := rfl
@[simp] theorem State.modMyCore_images (s : State) (f : Core → Core) : (s.modMyCore f).images = s.images := rfl
@[simp] theorem State.modMyCore_imageSeq (s : State) (f : Core → Core) : (s.modMyCore f).imageSeq = s.imageSeq := rfl
@[simp] theorem State.modMyCore_reloc (s : State) (f : Core → Core) : (s.modMyCore f).reloc = s.reloc := rfl
@[simp] theorem State.modMyCore_rmbase (s : State) (f : Core → Core) : (s.modMyCore f).rmbase = s.rmbase := rfl
@[simp] theorem State.modMyCore_rmnode (s : State) (f : Core → Core) : (s.modMyCore f).rmnode = s.rmnode := rfl
@[simp] theorem State.modMyCore_conns (s : State) (f : Core → Core) : (s.modMyCore f).conns = s.conns := rfl
@[simp] theorem State.modMyCore_requests (s : State) (f : Core → Core) : (s.modMyCore f).requests = s.requests := rfl
@[simp] theorem State.modMyCore_outbox (s : State) (f : Core → Core) : (s.modMyCore f).outbox = s.outbox := rfl
@[simp] theorem State.modMyCore_ethDropped (s : State) (f : Core → Core) : (s.modMyCore f).ethDropped = s.ethDropped := rfl
@[simp] theorem State.modMyCore_portctl (s : State) (f : Core → Core) : (s.modMyCore f).portctl = s.portctl := rfl
@[simp] theorem State.modMyCore_portctx (s : State) (f : Core → Core) : (s.modMyCore f).portctx = s.portctx := rfl
@[simp] theorem State.modMyCore_portOut (s : State) (f : Core → Core) : (s.modMyCore f).portOut = s.portOut := rfl
@[simp] theorem State.modMyCore_powerHigh (s : State) (f : Core → Core) : (s.modMyCore f).powerHigh = s.powerHigh := rfl
@[simp] theorem State.modMyCore_powerFrom (s : State) (f : Core → Core) : (s.modMyCore f).powerFrom = s.powerFrom := rfl
@[simp] theorem State.modMyCore_powerLow (s : State) (f : Core → Core) : (s.modMyCore f).powerLow = s.powerLow := rfl
@[simp] theorem State.modMyCore_tripped (s : State) (f : Core → Core) : (s.modMyCore f).tripped = s.tripped := rfl
@[simp] theorem State.modMyCore_cxlDown (s : State) (f : Core → Core) : (s.modMyCore f).cxlDown = s.cxlDown := rfl
@[simp] theorem State.modMyCore_ethDown (s : State) (f : Core → Core) : (s.modMyCore f).ethDown = s.ethDown := rfl
@[simp] theorem State.modMyCore_testing (s : State) (f : Core → Core) : (s.modMyCore f).testing = s.testing := rfl
@[simp] theorem State.modMyCore_transients (s : State) (f : Core → Core) : (s.modMyCore f).transients = s.transients := rfl
@[simp] theorem State.modMyCore_booted (s : State) (f : Core → Core) : (s.modMyCore f).booted = s.booted := rfl
@[simp] theorem State.modMyCore_testFroze (s : State) (f : Core → Core) : (s.modMyCore f).testFroze = s.testFroze := rfl
@[simp] theorem State.modMyCore_gangHalts (s : State) (f : Core → Core) : (s.modMyCore f).gangHalts = s.gangHalts := rfl
@[simp] theorem State.modMyCore_hostMap (s : State) (f : Core → Core) : (s.modMyCore f).hostMap = s.hostMap := rfl
@[simp] theorem State.modMyCore_displaced (s : State) (f : Core → Core) : (s.modMyCore f).displaced = s.displaced := rfl
@[simp] theorem State.modMyCore_reports (s : State) (f : Core → Core) : (s.modMyCore f).reports = s.reports := rfl

@[simp] theorem State.modDie_cur (s : State) (d : Nat) (f : Die → Die) : (s.modDie d f).cur = s.cur := rfl
@[simp] theorem State.modDie_schedule (s : State) (d : Nat) (f : Die → Die) : (s.modDie d f).schedule = s.schedule := rfl
@[simp] theorem State.modDie_slow (s : State) (d : Nat) (f : Die → Die) : (s.modDie d f).slow = s.slow := rfl
@[simp] theorem State.modDie_tick (s : State) (d : Nat) (f : Die → Die) : (s.modDie d f).tick = s.tick := rfl
@[simp] theorem State.modDie_nextId (s : State) (d : Nat) (f : Die → Die) : (s.modDie d f).nextId = s.nextId := rfl
@[simp] theorem State.modDie_mem (s : State) (d : Nat) (f : Die → Die) : (s.modDie d f).mem = s.mem := rfl
@[simp] theorem State.modDie_poison (s : State) (d : Nat) (f : Die → Die) : (s.modDie d f).poison = s.poison := rfl
@[simp] theorem State.modDie_cores (s : State) (d : Nat) (f : Die → Die) : (s.modDie d f).cores = s.cores := rfl
@[simp] theorem State.modDie_clusters (s : State) (d : Nat) (f : Die → Die) : (s.modDie d f).clusters = s.clusters := rfl
@[simp] theorem State.modDie_time (s : State) (d : Nat) (f : Die → Die) : (s.modDie d f).time = s.time := rfl
@[simp] theorem State.modDie_lq (s : State) (d : Nat) (f : Die → Die) : (s.modDie d f).lq = s.lq := rfl
@[simp] theorem State.modDie_launches (s : State) (d : Nat) (f : Die → Die) : (s.modDie d f).launches = s.launches := rfl
@[simp] theorem State.modDie_ready (s : State) (d : Nat) (f : Die → Die) : (s.modDie d f).ready = s.ready := rfl
@[simp] theorem State.modDie_gangs (s : State) (d : Nat) (f : Die → Die) : (s.modDie d f).gangs = s.gangs := rfl
@[simp] theorem State.modDie_conts (s : State) (d : Nat) (f : Die → Die) : (s.modDie d f).conts = s.conts := rfl
@[simp] theorem State.modDie_tripCount (s : State) (d : Nat) (f : Die → Die) : (s.modDie d f).tripCount = s.tripCount := rfl
@[simp] theorem State.modDie_racestat (s : State) (d : Nat) (f : Die → Die) : (s.modDie d f).racestat = s.racestat := rfl
@[simp] theorem State.modDie_spilled (s : State) (d : Nat) (f : Die → Die) : (s.modDie d f).spilled = s.spilled := rfl
@[simp] theorem State.modDie_rels (s : State) (d : Nat) (f : Die → Die) : (s.modDie d f).rels = s.rels := rfl
@[simp] theorem State.modDie_jcts (s : State) (d : Nat) (f : Die → Die) : (s.modDie d f).jcts = s.jcts := rfl
@[simp] theorem State.modDie_bars (s : State) (d : Nat) (f : Die → Die) : (s.modDie d f).bars = s.bars := rfl
@[simp] theorem State.modDie_meets (s : State) (d : Nat) (f : Die → Die) : (s.modDie d f).meets = s.meets := rfl
@[simp] theorem State.modDie_oldMeets (s : State) (d : Nat) (f : Die → Die) : (s.modDie d f).oldMeets = s.oldMeets := rfl
@[simp] theorem State.modDie_farProxies (s : State) (d : Nat) (f : Die → Die) : (s.modDie d f).farProxies = s.farProxies := rfl
@[simp] theorem State.modDie_hostClocks (s : State) (d : Nat) (f : Die → Die) : (s.modDie d f).hostClocks = s.hostClocks := rfl
@[simp] theorem State.modDie_hostValues (s : State) (d : Nat) (f : Die → Die) : (s.modDie d f).hostValues = s.hostValues := rfl
@[simp] theorem State.modDie_hostPend (s : State) (d : Nat) (f : Die → Die) : (s.modDie d f).hostPend = s.hostPend := rfl
@[simp] theorem State.modDie_hostFence (s : State) (d : Nat) (f : Die → Die) : (s.modDie d f).hostFence = s.hostFence := rfl
@[simp] theorem State.modDie_images (s : State) (d : Nat) (f : Die → Die) : (s.modDie d f).images = s.images := rfl
@[simp] theorem State.modDie_imageSeq (s : State) (d : Nat) (f : Die → Die) : (s.modDie d f).imageSeq = s.imageSeq := rfl
@[simp] theorem State.modDie_reloc (s : State) (d : Nat) (f : Die → Die) : (s.modDie d f).reloc = s.reloc := rfl
@[simp] theorem State.modDie_rmbase (s : State) (d : Nat) (f : Die → Die) : (s.modDie d f).rmbase = s.rmbase := rfl
@[simp] theorem State.modDie_rmnode (s : State) (d : Nat) (f : Die → Die) : (s.modDie d f).rmnode = s.rmnode := rfl
@[simp] theorem State.modDie_conns (s : State) (d : Nat) (f : Die → Die) : (s.modDie d f).conns = s.conns := rfl
@[simp] theorem State.modDie_requests (s : State) (d : Nat) (f : Die → Die) : (s.modDie d f).requests = s.requests := rfl
@[simp] theorem State.modDie_outbox (s : State) (d : Nat) (f : Die → Die) : (s.modDie d f).outbox = s.outbox := rfl
@[simp] theorem State.modDie_ethDropped (s : State) (d : Nat) (f : Die → Die) : (s.modDie d f).ethDropped = s.ethDropped := rfl
@[simp] theorem State.modDie_portctl (s : State) (d : Nat) (f : Die → Die) : (s.modDie d f).portctl = s.portctl := rfl
@[simp] theorem State.modDie_portctx (s : State) (d : Nat) (f : Die → Die) : (s.modDie d f).portctx = s.portctx := rfl
@[simp] theorem State.modDie_portOut (s : State) (d : Nat) (f : Die → Die) : (s.modDie d f).portOut = s.portOut := rfl
@[simp] theorem State.modDie_powerHigh (s : State) (d : Nat) (f : Die → Die) : (s.modDie d f).powerHigh = s.powerHigh := rfl
@[simp] theorem State.modDie_powerFrom (s : State) (d : Nat) (f : Die → Die) : (s.modDie d f).powerFrom = s.powerFrom := rfl
@[simp] theorem State.modDie_powerLow (s : State) (d : Nat) (f : Die → Die) : (s.modDie d f).powerLow = s.powerLow := rfl
@[simp] theorem State.modDie_tripped (s : State) (d : Nat) (f : Die → Die) : (s.modDie d f).tripped = s.tripped := rfl
@[simp] theorem State.modDie_cxlDown (s : State) (d : Nat) (f : Die → Die) : (s.modDie d f).cxlDown = s.cxlDown := rfl
@[simp] theorem State.modDie_ethDown (s : State) (d : Nat) (f : Die → Die) : (s.modDie d f).ethDown = s.ethDown := rfl
@[simp] theorem State.modDie_testing (s : State) (d : Nat) (f : Die → Die) : (s.modDie d f).testing = s.testing := rfl
@[simp] theorem State.modDie_transients (s : State) (d : Nat) (f : Die → Die) : (s.modDie d f).transients = s.transients := rfl
@[simp] theorem State.modDie_booted (s : State) (d : Nat) (f : Die → Die) : (s.modDie d f).booted = s.booted := rfl
@[simp] theorem State.modDie_testFroze (s : State) (d : Nat) (f : Die → Die) : (s.modDie d f).testFroze = s.testFroze := rfl
@[simp] theorem State.modDie_gangHalts (s : State) (d : Nat) (f : Die → Die) : (s.modDie d f).gangHalts = s.gangHalts := rfl
@[simp] theorem State.modDie_hostMap (s : State) (d : Nat) (f : Die → Die) : (s.modDie d f).hostMap = s.hostMap := rfl
@[simp] theorem State.modDie_displaced (s : State) (d : Nat) (f : Die → Die) : (s.modDie d f).displaced = s.displaced := rfl
@[simp] theorem State.modDie_reports (s : State) (d : Nat) (f : Die → Die) : (s.modDie d f).reports = s.reports := rfl

@[simp] theorem State.modCluster_cur (s : State) (n : Nat) (f : Cluster → Cluster) : (s.modCluster n f).cur = s.cur := rfl
@[simp] theorem State.modCluster_schedule (s : State) (n : Nat) (f : Cluster → Cluster) : (s.modCluster n f).schedule = s.schedule := rfl
@[simp] theorem State.modCluster_slow (s : State) (n : Nat) (f : Cluster → Cluster) : (s.modCluster n f).slow = s.slow := rfl
@[simp] theorem State.modCluster_tick (s : State) (n : Nat) (f : Cluster → Cluster) : (s.modCluster n f).tick = s.tick := rfl
@[simp] theorem State.modCluster_nextId (s : State) (n : Nat) (f : Cluster → Cluster) : (s.modCluster n f).nextId = s.nextId := rfl
@[simp] theorem State.modCluster_mem (s : State) (n : Nat) (f : Cluster → Cluster) : (s.modCluster n f).mem = s.mem := rfl
@[simp] theorem State.modCluster_poison (s : State) (n : Nat) (f : Cluster → Cluster) : (s.modCluster n f).poison = s.poison := rfl
@[simp] theorem State.modCluster_cores (s : State) (n : Nat) (f : Cluster → Cluster) : (s.modCluster n f).cores = s.cores := rfl
@[simp] theorem State.modCluster_dies (s : State) (n : Nat) (f : Cluster → Cluster) : (s.modCluster n f).dies = s.dies := rfl
@[simp] theorem State.modCluster_time (s : State) (n : Nat) (f : Cluster → Cluster) : (s.modCluster n f).time = s.time := rfl
@[simp] theorem State.modCluster_lq (s : State) (n : Nat) (f : Cluster → Cluster) : (s.modCluster n f).lq = s.lq := rfl
@[simp] theorem State.modCluster_launches (s : State) (n : Nat) (f : Cluster → Cluster) : (s.modCluster n f).launches = s.launches := rfl
@[simp] theorem State.modCluster_ready (s : State) (n : Nat) (f : Cluster → Cluster) : (s.modCluster n f).ready = s.ready := rfl
@[simp] theorem State.modCluster_gangs (s : State) (n : Nat) (f : Cluster → Cluster) : (s.modCluster n f).gangs = s.gangs := rfl
@[simp] theorem State.modCluster_conts (s : State) (n : Nat) (f : Cluster → Cluster) : (s.modCluster n f).conts = s.conts := rfl
@[simp] theorem State.modCluster_tripCount (s : State) (n : Nat) (f : Cluster → Cluster) : (s.modCluster n f).tripCount = s.tripCount := rfl
@[simp] theorem State.modCluster_racestat (s : State) (n : Nat) (f : Cluster → Cluster) : (s.modCluster n f).racestat = s.racestat := rfl
@[simp] theorem State.modCluster_spilled (s : State) (n : Nat) (f : Cluster → Cluster) : (s.modCluster n f).spilled = s.spilled := rfl
@[simp] theorem State.modCluster_rels (s : State) (n : Nat) (f : Cluster → Cluster) : (s.modCluster n f).rels = s.rels := rfl
@[simp] theorem State.modCluster_jcts (s : State) (n : Nat) (f : Cluster → Cluster) : (s.modCluster n f).jcts = s.jcts := rfl
@[simp] theorem State.modCluster_bars (s : State) (n : Nat) (f : Cluster → Cluster) : (s.modCluster n f).bars = s.bars := rfl
@[simp] theorem State.modCluster_meets (s : State) (n : Nat) (f : Cluster → Cluster) : (s.modCluster n f).meets = s.meets := rfl
@[simp] theorem State.modCluster_oldMeets (s : State) (n : Nat) (f : Cluster → Cluster) : (s.modCluster n f).oldMeets = s.oldMeets := rfl
@[simp] theorem State.modCluster_farProxies (s : State) (n : Nat) (f : Cluster → Cluster) : (s.modCluster n f).farProxies = s.farProxies := rfl
@[simp] theorem State.modCluster_hostClocks (s : State) (n : Nat) (f : Cluster → Cluster) : (s.modCluster n f).hostClocks = s.hostClocks := rfl
@[simp] theorem State.modCluster_hostValues (s : State) (n : Nat) (f : Cluster → Cluster) : (s.modCluster n f).hostValues = s.hostValues := rfl
@[simp] theorem State.modCluster_hostPend (s : State) (n : Nat) (f : Cluster → Cluster) : (s.modCluster n f).hostPend = s.hostPend := rfl
@[simp] theorem State.modCluster_hostFence (s : State) (n : Nat) (f : Cluster → Cluster) : (s.modCluster n f).hostFence = s.hostFence := rfl
@[simp] theorem State.modCluster_images (s : State) (n : Nat) (f : Cluster → Cluster) : (s.modCluster n f).images = s.images := rfl
@[simp] theorem State.modCluster_imageSeq (s : State) (n : Nat) (f : Cluster → Cluster) : (s.modCluster n f).imageSeq = s.imageSeq := rfl
@[simp] theorem State.modCluster_reloc (s : State) (n : Nat) (f : Cluster → Cluster) : (s.modCluster n f).reloc = s.reloc := rfl
@[simp] theorem State.modCluster_rmbase (s : State) (n : Nat) (f : Cluster → Cluster) : (s.modCluster n f).rmbase = s.rmbase := rfl
@[simp] theorem State.modCluster_rmnode (s : State) (n : Nat) (f : Cluster → Cluster) : (s.modCluster n f).rmnode = s.rmnode := rfl
@[simp] theorem State.modCluster_conns (s : State) (n : Nat) (f : Cluster → Cluster) : (s.modCluster n f).conns = s.conns := rfl
@[simp] theorem State.modCluster_requests (s : State) (n : Nat) (f : Cluster → Cluster) : (s.modCluster n f).requests = s.requests := rfl
@[simp] theorem State.modCluster_outbox (s : State) (n : Nat) (f : Cluster → Cluster) : (s.modCluster n f).outbox = s.outbox := rfl
@[simp] theorem State.modCluster_ethDropped (s : State) (n : Nat) (f : Cluster → Cluster) : (s.modCluster n f).ethDropped = s.ethDropped := rfl
@[simp] theorem State.modCluster_portctl (s : State) (n : Nat) (f : Cluster → Cluster) : (s.modCluster n f).portctl = s.portctl := rfl
@[simp] theorem State.modCluster_portctx (s : State) (n : Nat) (f : Cluster → Cluster) : (s.modCluster n f).portctx = s.portctx := rfl
@[simp] theorem State.modCluster_portOut (s : State) (n : Nat) (f : Cluster → Cluster) : (s.modCluster n f).portOut = s.portOut := rfl
@[simp] theorem State.modCluster_powerHigh (s : State) (n : Nat) (f : Cluster → Cluster) : (s.modCluster n f).powerHigh = s.powerHigh := rfl
@[simp] theorem State.modCluster_powerFrom (s : State) (n : Nat) (f : Cluster → Cluster) : (s.modCluster n f).powerFrom = s.powerFrom := rfl
@[simp] theorem State.modCluster_powerLow (s : State) (n : Nat) (f : Cluster → Cluster) : (s.modCluster n f).powerLow = s.powerLow := rfl
@[simp] theorem State.modCluster_tripped (s : State) (n : Nat) (f : Cluster → Cluster) : (s.modCluster n f).tripped = s.tripped := rfl
@[simp] theorem State.modCluster_cxlDown (s : State) (n : Nat) (f : Cluster → Cluster) : (s.modCluster n f).cxlDown = s.cxlDown := rfl
@[simp] theorem State.modCluster_ethDown (s : State) (n : Nat) (f : Cluster → Cluster) : (s.modCluster n f).ethDown = s.ethDown := rfl
@[simp] theorem State.modCluster_testing (s : State) (n : Nat) (f : Cluster → Cluster) : (s.modCluster n f).testing = s.testing := rfl
@[simp] theorem State.modCluster_transients (s : State) (n : Nat) (f : Cluster → Cluster) : (s.modCluster n f).transients = s.transients := rfl
@[simp] theorem State.modCluster_booted (s : State) (n : Nat) (f : Cluster → Cluster) : (s.modCluster n f).booted = s.booted := rfl
@[simp] theorem State.modCluster_testFroze (s : State) (n : Nat) (f : Cluster → Cluster) : (s.modCluster n f).testFroze = s.testFroze := rfl
@[simp] theorem State.modCluster_gangHalts (s : State) (n : Nat) (f : Cluster → Cluster) : (s.modCluster n f).gangHalts = s.gangHalts := rfl
@[simp] theorem State.modCluster_hostMap (s : State) (n : Nat) (f : Cluster → Cluster) : (s.modCluster n f).hostMap = s.hostMap := rfl
@[simp] theorem State.modCluster_displaced (s : State) (n : Nat) (f : Cluster → Cluster) : (s.modCluster n f).displaced = s.displaced := rfl
@[simp] theorem State.modCluster_reports (s : State) (n : Nat) (f : Cluster → Cluster) : (s.modCluster n f).reports = s.reports := rfl

/-! Updates of a core. -/

@[simp] theorem Core.setTrack_lane (k : Core) (n : Nat) (t : Track) : (k.setTrack n t).lane = k.lane := rfl
@[simp] theorem Core.setTrack_pool (k : Core) (n : Nat) (t : Track) : (k.setTrack n t).pool = k.pool := rfl
@[simp] theorem Core.setTrack_ctx (k : Core) (n : Nat) (t : Track) : (k.setTrack n t).ctx = k.ctx := rfl
@[simp] theorem Core.setTrack_lastCtx (k : Core) (n : Nat) (t : Track) : (k.setTrack n t).lastCtx = k.lastCtx := rfl
@[simp] theorem Core.setTrack_cross (k : Core) (n : Nat) (t : Track) : (k.setTrack n t).cross = k.cross := rfl
@[simp] theorem Core.setTrack_crossRels (k : Core) (n : Nat) (t : Track) : (k.setTrack n t).crossRels = k.crossRels := rfl
@[simp] theorem Core.setTrack_grid (k : Core) (n : Nat) (t : Track) : (k.setTrack n t).grid = k.grid := rfl
@[simp] theorem Core.setTrack_gq (k : Core) (n : Nat) (t : Track) : (k.setTrack n t).gq = k.gq := rfl
@[simp] theorem Core.setTrack_incoming (k : Core) (n : Nat) (t : Track) : (k.setTrack n t).incoming = k.incoming := rfl
@[simp] theorem Core.setTrack_cbk (k : Core) (n : Nat) (t : Track) : (k.setTrack n t).cbk = k.cbk := rfl
@[simp] theorem Core.setTrack_cbkCmds (k : Core) (n : Nat) (t : Track) : (k.setTrack n t).cbkCmds = k.cbkCmds := rfl
@[simp] theorem Core.setTrack_streams (k : Core) (n : Nat) (t : Track) : (k.setTrack n t).streams = k.streams := rfl
@[simp] theorem Core.setTrack_chans (k : Core) (n : Nat) (t : Track) : (k.setTrack n t).chans = k.chans := rfl
@[simp] theorem Core.setTrack_energy (k : Core) (n : Nat) (t : Track) : (k.setTrack n t).energy = k.energy := rfl
@[simp] theorem Core.setTrack_bytes6 (k : Core) (n : Nat) (t : Track) : (k.setTrack n t).bytes6 = k.bytes6 := rfl
@[simp] theorem Core.setTrack_evc (k : Core) (n : Nat) (t : Track) : (k.setTrack n t).evc = k.evc := rfl
@[simp] theorem Core.setTrack_stopped (k : Core) (n : Nat) (t : Track) : (k.setTrack n t).stopped = k.stopped := rfl
@[simp] theorem Core.setTrack_frozen (k : Core) (n : Nat) (t : Track) : (k.setTrack n t).frozen = k.frozen := rfl
@[simp] theorem Core.setTrack_departed (k : Core) (n : Nat) (t : Track) : (k.setTrack n t).departed = k.departed := rfl
@[simp] theorem Core.setTrack_freezeNo (k : Core) (n : Nat) (t : Track) : (k.setTrack n t).freezeNo = k.freezeNo := rfl
@[simp] theorem Core.setTrack_freezeTime (k : Core) (n : Nat) (t : Track) : (k.setTrack n t).freezeTime = k.freezeTime := rfl
@[simp] theorem Core.setTrack_freezeImages (k : Core) (n : Nat) (t : Track) : (k.setTrack n t).freezeImages = k.freezeImages := rfl
@[simp] theorem Core.setTrack_sealed (k : Core) (n : Nat) (t : Track) : (k.setTrack n t).sealed = k.sealed := rfl
@[simp] theorem Core.setTrack_restored (k : Core) (n : Nat) (t : Track) : (k.setTrack n t).restored = k.restored := rfl
@[simp] theorem Core.setTrack_loadNo (k : Core) (n : Nat) (t : Track) : (k.setTrack n t).loadNo = k.loadNo := rfl
@[simp] theorem Core.setTrack_holds (k : Core) (n : Nat) (t : Track) : (k.setTrack n t).holds = k.holds := rfl
@[simp] theorem Core.setTrack_dirtyBlocks (k : Core) (n : Nat) (t : Track) : (k.setTrack n t).dirtyBlocks = k.dirtyBlocks := rfl
@[simp] theorem Core.setTrack_dirtyRows (k : Core) (n : Nat) (t : Track) : (k.setTrack n t).dirtyRows = k.dirtyRows := rfl
@[simp] theorem Core.setTrack_reference (k : Core) (n : Nat) (t : Track) : (k.setTrack n t).reference = k.reference := rfl
@[simp] theorem Core.setTrack_tlb (k : Core) (n : Nat) (t : Track) : (k.setTrack n t).tlb = k.tlb := rfl
@[simp] theorem Core.setTrack_dir (k : Core) (n : Nat) (t : Track) : (k.setTrack n t).dir = k.dir := rfl
@[simp] theorem Core.setTrack_dbg (k : Core) (n : Nat) (t : Track) : (k.setTrack n t).dbg = k.dbg := rfl
@[simp] theorem Core.setTrack_smphead (k : Core) (n : Nat) (t : Track) : (k.setTrack n t).smphead = k.smphead := rfl
@[simp] theorem Core.setTrack_lag (k : Core) (n : Nat) (t : Track) : (k.setTrack n t).lag = k.lag := rfl
@[simp] theorem Core.setTrack_lagLost (k : Core) (n : Nat) (t : Track) : (k.setTrack n t).lagLost = k.lagLost := rfl
@[simp] theorem Core.setTrack_banksFailed (k : Core) (n : Nat) (t : Track) : (k.setTrack n t).banksFailed = k.banksFailed := rfl
@[simp] theorem Core.setTrack_issued (k : Core) (n : Nat) (t : Track) : (k.setTrack n t).issued = k.issued := rfl
@[simp] theorem Core.setTrack_anchors (k : Core) (n : Nat) (t : Track) : (k.setTrack n t).anchors = k.anchors := rfl
@[simp] theorem Core.setTrack_removed (k : Core) (n : Nat) (t : Track) : (k.setTrack n t).removed = k.removed := rfl
@[simp] theorem Core.setTrack_debugWait (k : Core) (n : Nat) (t : Track) : (k.setTrack n t).debugWait = k.debugWait := rfl
@[simp] theorem Core.setTrack_upsets (k : Core) (n : Nat) (t : Track) : (k.setTrack n t).upsets = k.upsets := rfl
@[simp] theorem Core.count_tracks (k : Core) (code n : Nat) : (k.count code n).tracks = k.tracks := by
  unfold Core.count; split <;> rfl
@[simp] theorem Core.count_lane (k : Core) (code n : Nat) : (k.count code n).lane = k.lane := by
  unfold Core.count; split <;> rfl
@[simp] theorem Core.count_pool (k : Core) (code n : Nat) : (k.count code n).pool = k.pool := by
  unfold Core.count; split <;> rfl
@[simp] theorem Core.count_ctx (k : Core) (code n : Nat) : (k.count code n).ctx = k.ctx := by
  unfold Core.count; split <;> rfl
@[simp] theorem Core.count_lastCtx (k : Core) (code n : Nat) : (k.count code n).lastCtx = k.lastCtx := by
  unfold Core.count; split <;> rfl
@[simp] theorem Core.count_cross (k : Core) (code n : Nat) : (k.count code n).cross = k.cross := by
  unfold Core.count; split <;> rfl
@[simp] theorem Core.count_crossRels (k : Core) (code n : Nat) : (k.count code n).crossRels = k.crossRels := by
  unfold Core.count; split <;> rfl
@[simp] theorem Core.count_grid (k : Core) (code n : Nat) : (k.count code n).grid = k.grid := by
  unfold Core.count; split <;> rfl
@[simp] theorem Core.count_gq (k : Core) (code n : Nat) : (k.count code n).gq = k.gq := by
  unfold Core.count; split <;> rfl
@[simp] theorem Core.count_incoming (k : Core) (code n : Nat) : (k.count code n).incoming = k.incoming := by
  unfold Core.count; split <;> rfl
@[simp] theorem Core.count_cbk (k : Core) (code n : Nat) : (k.count code n).cbk = k.cbk := by
  unfold Core.count; split <;> rfl
@[simp] theorem Core.count_cbkCmds (k : Core) (code n : Nat) : (k.count code n).cbkCmds = k.cbkCmds := by
  unfold Core.count; split <;> rfl
@[simp] theorem Core.count_streams (k : Core) (code n : Nat) : (k.count code n).streams = k.streams := by
  unfold Core.count; split <;> rfl
@[simp] theorem Core.count_chans (k : Core) (code n : Nat) : (k.count code n).chans = k.chans := by
  unfold Core.count; split <;> rfl
@[simp] theorem Core.count_energy (k : Core) (code n : Nat) : (k.count code n).energy = k.energy := by
  unfold Core.count; split <;> rfl
@[simp] theorem Core.count_bytes6 (k : Core) (code n : Nat) : (k.count code n).bytes6 = k.bytes6 := by
  unfold Core.count; split <;> rfl
@[simp] theorem Core.count_stopped (k : Core) (code n : Nat) : (k.count code n).stopped = k.stopped := by
  unfold Core.count; split <;> rfl
@[simp] theorem Core.count_frozen (k : Core) (code n : Nat) : (k.count code n).frozen = k.frozen := by
  unfold Core.count; split <;> rfl
@[simp] theorem Core.count_departed (k : Core) (code n : Nat) : (k.count code n).departed = k.departed := by
  unfold Core.count; split <;> rfl
@[simp] theorem Core.count_freezeNo (k : Core) (code n : Nat) : (k.count code n).freezeNo = k.freezeNo := by
  unfold Core.count; split <;> rfl
@[simp] theorem Core.count_freezeTime (k : Core) (code n : Nat) : (k.count code n).freezeTime = k.freezeTime := by
  unfold Core.count; split <;> rfl
@[simp] theorem Core.count_freezeImages (k : Core) (code n : Nat) : (k.count code n).freezeImages = k.freezeImages := by
  unfold Core.count; split <;> rfl
@[simp] theorem Core.count_sealed (k : Core) (code n : Nat) : (k.count code n).sealed = k.sealed := by
  unfold Core.count; split <;> rfl
@[simp] theorem Core.count_restored (k : Core) (code n : Nat) : (k.count code n).restored = k.restored := by
  unfold Core.count; split <;> rfl
@[simp] theorem Core.count_loadNo (k : Core) (code n : Nat) : (k.count code n).loadNo = k.loadNo := by
  unfold Core.count; split <;> rfl
@[simp] theorem Core.count_holds (k : Core) (code n : Nat) : (k.count code n).holds = k.holds := by
  unfold Core.count; split <;> rfl
@[simp] theorem Core.count_dirtyBlocks (k : Core) (code n : Nat) : (k.count code n).dirtyBlocks = k.dirtyBlocks := by
  unfold Core.count; split <;> rfl
@[simp] theorem Core.count_dirtyRows (k : Core) (code n : Nat) : (k.count code n).dirtyRows = k.dirtyRows := by
  unfold Core.count; split <;> rfl
@[simp] theorem Core.count_reference (k : Core) (code n : Nat) : (k.count code n).reference = k.reference := by
  unfold Core.count; split <;> rfl
@[simp] theorem Core.count_tlb (k : Core) (code n : Nat) : (k.count code n).tlb = k.tlb := by
  unfold Core.count; split <;> rfl
@[simp] theorem Core.count_dir (k : Core) (code n : Nat) : (k.count code n).dir = k.dir := by
  unfold Core.count; split <;> rfl
@[simp] theorem Core.count_dbg (k : Core) (code n : Nat) : (k.count code n).dbg = k.dbg := by
  unfold Core.count; split <;> rfl
@[simp] theorem Core.count_smphead (k : Core) (code n : Nat) : (k.count code n).smphead = k.smphead := by
  unfold Core.count; split <;> rfl
@[simp] theorem Core.count_lag (k : Core) (code n : Nat) : (k.count code n).lag = k.lag := by
  unfold Core.count; split <;> rfl
@[simp] theorem Core.count_lagLost (k : Core) (code n : Nat) : (k.count code n).lagLost = k.lagLost := by
  unfold Core.count; split <;> rfl
@[simp] theorem Core.count_banksFailed (k : Core) (code n : Nat) : (k.count code n).banksFailed = k.banksFailed := by
  unfold Core.count; split <;> rfl
@[simp] theorem Core.count_issued (k : Core) (code n : Nat) : (k.count code n).issued = k.issued := by
  unfold Core.count; split <;> rfl
@[simp] theorem Core.count_anchors (k : Core) (code n : Nat) : (k.count code n).anchors = k.anchors := by
  unfold Core.count; split <;> rfl
@[simp] theorem Core.count_removed (k : Core) (code n : Nat) : (k.count code n).removed = k.removed := by
  unfold Core.count; split <;> rfl
@[simp] theorem Core.count_debugWait (k : Core) (code n : Nat) : (k.count code n).debugWait = k.debugWait := by
  unfold Core.count; split <;> rfl
@[simp] theorem Core.count_upsets (k : Core) (code n : Nat) : (k.count code n).upsets = k.upsets := by
  unfold Core.count; split <;> rfl

/-! Updates of a track. -/

@[simp] theorem Track.setX_pc (t : Track) (r : Reg) (v : Word) : (t.setX r v).pc = t.pc := by
  unfold Track.setX; split <;> rfl
@[simp] theorem Track.setX_m (t : Track) (r : Reg) (v : Word) : (t.setX r v).m = t.m := by
  unfold Track.setX; split <;> rfl
@[simp] theorem Track.setX_fq (t : Track) (r : Reg) (v : Word) : (t.setX r v).fq = t.fq := by
  unfold Track.setX; split <;> rfl
@[simp] theorem Track.setX_vl (t : Track) (r : Reg) (v : Word) : (t.setX r v).vl = t.vl := by
  unfold Track.setX; split <;> rfl
@[simp] theorem Track.setX_vlmax (t : Track) (r : Reg) (v : Word) : (t.setX r v).vlmax = t.vlmax := by
  unfold Track.setX; split <;> rfl
@[simp] theorem Track.setX_sbase (t : Track) (r : Reg) (v : Word) : (t.setX r v).sbase = t.sbase := by
  unfold Track.setX; split <;> rfl
@[simp] theorem Track.setX_held (t : Track) (r : Reg) (v : Word) : (t.setX r v).held = t.held := by
  unfold Track.setX; split <;> rfl
@[simp] theorem Track.setX_srseed (t : Track) (r : Reg) (v : Word) : (t.setX r v).srseed = t.srseed := by
  unfold Track.setX; split <;> rfl
@[simp] theorem Track.setX_arith (t : Track) (r : Reg) (v : Word) : (t.setX r v).arith = t.arith := by
  unfold Track.setX; split <;> rfl
@[simp] theorem Track.setX_prio (t : Track) (r : Reg) (v : Word) : (t.setX r v).prio = t.prio := by
  unfold Track.setX; split <;> rfl
@[simp] theorem Track.setX_band (t : Track) (r : Reg) (v : Word) : (t.setX r v).band = t.band := by
  unfold Track.setX; split <;> rfl
@[simp] theorem Track.setX_bands (t : Track) (r : Reg) (v : Word) : (t.setX r v).bands = t.bands := by
  unfold Track.setX; split <;> rfl
@[simp] theorem Track.setX_super (t : Track) (r : Reg) (v : Word) : (t.setX r v).super = t.super := by
  unfold Track.setX; split <;> rfl
@[simp] theorem Track.setX_tcause (t : Track) (r : Reg) (v : Word) : (t.setX r v).tcause = t.tcause := by
  unfold Track.setX; split <;> rfl
@[simp] theorem Track.setX_taddr (t : Track) (r : Reg) (v : Word) : (t.setX r v).taddr = t.taddr := by
  unfold Track.setX; split <;> rfl
@[simp] theorem Track.setX_tepc (t : Track) (r : Reg) (v : Word) : (t.setX r v).tepc = t.tepc := by
  unfold Track.setX; split <;> rfl
@[simp] theorem Track.setX_tfpc (t : Track) (r : Reg) (v : Word) : (t.setX r v).tfpc = t.tfpc := by
  unfold Track.setX; split <;> rfl
@[simp] theorem Track.setX_telem (t : Track) (r : Reg) (v : Word) : (t.setX r v).telem = t.telem := by
  unfold Track.setX; split <;> rfl
@[simp] theorem Track.setX_level (t : Track) (r : Reg) (v : Word) : (t.setX r v).level = t.level := by
  unfold Track.setX; split <;> rfl
@[simp] theorem Track.setX_acked (t : Track) (r : Reg) (v : Word) : (t.setX r v).acked = t.acked := by
  unfold Track.setX; split <;> rfl
@[simp] theorem Track.setX_pmode (t : Track) (r : Reg) (v : Word) : (t.setX r v).pmode = t.pmode := by
  unfold Track.setX; split <;> rfl
@[simp] theorem Track.setX_tvec (t : Track) (r : Reg) (v : Word) : (t.setX r v).tvec = t.tvec := by
  unfold Track.setX; split <;> rfl
@[simp] theorem Track.setX_tstack (t : Track) (r : Reg) (v : Word) : (t.setX r v).tstack = t.tstack := by
  unfold Track.setX; split <;> rfl
@[simp] theorem Track.setX_tsave (t : Track) (r : Reg) (v : Word) : (t.setX r v).tsave = t.tsave := by
  unfold Track.setX; split <;> rfl
@[simp] theorem Track.setX_frames (t : Track) (r : Reg) (v : Word) : (t.setX r v).frames = t.frames := by
  unfold Track.setX; split <;> rfl
@[simp] theorem Track.setX_entries (t : Track) (r : Reg) (v : Word) : (t.setX r v).entries = t.entries := by
  unfold Track.setX; split <;> rfl
@[simp] theorem Track.setX_resume (t : Track) (r : Reg) (v : Word) : (t.setX r v).resume = t.resume := by
  unfold Track.setX; split <;> rfl
@[simp] theorem Track.setX_strip (t : Track) (r : Reg) (v : Word) : (t.setX r v).strip = t.strip := by
  unfold Track.setX; split <;> rfl
@[simp] theorem Track.setX_trip (t : Track) (r : Reg) (v : Word) : (t.setX r v).trip = t.trip := by
  unfold Track.setX; split <;> rfl
@[simp] theorem Track.setX_tripid (t : Track) (r : Reg) (v : Word) : (t.setX r v).tripid = t.tripid := by
  unfold Track.setX; split <;> rfl
@[simp] theorem Track.setX_levelidx (t : Track) (r : Reg) (v : Word) : (t.setX r v).levelidx = t.levelidx := by
  unfold Track.setX; split <;> rfl
@[simp] theorem Track.setX_ctxid (t : Track) (r : Reg) (v : Word) : (t.setX r v).ctxid = t.ctxid := by
  unfold Track.setX; split <;> rfl
@[simp] theorem Track.setX_desc (t : Track) (r : Reg) (v : Word) : (t.setX r v).desc = t.desc := by
  unfold Track.setX; split <;> rfl
@[simp] theorem Track.setX_cont (t : Track) (r : Reg) (v : Word) : (t.setX r v).cont = t.cont := by
  unfold Track.setX; split <;> rfl
@[simp] theorem Track.setX_wait (t : Track) (r : Reg) (v : Word) : (t.setX r v).wait = t.wait := by
  unfold Track.setX; split <;> rfl
@[simp] theorem Track.setX_pending (t : Track) (r : Reg) (v : Word) : (t.setX r v).pending = t.pending := by
  unfold Track.setX; split <;> rfl
@[simp] theorem Track.setX_records (t : Track) (r : Reg) (v : Word) : (t.setX r v).records = t.records := by
  unfold Track.setX; split <;> rfl
@[simp] theorem Track.setX_opaTraps (t : Track) (r : Reg) (v : Word) : (t.setX r v).opaTraps = t.opaTraps := by
  unfold Track.setX; split <;> rfl
@[simp] theorem Track.setX_barriers (t : Track) (r : Reg) (v : Word) : (t.setX r v).barriers = t.barriers := by
  unfold Track.setX; split <;> rfl
@[simp] theorem Track.setX_launches (t : Track) (r : Reg) (v : Word) : (t.setX r v).launches = t.launches := by
  unfold Track.setX; split <;> rfl
@[simp] theorem Track.setX_escalated (t : Track) (r : Reg) (v : Word) : (t.setX r v).escalated = t.escalated := by
  unfold Track.setX; split <;> rfl
@[simp] theorem Track.setX_clock (t : Track) (r : Reg) (v : Word) : (t.setX r v).clock = t.clock := by
  unfold Track.setX; split <;> rfl
@[simp] theorem Track.setX_fenceRel (t : Track) (r : Reg) (v : Word) : (t.setX r v).fenceRel = t.fenceRel := by
  unfold Track.setX; split <;> rfl
@[simp] theorem Track.setX_pendAcq (t : Track) (r : Reg) (v : Word) : (t.setX r v).pendAcq = t.pendAcq := by
  unfold Track.setX; split <;> rfl
@[simp] theorem Track.setX_ended (t : Track) (r : Reg) (v : Word) : (t.setX r v).ended = t.ended := by
  unfold Track.setX; split <;> rfl
@[simp] theorem Track.setX_inline (t : Track) (r : Reg) (v : Word) : (t.setX r v).inline = t.inline := by
  unfold Track.setX; split <;> rfl
@[simp] theorem Track.setX_bytes5 (t : Track) (r : Reg) (v : Word) : (t.setX r v).bytes5 = t.bytes5 := by
  unfold Track.setX; split <;> rfl
@[simp] theorem Track.setX_awaited (t : Track) (r : Reg) (v : Word) : (t.setX r v).awaited = t.awaited := by
  unfold Track.setX; split <;> rfl
@[simp] theorem Track.setX_left (t : Track) (r : Reg) (v : Word) : (t.setX r v).left = t.left := by
  unfold Track.setX; split <;> rfl
@[simp] theorem Track.setX_region (t : Track) (r : Reg) (v : Word) : (t.setX r v).region = t.region := by
  unfold Track.setX; split <;> rfl
@[simp] theorem Track.setX_leftNotes (t : Track) (r : Reg) (v : Word) : (t.setX r v).leftNotes = t.leftNotes := by
  unfold Track.setX; split <;> rfl
@[simp] theorem Track.setX_graph (t : Track) (r : Reg) (v : Word) : (t.setX r v).graph = t.graph := by
  unfold Track.setX; split <;> rfl
@[simp] theorem Track.setX_awaitedElem (t : Track) (r : Reg) (v : Word) : (t.setX r v).awaitedElem = t.awaitedElem := by
  unfold Track.setX; split <;> rfl
@[simp] theorem Track.setX_issuedAt (t : Track) (r : Reg) (v : Word) : (t.setX r v).issuedAt = t.issuedAt := by
  unfold Track.setX; split <;> rfl
@[simp] theorem Track.setX_halted (t : Track) (r : Reg) (v : Word) : (t.setX r v).halted = t.halted := by
  unfold Track.setX; split <;> rfl
@[simp] theorem Track.setX_haltReq (t : Track) (r : Reg) (v : Word) : (t.setX r v).haltReq = t.haltReq := by
  unfold Track.setX; split <;> rfl
@[simp] theorem Track.setX_haltWhy (t : Track) (r : Reg) (v : Word) : (t.setX r v).haltWhy = t.haltWhy := by
  unfold Track.setX; split <;> rfl
@[simp] theorem Track.setX_why (t : Track) (r : Reg) (v : Word) : (t.setX r v).why = t.why := by
  unfold Track.setX; split <;> rfl
@[simp] theorem Track.setX_unit (t : Track) (r : Reg) (v : Word) : (t.setX r v).unit = t.unit := by
  unfold Track.setX; split <;> rfl
@[simp] theorem Track.setX_cancelled (t : Track) (r : Reg) (v : Word) : (t.setX r v).cancelled = t.cancelled := by
  unfold Track.setX; split <;> rfl
@[simp] theorem Track.setX_exempt (t : Track) (r : Reg) (v : Word) : (t.setX r v).exempt = t.exempt := by
  unfold Track.setX; split <;> rfl
@[simp] theorem Track.setX_hitPc (t : Track) (r : Reg) (v : Word) : (t.setX r v).hitPc = t.hitPc := by
  unfold Track.setX; split <;> rfl
@[simp] theorem Track.setX_refused (t : Track) (r : Reg) (v : Word) : (t.setX r v).refused = t.refused := by
  unfold Track.setX; split <;> rfl
@[simp] theorem Track.setX_stepping (t : Track) (r : Reg) (v : Word) : (t.setX r v).stepping = t.stepping := by
  unfold Track.setX; split <;> rfl
@[simp] theorem Track.setX_stepsync (t : Track) (r : Reg) (v : Word) : (t.setX r v).stepsync = t.stepsync := by
  unfold Track.setX; split <;> rfl
@[simp] theorem Track.setX_stepRows (t : Track) (r : Reg) (v : Word) : (t.setX r v).stepRows = t.stepRows := by
  unfold Track.setX; split <;> rfl
@[simp] theorem Track.setX_owed (t : Track) (r : Reg) (v : Word) : (t.setX r v).owed = t.owed := by
  unfold Track.setX; split <;> rfl
@[simp] theorem Track.setX_touched (t : Track) (r : Reg) (v : Word) : (t.setX r v).touched = t.touched := by
  unfold Track.setX; split <;> rfl
@[simp] theorem Track.setM_pc (t : Track) (r : MReg) (v : Mask128) : (t.setM r v).pc = t.pc := by
  unfold Track.setM; split <;> rfl
@[simp] theorem Track.setM_x (t : Track) (r : MReg) (v : Mask128) : (t.setM r v).x = t.x := by
  unfold Track.setM; split <;> rfl
@[simp] theorem Track.setM_fq (t : Track) (r : MReg) (v : Mask128) : (t.setM r v).fq = t.fq := by
  unfold Track.setM; split <;> rfl
@[simp] theorem Track.setM_vl (t : Track) (r : MReg) (v : Mask128) : (t.setM r v).vl = t.vl := by
  unfold Track.setM; split <;> rfl
@[simp] theorem Track.setM_vlmax (t : Track) (r : MReg) (v : Mask128) : (t.setM r v).vlmax = t.vlmax := by
  unfold Track.setM; split <;> rfl
@[simp] theorem Track.setM_sbase (t : Track) (r : MReg) (v : Mask128) : (t.setM r v).sbase = t.sbase := by
  unfold Track.setM; split <;> rfl
@[simp] theorem Track.setM_held (t : Track) (r : MReg) (v : Mask128) : (t.setM r v).held = t.held := by
  unfold Track.setM; split <;> rfl
@[simp] theorem Track.setM_srseed (t : Track) (r : MReg) (v : Mask128) : (t.setM r v).srseed = t.srseed := by
  unfold Track.setM; split <;> rfl
@[simp] theorem Track.setM_arith (t : Track) (r : MReg) (v : Mask128) : (t.setM r v).arith = t.arith := by
  unfold Track.setM; split <;> rfl
@[simp] theorem Track.setM_prio (t : Track) (r : MReg) (v : Mask128) : (t.setM r v).prio = t.prio := by
  unfold Track.setM; split <;> rfl
@[simp] theorem Track.setM_band (t : Track) (r : MReg) (v : Mask128) : (t.setM r v).band = t.band := by
  unfold Track.setM; split <;> rfl
@[simp] theorem Track.setM_bands (t : Track) (r : MReg) (v : Mask128) : (t.setM r v).bands = t.bands := by
  unfold Track.setM; split <;> rfl
@[simp] theorem Track.setM_super (t : Track) (r : MReg) (v : Mask128) : (t.setM r v).super = t.super := by
  unfold Track.setM; split <;> rfl
@[simp] theorem Track.setM_tcause (t : Track) (r : MReg) (v : Mask128) : (t.setM r v).tcause = t.tcause := by
  unfold Track.setM; split <;> rfl
@[simp] theorem Track.setM_taddr (t : Track) (r : MReg) (v : Mask128) : (t.setM r v).taddr = t.taddr := by
  unfold Track.setM; split <;> rfl
@[simp] theorem Track.setM_tepc (t : Track) (r : MReg) (v : Mask128) : (t.setM r v).tepc = t.tepc := by
  unfold Track.setM; split <;> rfl
@[simp] theorem Track.setM_tfpc (t : Track) (r : MReg) (v : Mask128) : (t.setM r v).tfpc = t.tfpc := by
  unfold Track.setM; split <;> rfl
@[simp] theorem Track.setM_telem (t : Track) (r : MReg) (v : Mask128) : (t.setM r v).telem = t.telem := by
  unfold Track.setM; split <;> rfl
@[simp] theorem Track.setM_level (t : Track) (r : MReg) (v : Mask128) : (t.setM r v).level = t.level := by
  unfold Track.setM; split <;> rfl
@[simp] theorem Track.setM_acked (t : Track) (r : MReg) (v : Mask128) : (t.setM r v).acked = t.acked := by
  unfold Track.setM; split <;> rfl
@[simp] theorem Track.setM_pmode (t : Track) (r : MReg) (v : Mask128) : (t.setM r v).pmode = t.pmode := by
  unfold Track.setM; split <;> rfl
@[simp] theorem Track.setM_tvec (t : Track) (r : MReg) (v : Mask128) : (t.setM r v).tvec = t.tvec := by
  unfold Track.setM; split <;> rfl
@[simp] theorem Track.setM_tstack (t : Track) (r : MReg) (v : Mask128) : (t.setM r v).tstack = t.tstack := by
  unfold Track.setM; split <;> rfl
@[simp] theorem Track.setM_tsave (t : Track) (r : MReg) (v : Mask128) : (t.setM r v).tsave = t.tsave := by
  unfold Track.setM; split <;> rfl
@[simp] theorem Track.setM_frames (t : Track) (r : MReg) (v : Mask128) : (t.setM r v).frames = t.frames := by
  unfold Track.setM; split <;> rfl
@[simp] theorem Track.setM_entries (t : Track) (r : MReg) (v : Mask128) : (t.setM r v).entries = t.entries := by
  unfold Track.setM; split <;> rfl
@[simp] theorem Track.setM_resume (t : Track) (r : MReg) (v : Mask128) : (t.setM r v).resume = t.resume := by
  unfold Track.setM; split <;> rfl
@[simp] theorem Track.setM_strip (t : Track) (r : MReg) (v : Mask128) : (t.setM r v).strip = t.strip := by
  unfold Track.setM; split <;> rfl
@[simp] theorem Track.setM_trip (t : Track) (r : MReg) (v : Mask128) : (t.setM r v).trip = t.trip := by
  unfold Track.setM; split <;> rfl
@[simp] theorem Track.setM_tripid (t : Track) (r : MReg) (v : Mask128) : (t.setM r v).tripid = t.tripid := by
  unfold Track.setM; split <;> rfl
@[simp] theorem Track.setM_levelidx (t : Track) (r : MReg) (v : Mask128) : (t.setM r v).levelidx = t.levelidx := by
  unfold Track.setM; split <;> rfl
@[simp] theorem Track.setM_ctxid (t : Track) (r : MReg) (v : Mask128) : (t.setM r v).ctxid = t.ctxid := by
  unfold Track.setM; split <;> rfl
@[simp] theorem Track.setM_desc (t : Track) (r : MReg) (v : Mask128) : (t.setM r v).desc = t.desc := by
  unfold Track.setM; split <;> rfl
@[simp] theorem Track.setM_cont (t : Track) (r : MReg) (v : Mask128) : (t.setM r v).cont = t.cont := by
  unfold Track.setM; split <;> rfl
@[simp] theorem Track.setM_wait (t : Track) (r : MReg) (v : Mask128) : (t.setM r v).wait = t.wait := by
  unfold Track.setM; split <;> rfl
@[simp] theorem Track.setM_pending (t : Track) (r : MReg) (v : Mask128) : (t.setM r v).pending = t.pending := by
  unfold Track.setM; split <;> rfl
@[simp] theorem Track.setM_records (t : Track) (r : MReg) (v : Mask128) : (t.setM r v).records = t.records := by
  unfold Track.setM; split <;> rfl
@[simp] theorem Track.setM_opaTraps (t : Track) (r : MReg) (v : Mask128) : (t.setM r v).opaTraps = t.opaTraps := by
  unfold Track.setM; split <;> rfl
@[simp] theorem Track.setM_barriers (t : Track) (r : MReg) (v : Mask128) : (t.setM r v).barriers = t.barriers := by
  unfold Track.setM; split <;> rfl
@[simp] theorem Track.setM_launches (t : Track) (r : MReg) (v : Mask128) : (t.setM r v).launches = t.launches := by
  unfold Track.setM; split <;> rfl
@[simp] theorem Track.setM_escalated (t : Track) (r : MReg) (v : Mask128) : (t.setM r v).escalated = t.escalated := by
  unfold Track.setM; split <;> rfl
@[simp] theorem Track.setM_clock (t : Track) (r : MReg) (v : Mask128) : (t.setM r v).clock = t.clock := by
  unfold Track.setM; split <;> rfl
@[simp] theorem Track.setM_fenceRel (t : Track) (r : MReg) (v : Mask128) : (t.setM r v).fenceRel = t.fenceRel := by
  unfold Track.setM; split <;> rfl
@[simp] theorem Track.setM_pendAcq (t : Track) (r : MReg) (v : Mask128) : (t.setM r v).pendAcq = t.pendAcq := by
  unfold Track.setM; split <;> rfl
@[simp] theorem Track.setM_ended (t : Track) (r : MReg) (v : Mask128) : (t.setM r v).ended = t.ended := by
  unfold Track.setM; split <;> rfl
@[simp] theorem Track.setM_inline (t : Track) (r : MReg) (v : Mask128) : (t.setM r v).inline = t.inline := by
  unfold Track.setM; split <;> rfl
@[simp] theorem Track.setM_bytes5 (t : Track) (r : MReg) (v : Mask128) : (t.setM r v).bytes5 = t.bytes5 := by
  unfold Track.setM; split <;> rfl
@[simp] theorem Track.setM_awaited (t : Track) (r : MReg) (v : Mask128) : (t.setM r v).awaited = t.awaited := by
  unfold Track.setM; split <;> rfl
@[simp] theorem Track.setM_left (t : Track) (r : MReg) (v : Mask128) : (t.setM r v).left = t.left := by
  unfold Track.setM; split <;> rfl
@[simp] theorem Track.setM_region (t : Track) (r : MReg) (v : Mask128) : (t.setM r v).region = t.region := by
  unfold Track.setM; split <;> rfl
@[simp] theorem Track.setM_leftNotes (t : Track) (r : MReg) (v : Mask128) : (t.setM r v).leftNotes = t.leftNotes := by
  unfold Track.setM; split <;> rfl
@[simp] theorem Track.setM_graph (t : Track) (r : MReg) (v : Mask128) : (t.setM r v).graph = t.graph := by
  unfold Track.setM; split <;> rfl
@[simp] theorem Track.setM_awaitedElem (t : Track) (r : MReg) (v : Mask128) : (t.setM r v).awaitedElem = t.awaitedElem := by
  unfold Track.setM; split <;> rfl
@[simp] theorem Track.setM_issuedAt (t : Track) (r : MReg) (v : Mask128) : (t.setM r v).issuedAt = t.issuedAt := by
  unfold Track.setM; split <;> rfl
@[simp] theorem Track.setM_halted (t : Track) (r : MReg) (v : Mask128) : (t.setM r v).halted = t.halted := by
  unfold Track.setM; split <;> rfl
@[simp] theorem Track.setM_haltReq (t : Track) (r : MReg) (v : Mask128) : (t.setM r v).haltReq = t.haltReq := by
  unfold Track.setM; split <;> rfl
@[simp] theorem Track.setM_haltWhy (t : Track) (r : MReg) (v : Mask128) : (t.setM r v).haltWhy = t.haltWhy := by
  unfold Track.setM; split <;> rfl
@[simp] theorem Track.setM_why (t : Track) (r : MReg) (v : Mask128) : (t.setM r v).why = t.why := by
  unfold Track.setM; split <;> rfl
@[simp] theorem Track.setM_unit (t : Track) (r : MReg) (v : Mask128) : (t.setM r v).unit = t.unit := by
  unfold Track.setM; split <;> rfl
@[simp] theorem Track.setM_cancelled (t : Track) (r : MReg) (v : Mask128) : (t.setM r v).cancelled = t.cancelled := by
  unfold Track.setM; split <;> rfl
@[simp] theorem Track.setM_exempt (t : Track) (r : MReg) (v : Mask128) : (t.setM r v).exempt = t.exempt := by
  unfold Track.setM; split <;> rfl
@[simp] theorem Track.setM_hitPc (t : Track) (r : MReg) (v : Mask128) : (t.setM r v).hitPc = t.hitPc := by
  unfold Track.setM; split <;> rfl
@[simp] theorem Track.setM_refused (t : Track) (r : MReg) (v : Mask128) : (t.setM r v).refused = t.refused := by
  unfold Track.setM; split <;> rfl
@[simp] theorem Track.setM_stepping (t : Track) (r : MReg) (v : Mask128) : (t.setM r v).stepping = t.stepping := by
  unfold Track.setM; split <;> rfl
@[simp] theorem Track.setM_stepsync (t : Track) (r : MReg) (v : Mask128) : (t.setM r v).stepsync = t.stepsync := by
  unfold Track.setM; split <;> rfl
@[simp] theorem Track.setM_stepRows (t : Track) (r : MReg) (v : Mask128) : (t.setM r v).stepRows = t.stepRows := by
  unfold Track.setM; split <;> rfl
@[simp] theorem Track.setM_owed (t : Track) (r : MReg) (v : Mask128) : (t.setM r v).owed = t.owed := by
  unfold Track.setM; split <;> rfl
@[simp] theorem Track.setM_touched (t : Track) (r : MReg) (v : Mask128) : (t.setM r v).touched = t.touched := by
  unfold Track.setM; split <;> rfl
@[simp] theorem Track.raise_pc (t : Track) (f : Flags) : (t.raise f).pc = t.pc := rfl
@[simp] theorem Track.raise_x (t : Track) (f : Flags) : (t.raise f).x = t.x := rfl
@[simp] theorem Track.raise_m (t : Track) (f : Flags) : (t.raise f).m = t.m := rfl
@[simp] theorem Track.raise_fq (t : Track) (f : Flags) : (t.raise f).fq = t.fq := rfl
@[simp] theorem Track.raise_vl (t : Track) (f : Flags) : (t.raise f).vl = t.vl := rfl
@[simp] theorem Track.raise_vlmax (t : Track) (f : Flags) : (t.raise f).vlmax = t.vlmax := rfl
@[simp] theorem Track.raise_sbase (t : Track) (f : Flags) : (t.raise f).sbase = t.sbase := rfl
@[simp] theorem Track.raise_held (t : Track) (f : Flags) : (t.raise f).held = t.held := rfl
@[simp] theorem Track.raise_srseed (t : Track) (f : Flags) : (t.raise f).srseed = t.srseed := rfl
@[simp] theorem Track.raise_prio (t : Track) (f : Flags) : (t.raise f).prio = t.prio := rfl
@[simp] theorem Track.raise_band (t : Track) (f : Flags) : (t.raise f).band = t.band := rfl
@[simp] theorem Track.raise_bands (t : Track) (f : Flags) : (t.raise f).bands = t.bands := rfl
@[simp] theorem Track.raise_super (t : Track) (f : Flags) : (t.raise f).super = t.super := rfl
@[simp] theorem Track.raise_tcause (t : Track) (f : Flags) : (t.raise f).tcause = t.tcause := rfl
@[simp] theorem Track.raise_taddr (t : Track) (f : Flags) : (t.raise f).taddr = t.taddr := rfl
@[simp] theorem Track.raise_tepc (t : Track) (f : Flags) : (t.raise f).tepc = t.tepc := rfl
@[simp] theorem Track.raise_tfpc (t : Track) (f : Flags) : (t.raise f).tfpc = t.tfpc := rfl
@[simp] theorem Track.raise_telem (t : Track) (f : Flags) : (t.raise f).telem = t.telem := rfl
@[simp] theorem Track.raise_level (t : Track) (f : Flags) : (t.raise f).level = t.level := rfl
@[simp] theorem Track.raise_acked (t : Track) (f : Flags) : (t.raise f).acked = t.acked := rfl
@[simp] theorem Track.raise_pmode (t : Track) (f : Flags) : (t.raise f).pmode = t.pmode := rfl
@[simp] theorem Track.raise_tvec (t : Track) (f : Flags) : (t.raise f).tvec = t.tvec := rfl
@[simp] theorem Track.raise_tstack (t : Track) (f : Flags) : (t.raise f).tstack = t.tstack := rfl
@[simp] theorem Track.raise_tsave (t : Track) (f : Flags) : (t.raise f).tsave = t.tsave := rfl
@[simp] theorem Track.raise_frames (t : Track) (f : Flags) : (t.raise f).frames = t.frames := rfl
@[simp] theorem Track.raise_entries (t : Track) (f : Flags) : (t.raise f).entries = t.entries := rfl
@[simp] theorem Track.raise_resume (t : Track) (f : Flags) : (t.raise f).resume = t.resume := rfl
@[simp] theorem Track.raise_trip (t : Track) (f : Flags) : (t.raise f).trip = t.trip := rfl
@[simp] theorem Track.raise_tripid (t : Track) (f : Flags) : (t.raise f).tripid = t.tripid := rfl
@[simp] theorem Track.raise_levelidx (t : Track) (f : Flags) : (t.raise f).levelidx = t.levelidx := rfl
@[simp] theorem Track.raise_ctxid (t : Track) (f : Flags) : (t.raise f).ctxid = t.ctxid := rfl
@[simp] theorem Track.raise_desc (t : Track) (f : Flags) : (t.raise f).desc = t.desc := rfl
@[simp] theorem Track.raise_cont (t : Track) (f : Flags) : (t.raise f).cont = t.cont := rfl
@[simp] theorem Track.raise_wait (t : Track) (f : Flags) : (t.raise f).wait = t.wait := rfl
@[simp] theorem Track.raise_pending (t : Track) (f : Flags) : (t.raise f).pending = t.pending := rfl
@[simp] theorem Track.raise_records (t : Track) (f : Flags) : (t.raise f).records = t.records := rfl
@[simp] theorem Track.raise_opaTraps (t : Track) (f : Flags) : (t.raise f).opaTraps = t.opaTraps := rfl
@[simp] theorem Track.raise_barriers (t : Track) (f : Flags) : (t.raise f).barriers = t.barriers := rfl
@[simp] theorem Track.raise_launches (t : Track) (f : Flags) : (t.raise f).launches = t.launches := rfl
@[simp] theorem Track.raise_escalated (t : Track) (f : Flags) : (t.raise f).escalated = t.escalated := rfl
@[simp] theorem Track.raise_clock (t : Track) (f : Flags) : (t.raise f).clock = t.clock := rfl
@[simp] theorem Track.raise_fenceRel (t : Track) (f : Flags) : (t.raise f).fenceRel = t.fenceRel := rfl
@[simp] theorem Track.raise_pendAcq (t : Track) (f : Flags) : (t.raise f).pendAcq = t.pendAcq := rfl
@[simp] theorem Track.raise_ended (t : Track) (f : Flags) : (t.raise f).ended = t.ended := rfl
@[simp] theorem Track.raise_inline (t : Track) (f : Flags) : (t.raise f).inline = t.inline := rfl
@[simp] theorem Track.raise_bytes5 (t : Track) (f : Flags) : (t.raise f).bytes5 = t.bytes5 := rfl
@[simp] theorem Track.raise_awaited (t : Track) (f : Flags) : (t.raise f).awaited = t.awaited := rfl
@[simp] theorem Track.raise_left (t : Track) (f : Flags) : (t.raise f).left = t.left := rfl
@[simp] theorem Track.raise_region (t : Track) (f : Flags) : (t.raise f).region = t.region := rfl
@[simp] theorem Track.raise_leftNotes (t : Track) (f : Flags) : (t.raise f).leftNotes = t.leftNotes := rfl
@[simp] theorem Track.raise_graph (t : Track) (f : Flags) : (t.raise f).graph = t.graph := rfl
@[simp] theorem Track.raise_awaitedElem (t : Track) (f : Flags) : (t.raise f).awaitedElem = t.awaitedElem := rfl
@[simp] theorem Track.raise_issuedAt (t : Track) (f : Flags) : (t.raise f).issuedAt = t.issuedAt := rfl
@[simp] theorem Track.raise_halted (t : Track) (f : Flags) : (t.raise f).halted = t.halted := rfl
@[simp] theorem Track.raise_haltReq (t : Track) (f : Flags) : (t.raise f).haltReq = t.haltReq := rfl
@[simp] theorem Track.raise_haltWhy (t : Track) (f : Flags) : (t.raise f).haltWhy = t.haltWhy := rfl
@[simp] theorem Track.raise_why (t : Track) (f : Flags) : (t.raise f).why = t.why := rfl
@[simp] theorem Track.raise_unit (t : Track) (f : Flags) : (t.raise f).unit = t.unit := rfl
@[simp] theorem Track.raise_cancelled (t : Track) (f : Flags) : (t.raise f).cancelled = t.cancelled := rfl
@[simp] theorem Track.raise_exempt (t : Track) (f : Flags) : (t.raise f).exempt = t.exempt := rfl
@[simp] theorem Track.raise_hitPc (t : Track) (f : Flags) : (t.raise f).hitPc = t.hitPc := rfl
@[simp] theorem Track.raise_refused (t : Track) (f : Flags) : (t.raise f).refused = t.refused := rfl
@[simp] theorem Track.raise_stepping (t : Track) (f : Flags) : (t.raise f).stepping = t.stepping := rfl
@[simp] theorem Track.raise_stepsync (t : Track) (f : Flags) : (t.raise f).stepsync = t.stepsync := rfl
@[simp] theorem Track.raise_stepRows (t : Track) (f : Flags) : (t.raise f).stepRows = t.stepRows := rfl
@[simp] theorem Track.raise_owed (t : Track) (f : Flags) : (t.raise f).owed = t.owed := rfl
@[simp] theorem Track.raise_touched (t : Track) (f : Flags) : (t.raise f).touched = t.touched := rfl
@[simp] theorem Track.deliver_pc (t : Track) (f : Flags) : (t.deliver f).pc = t.pc := rfl
@[simp] theorem Track.deliver_x (t : Track) (f : Flags) : (t.deliver f).x = t.x := rfl
@[simp] theorem Track.deliver_m (t : Track) (f : Flags) : (t.deliver f).m = t.m := rfl
@[simp] theorem Track.deliver_fq (t : Track) (f : Flags) : (t.deliver f).fq = t.fq := rfl
@[simp] theorem Track.deliver_vl (t : Track) (f : Flags) : (t.deliver f).vl = t.vl := rfl
@[simp] theorem Track.deliver_vlmax (t : Track) (f : Flags) : (t.deliver f).vlmax = t.vlmax := rfl
@[simp] theorem Track.deliver_sbase (t : Track) (f : Flags) : (t.deliver f).sbase = t.sbase := rfl
@[simp] theorem Track.deliver_held (t : Track) (f : Flags) : (t.deliver f).held = t.held := rfl
@[simp] theorem Track.deliver_srseed (t : Track) (f : Flags) : (t.deliver f).srseed = t.srseed := rfl
@[simp] theorem Track.deliver_prio (t : Track) (f : Flags) : (t.deliver f).prio = t.prio := rfl
@[simp] theorem Track.deliver_band (t : Track) (f : Flags) : (t.deliver f).band = t.band := rfl
@[simp] theorem Track.deliver_bands (t : Track) (f : Flags) : (t.deliver f).bands = t.bands := rfl
@[simp] theorem Track.deliver_super (t : Track) (f : Flags) : (t.deliver f).super = t.super := rfl
@[simp] theorem Track.deliver_tcause (t : Track) (f : Flags) : (t.deliver f).tcause = t.tcause := rfl
@[simp] theorem Track.deliver_taddr (t : Track) (f : Flags) : (t.deliver f).taddr = t.taddr := rfl
@[simp] theorem Track.deliver_tepc (t : Track) (f : Flags) : (t.deliver f).tepc = t.tepc := rfl
@[simp] theorem Track.deliver_tfpc (t : Track) (f : Flags) : (t.deliver f).tfpc = t.tfpc := rfl
@[simp] theorem Track.deliver_telem (t : Track) (f : Flags) : (t.deliver f).telem = t.telem := rfl
@[simp] theorem Track.deliver_level (t : Track) (f : Flags) : (t.deliver f).level = t.level := rfl
@[simp] theorem Track.deliver_acked (t : Track) (f : Flags) : (t.deliver f).acked = t.acked := rfl
@[simp] theorem Track.deliver_pmode (t : Track) (f : Flags) : (t.deliver f).pmode = t.pmode := rfl
@[simp] theorem Track.deliver_tvec (t : Track) (f : Flags) : (t.deliver f).tvec = t.tvec := rfl
@[simp] theorem Track.deliver_tstack (t : Track) (f : Flags) : (t.deliver f).tstack = t.tstack := rfl
@[simp] theorem Track.deliver_tsave (t : Track) (f : Flags) : (t.deliver f).tsave = t.tsave := rfl
@[simp] theorem Track.deliver_frames (t : Track) (f : Flags) : (t.deliver f).frames = t.frames := rfl
@[simp] theorem Track.deliver_entries (t : Track) (f : Flags) : (t.deliver f).entries = t.entries := rfl
@[simp] theorem Track.deliver_resume (t : Track) (f : Flags) : (t.deliver f).resume = t.resume := rfl
@[simp] theorem Track.deliver_trip (t : Track) (f : Flags) : (t.deliver f).trip = t.trip := rfl
@[simp] theorem Track.deliver_tripid (t : Track) (f : Flags) : (t.deliver f).tripid = t.tripid := rfl
@[simp] theorem Track.deliver_levelidx (t : Track) (f : Flags) : (t.deliver f).levelidx = t.levelidx := rfl
@[simp] theorem Track.deliver_ctxid (t : Track) (f : Flags) : (t.deliver f).ctxid = t.ctxid := rfl
@[simp] theorem Track.deliver_desc (t : Track) (f : Flags) : (t.deliver f).desc = t.desc := rfl
@[simp] theorem Track.deliver_cont (t : Track) (f : Flags) : (t.deliver f).cont = t.cont := rfl
@[simp] theorem Track.deliver_wait (t : Track) (f : Flags) : (t.deliver f).wait = t.wait := rfl
@[simp] theorem Track.deliver_pending (t : Track) (f : Flags) : (t.deliver f).pending = t.pending := rfl
@[simp] theorem Track.deliver_records (t : Track) (f : Flags) : (t.deliver f).records = t.records := rfl
@[simp] theorem Track.deliver_opaTraps (t : Track) (f : Flags) : (t.deliver f).opaTraps = t.opaTraps := rfl
@[simp] theorem Track.deliver_barriers (t : Track) (f : Flags) : (t.deliver f).barriers = t.barriers := rfl
@[simp] theorem Track.deliver_launches (t : Track) (f : Flags) : (t.deliver f).launches = t.launches := rfl
@[simp] theorem Track.deliver_escalated (t : Track) (f : Flags) : (t.deliver f).escalated = t.escalated := rfl
@[simp] theorem Track.deliver_clock (t : Track) (f : Flags) : (t.deliver f).clock = t.clock := rfl
@[simp] theorem Track.deliver_fenceRel (t : Track) (f : Flags) : (t.deliver f).fenceRel = t.fenceRel := rfl
@[simp] theorem Track.deliver_pendAcq (t : Track) (f : Flags) : (t.deliver f).pendAcq = t.pendAcq := rfl
@[simp] theorem Track.deliver_ended (t : Track) (f : Flags) : (t.deliver f).ended = t.ended := rfl
@[simp] theorem Track.deliver_inline (t : Track) (f : Flags) : (t.deliver f).inline = t.inline := rfl
@[simp] theorem Track.deliver_bytes5 (t : Track) (f : Flags) : (t.deliver f).bytes5 = t.bytes5 := rfl
@[simp] theorem Track.deliver_awaited (t : Track) (f : Flags) : (t.deliver f).awaited = t.awaited := rfl
@[simp] theorem Track.deliver_left (t : Track) (f : Flags) : (t.deliver f).left = t.left := rfl
@[simp] theorem Track.deliver_region (t : Track) (f : Flags) : (t.deliver f).region = t.region := rfl
@[simp] theorem Track.deliver_leftNotes (t : Track) (f : Flags) : (t.deliver f).leftNotes = t.leftNotes := rfl
@[simp] theorem Track.deliver_graph (t : Track) (f : Flags) : (t.deliver f).graph = t.graph := rfl
@[simp] theorem Track.deliver_awaitedElem (t : Track) (f : Flags) : (t.deliver f).awaitedElem = t.awaitedElem := rfl
@[simp] theorem Track.deliver_issuedAt (t : Track) (f : Flags) : (t.deliver f).issuedAt = t.issuedAt := rfl
@[simp] theorem Track.deliver_halted (t : Track) (f : Flags) : (t.deliver f).halted = t.halted := rfl
@[simp] theorem Track.deliver_haltReq (t : Track) (f : Flags) : (t.deliver f).haltReq = t.haltReq := rfl
@[simp] theorem Track.deliver_haltWhy (t : Track) (f : Flags) : (t.deliver f).haltWhy = t.haltWhy := rfl
@[simp] theorem Track.deliver_why (t : Track) (f : Flags) : (t.deliver f).why = t.why := rfl
@[simp] theorem Track.deliver_unit (t : Track) (f : Flags) : (t.deliver f).unit = t.unit := rfl
@[simp] theorem Track.deliver_cancelled (t : Track) (f : Flags) : (t.deliver f).cancelled = t.cancelled := rfl
@[simp] theorem Track.deliver_exempt (t : Track) (f : Flags) : (t.deliver f).exempt = t.exempt := rfl
@[simp] theorem Track.deliver_hitPc (t : Track) (f : Flags) : (t.deliver f).hitPc = t.hitPc := rfl
@[simp] theorem Track.deliver_refused (t : Track) (f : Flags) : (t.deliver f).refused = t.refused := rfl
@[simp] theorem Track.deliver_stepping (t : Track) (f : Flags) : (t.deliver f).stepping = t.stepping := rfl
@[simp] theorem Track.deliver_stepsync (t : Track) (f : Flags) : (t.deliver f).stepsync = t.stepsync := rfl
@[simp] theorem Track.deliver_stepRows (t : Track) (f : Flags) : (t.deliver f).stepRows = t.stepRows := rfl
@[simp] theorem Track.deliver_owed (t : Track) (f : Flags) : (t.deliver f).owed = t.owed := rfl
@[simp] theorem Track.deliver_touched (t : Track) (f : Flags) : (t.deliver f).touched = t.touched := rfl
@[simp] theorem Track.noteArith_pc (t : Track) (f : Flags) (e : Nat) : (t.noteArith f e).pc = t.pc := by
  unfold Track.noteArith; split <;> rfl
@[simp] theorem Track.noteArith_x (t : Track) (f : Flags) (e : Nat) : (t.noteArith f e).x = t.x := by
  unfold Track.noteArith; split <;> rfl
@[simp] theorem Track.noteArith_m (t : Track) (f : Flags) (e : Nat) : (t.noteArith f e).m = t.m := by
  unfold Track.noteArith; split <;> rfl
@[simp] theorem Track.noteArith_fq (t : Track) (f : Flags) (e : Nat) : (t.noteArith f e).fq = t.fq := by
  unfold Track.noteArith; split <;> rfl
@[simp] theorem Track.noteArith_vl (t : Track) (f : Flags) (e : Nat) : (t.noteArith f e).vl = t.vl := by
  unfold Track.noteArith; split <;> rfl
@[simp] theorem Track.noteArith_vlmax (t : Track) (f : Flags) (e : Nat) : (t.noteArith f e).vlmax = t.vlmax := by
  unfold Track.noteArith; split <;> rfl
@[simp] theorem Track.noteArith_sbase (t : Track) (f : Flags) (e : Nat) : (t.noteArith f e).sbase = t.sbase := by
  unfold Track.noteArith; split <;> rfl
@[simp] theorem Track.noteArith_held (t : Track) (f : Flags) (e : Nat) : (t.noteArith f e).held = t.held := by
  unfold Track.noteArith; split <;> rfl
@[simp] theorem Track.noteArith_srseed (t : Track) (f : Flags) (e : Nat) : (t.noteArith f e).srseed = t.srseed := by
  unfold Track.noteArith; split <;> rfl
@[simp] theorem Track.noteArith_arith (t : Track) (f : Flags) (e : Nat) : (t.noteArith f e).arith = t.arith := by
  unfold Track.noteArith; split <;> rfl
@[simp] theorem Track.noteArith_prio (t : Track) (f : Flags) (e : Nat) : (t.noteArith f e).prio = t.prio := by
  unfold Track.noteArith; split <;> rfl
@[simp] theorem Track.noteArith_band (t : Track) (f : Flags) (e : Nat) : (t.noteArith f e).band = t.band := by
  unfold Track.noteArith; split <;> rfl
@[simp] theorem Track.noteArith_bands (t : Track) (f : Flags) (e : Nat) : (t.noteArith f e).bands = t.bands := by
  unfold Track.noteArith; split <;> rfl
@[simp] theorem Track.noteArith_super (t : Track) (f : Flags) (e : Nat) : (t.noteArith f e).super = t.super := by
  unfold Track.noteArith; split <;> rfl
@[simp] theorem Track.noteArith_tcause (t : Track) (f : Flags) (e : Nat) : (t.noteArith f e).tcause = t.tcause := by
  unfold Track.noteArith; split <;> rfl
@[simp] theorem Track.noteArith_taddr (t : Track) (f : Flags) (e : Nat) : (t.noteArith f e).taddr = t.taddr := by
  unfold Track.noteArith; split <;> rfl
@[simp] theorem Track.noteArith_tepc (t : Track) (f : Flags) (e : Nat) : (t.noteArith f e).tepc = t.tepc := by
  unfold Track.noteArith; split <;> rfl
@[simp] theorem Track.noteArith_tfpc (t : Track) (f : Flags) (e : Nat) : (t.noteArith f e).tfpc = t.tfpc := by
  unfold Track.noteArith; split <;> rfl
@[simp] theorem Track.noteArith_telem (t : Track) (f : Flags) (e : Nat) : (t.noteArith f e).telem = t.telem := by
  unfold Track.noteArith; split <;> rfl
@[simp] theorem Track.noteArith_level (t : Track) (f : Flags) (e : Nat) : (t.noteArith f e).level = t.level := by
  unfold Track.noteArith; split <;> rfl
@[simp] theorem Track.noteArith_acked (t : Track) (f : Flags) (e : Nat) : (t.noteArith f e).acked = t.acked := by
  unfold Track.noteArith; split <;> rfl
@[simp] theorem Track.noteArith_pmode (t : Track) (f : Flags) (e : Nat) : (t.noteArith f e).pmode = t.pmode := by
  unfold Track.noteArith; split <;> rfl
@[simp] theorem Track.noteArith_tvec (t : Track) (f : Flags) (e : Nat) : (t.noteArith f e).tvec = t.tvec := by
  unfold Track.noteArith; split <;> rfl
@[simp] theorem Track.noteArith_tstack (t : Track) (f : Flags) (e : Nat) : (t.noteArith f e).tstack = t.tstack := by
  unfold Track.noteArith; split <;> rfl
@[simp] theorem Track.noteArith_tsave (t : Track) (f : Flags) (e : Nat) : (t.noteArith f e).tsave = t.tsave := by
  unfold Track.noteArith; split <;> rfl
@[simp] theorem Track.noteArith_frames (t : Track) (f : Flags) (e : Nat) : (t.noteArith f e).frames = t.frames := by
  unfold Track.noteArith; split <;> rfl
@[simp] theorem Track.noteArith_entries (t : Track) (f : Flags) (e : Nat) : (t.noteArith f e).entries = t.entries := by
  unfold Track.noteArith; split <;> rfl
@[simp] theorem Track.noteArith_resume (t : Track) (f : Flags) (e : Nat) : (t.noteArith f e).resume = t.resume := by
  unfold Track.noteArith; split <;> rfl
@[simp] theorem Track.noteArith_trip (t : Track) (f : Flags) (e : Nat) : (t.noteArith f e).trip = t.trip := by
  unfold Track.noteArith; split <;> rfl
@[simp] theorem Track.noteArith_tripid (t : Track) (f : Flags) (e : Nat) : (t.noteArith f e).tripid = t.tripid := by
  unfold Track.noteArith; split <;> rfl
@[simp] theorem Track.noteArith_levelidx (t : Track) (f : Flags) (e : Nat) : (t.noteArith f e).levelidx = t.levelidx := by
  unfold Track.noteArith; split <;> rfl
@[simp] theorem Track.noteArith_ctxid (t : Track) (f : Flags) (e : Nat) : (t.noteArith f e).ctxid = t.ctxid := by
  unfold Track.noteArith; split <;> rfl
@[simp] theorem Track.noteArith_desc (t : Track) (f : Flags) (e : Nat) : (t.noteArith f e).desc = t.desc := by
  unfold Track.noteArith; split <;> rfl
@[simp] theorem Track.noteArith_cont (t : Track) (f : Flags) (e : Nat) : (t.noteArith f e).cont = t.cont := by
  unfold Track.noteArith; split <;> rfl
@[simp] theorem Track.noteArith_wait (t : Track) (f : Flags) (e : Nat) : (t.noteArith f e).wait = t.wait := by
  unfold Track.noteArith; split <;> rfl
@[simp] theorem Track.noteArith_pending (t : Track) (f : Flags) (e : Nat) : (t.noteArith f e).pending = t.pending := by
  unfold Track.noteArith; split <;> rfl
@[simp] theorem Track.noteArith_records (t : Track) (f : Flags) (e : Nat) : (t.noteArith f e).records = t.records := by
  unfold Track.noteArith; split <;> rfl
@[simp] theorem Track.noteArith_opaTraps (t : Track) (f : Flags) (e : Nat) : (t.noteArith f e).opaTraps = t.opaTraps := by
  unfold Track.noteArith; split <;> rfl
@[simp] theorem Track.noteArith_barriers (t : Track) (f : Flags) (e : Nat) : (t.noteArith f e).barriers = t.barriers := by
  unfold Track.noteArith; split <;> rfl
@[simp] theorem Track.noteArith_launches (t : Track) (f : Flags) (e : Nat) : (t.noteArith f e).launches = t.launches := by
  unfold Track.noteArith; split <;> rfl
@[simp] theorem Track.noteArith_escalated (t : Track) (f : Flags) (e : Nat) : (t.noteArith f e).escalated = t.escalated := by
  unfold Track.noteArith; split <;> rfl
@[simp] theorem Track.noteArith_clock (t : Track) (f : Flags) (e : Nat) : (t.noteArith f e).clock = t.clock := by
  unfold Track.noteArith; split <;> rfl
@[simp] theorem Track.noteArith_fenceRel (t : Track) (f : Flags) (e : Nat) : (t.noteArith f e).fenceRel = t.fenceRel := by
  unfold Track.noteArith; split <;> rfl
@[simp] theorem Track.noteArith_pendAcq (t : Track) (f : Flags) (e : Nat) : (t.noteArith f e).pendAcq = t.pendAcq := by
  unfold Track.noteArith; split <;> rfl
@[simp] theorem Track.noteArith_ended (t : Track) (f : Flags) (e : Nat) : (t.noteArith f e).ended = t.ended := by
  unfold Track.noteArith; split <;> rfl
@[simp] theorem Track.noteArith_inline (t : Track) (f : Flags) (e : Nat) : (t.noteArith f e).inline = t.inline := by
  unfold Track.noteArith; split <;> rfl
@[simp] theorem Track.noteArith_bytes5 (t : Track) (f : Flags) (e : Nat) : (t.noteArith f e).bytes5 = t.bytes5 := by
  unfold Track.noteArith; split <;> rfl
@[simp] theorem Track.noteArith_awaited (t : Track) (f : Flags) (e : Nat) : (t.noteArith f e).awaited = t.awaited := by
  unfold Track.noteArith; split <;> rfl
@[simp] theorem Track.noteArith_left (t : Track) (f : Flags) (e : Nat) : (t.noteArith f e).left = t.left := by
  unfold Track.noteArith; split <;> rfl
@[simp] theorem Track.noteArith_region (t : Track) (f : Flags) (e : Nat) : (t.noteArith f e).region = t.region := by
  unfold Track.noteArith; split <;> rfl
@[simp] theorem Track.noteArith_leftNotes (t : Track) (f : Flags) (e : Nat) : (t.noteArith f e).leftNotes = t.leftNotes := by
  unfold Track.noteArith; split <;> rfl
@[simp] theorem Track.noteArith_graph (t : Track) (f : Flags) (e : Nat) : (t.noteArith f e).graph = t.graph := by
  unfold Track.noteArith; split <;> rfl
@[simp] theorem Track.noteArith_awaitedElem (t : Track) (f : Flags) (e : Nat) : (t.noteArith f e).awaitedElem = t.awaitedElem := by
  unfold Track.noteArith; split <;> rfl
@[simp] theorem Track.noteArith_issuedAt (t : Track) (f : Flags) (e : Nat) : (t.noteArith f e).issuedAt = t.issuedAt := by
  unfold Track.noteArith; split <;> rfl
@[simp] theorem Track.noteArith_halted (t : Track) (f : Flags) (e : Nat) : (t.noteArith f e).halted = t.halted := by
  unfold Track.noteArith; split <;> rfl
@[simp] theorem Track.noteArith_haltReq (t : Track) (f : Flags) (e : Nat) : (t.noteArith f e).haltReq = t.haltReq := by
  unfold Track.noteArith; split <;> rfl
@[simp] theorem Track.noteArith_haltWhy (t : Track) (f : Flags) (e : Nat) : (t.noteArith f e).haltWhy = t.haltWhy := by
  unfold Track.noteArith; split <;> rfl
@[simp] theorem Track.noteArith_why (t : Track) (f : Flags) (e : Nat) : (t.noteArith f e).why = t.why := by
  unfold Track.noteArith; split <;> rfl
@[simp] theorem Track.noteArith_unit (t : Track) (f : Flags) (e : Nat) : (t.noteArith f e).unit = t.unit := by
  unfold Track.noteArith; split <;> rfl
@[simp] theorem Track.noteArith_cancelled (t : Track) (f : Flags) (e : Nat) : (t.noteArith f e).cancelled = t.cancelled := by
  unfold Track.noteArith; split <;> rfl
@[simp] theorem Track.noteArith_exempt (t : Track) (f : Flags) (e : Nat) : (t.noteArith f e).exempt = t.exempt := by
  unfold Track.noteArith; split <;> rfl
@[simp] theorem Track.noteArith_hitPc (t : Track) (f : Flags) (e : Nat) : (t.noteArith f e).hitPc = t.hitPc := by
  unfold Track.noteArith; split <;> rfl
@[simp] theorem Track.noteArith_refused (t : Track) (f : Flags) (e : Nat) : (t.noteArith f e).refused = t.refused := by
  unfold Track.noteArith; split <;> rfl
@[simp] theorem Track.noteArith_stepping (t : Track) (f : Flags) (e : Nat) : (t.noteArith f e).stepping = t.stepping := by
  unfold Track.noteArith; split <;> rfl
@[simp] theorem Track.noteArith_stepsync (t : Track) (f : Flags) (e : Nat) : (t.noteArith f e).stepsync = t.stepsync := by
  unfold Track.noteArith; split <;> rfl
@[simp] theorem Track.noteArith_stepRows (t : Track) (f : Flags) (e : Nat) : (t.noteArith f e).stepRows = t.stepRows := by
  unfold Track.noteArith; split <;> rfl
@[simp] theorem Track.noteArith_owed (t : Track) (f : Flags) (e : Nat) : (t.noteArith f e).owed = t.owed := by
  unfold Track.noteArith; split <;> rfl
@[simp] theorem Track.noteArith_touched (t : Track) (f : Flags) (e : Nat) : (t.noteArith f e).touched = t.touched := by
  unfold Track.noteArith; split <;> rfl

end Sys2Proof.Machine
end

