-- ==== Sys2Proof/Laws/Parts.lean ====
section
/-!
SUPPORT. Reading a part of the state after a change to that part or to another one.
-/
namespace Sys2Proof.Machine
-- one proof after another: in the package as one text every proof under way holds a thread of its own
set_option Elab.async false

theorem State.core_modCore (s : State) (c i : Nat) (f : Core → Core) :
    (s.modCore c f).core i = if i = c then f (s.core c) else s.core i := by
  simp only [State.core, State.modCore, State.setCore, mget_mput]

@[simp] theorem State.core_modCore_same (s : State) (c : Nat) (f : Core → Core) : (s.modCore c f).core c = f (s.core c) := by
  simp [State.core_modCore]

theorem Core.track_setTrack (k : Core) (n i : Nat) (t : Track) : (k.setTrack n t).track i = if i = n then t else k.track i := by
  simp only [Core.track, Core.setTrack, mget_mput]

@[simp] theorem Core.track_setTrack_same (k : Core) (n : Nat) (t : Track) : (k.setTrack n t).track n = t := by
  simp [Core.track_setTrack]

theorem State.core_modTrack (s : State) (c n i : Nat) (f : Track → Track) :
    (s.modTrack c n f).core i = if i = c then (s.core c).setTrack n (f (s.track c n)) else s.core i := by
  simp only [State.modTrack, State.setTrack, State.core_modCore]

theorem State.track_modTrack (s : State) (c n d m : Nat) (f : Track → Track) :
    (s.modTrack c n f).track d m = if d = c ∧ m = n then f (s.track c n) else s.track d m := by
  unfold State.track
  rw [State.core_modTrack]
  by_cases hd : d = c
  · subst hd
    by_cases hm : m = n
    · subst hm; simp [State.track]
    · simp [hm, Core.track_setTrack]
  · simp [hd]

theorem State.track_modCore (s : State) (c d m : Nat) (f : Core → Core) :
    (s.modCore c f).track d m = if d = c then (f (s.core c)).track m else s.track d m := by
  unfold State.track; rw [State.core_modCore]; split <;> rfl

/-- The current track after a change to it. -/
@[simp] theorem State.me_modMe (s : State) (f : Track → Track) : (s.modMe f).me = f s.me := by
  simp [State.me, State.modMe, State.track_modTrack]

theorem State.track_modMe_other (s : State) (f : Track → Track) {c n : Nat} (h : (c, n) ≠ s.cur) :
    (s.modMe f).track c n = s.track c n := by
  simp only [State.modMe, State.track_modTrack]
  split
  · rename_i e; exact absurd (Prod.ext e.1 e.2) h
  · rfl

/-- A change to a core that keeps its tracks keeps every track. -/
theorem State.track_modCore_keep (s : State) (c d m : Nat) {f : Core → Core} (h : (f (s.core c)).tracks = (s.core c).tracks) :
    (s.modCore c f).track d m = s.track d m := by
  rw [State.track_modCore]; split
  · subst_vars; simp [State.track, Core.track, h]
  · rfl

@[simp] theorem State.core_modDie (s : State) (d i : Nat) (f : Die → Die) : (s.modDie d f).core i = s.core i := rfl
@[simp] theorem State.track_modDie (s : State) (d c n : Nat) (f : Die → Die) : (s.modDie d f).track c n = s.track c n := rfl
@[simp] theorem State.me_modDie (s : State) (d : Nat) (f : Die → Die) : (s.modDie d f).me = s.me := rfl
@[simp] theorem State.die_modCore (s : State) (c d : Nat) (f : Core → Core) : (s.modCore c f).die d = s.die d := rfl
@[simp] theorem State.die_modTrack (s : State) (c n d : Nat) (f : Track → Track) : (s.modTrack c n f).die d = s.die d := rfl
@[simp] theorem State.die_modMe (s : State) (d : Nat) (f : Track → Track) : (s.modMe f).die d = s.die d := rfl

theorem State.die_modDie (s : State) (d i : Nat) (f : Die → Die) : (s.modDie d f).die i = if i = d then f (s.die d) else s.die i := by
  simp only [State.die, State.modDie, mget_mput]

/-- The registers of a track after a write to one of them (R53). -/
theorem Track.getX_setX (t : Track) (r i : Reg) (v : Word) :
    (t.setX r v).getX i = if i = r ∧ r ≠ 0 then v else t.getX i := by
  unfold Track.setX Track.getX
  by_cases hr : r = 0
  · simp [hr]
  · by_cases hi : i = r
    · subst hi; simp [hr]
    · have : ¬ r.val = i.val := fun e => hi (Fin.ext e.symm)
      simp [hr, hi, this]

/-- The mask registers of a track after a write to one of them (R54). -/
theorem Track.getM_setM (t : Track) (r i : MReg) (v : Mask128) :
    (t.setM r v).getM i = if i = r ∧ r ≠ 0 then v else t.getM i := by
  unfold Track.setM Track.getM
  by_cases hr : r = 0
  · simp [hr]
  · by_cases hi : i = r
    · subst hi; simp [hr]
    · have : ¬ r.val = i.val := fun e => hi (Fin.ext e.symm)
      simp [hr, hi, this]

end Sys2Proof.Machine
end

