-- ==== Sys2Proof/Laws/Memory.lean ====
section
/-!
SUPPORT. Memory: what a write leaves at its own places and at others, and that every operation on memory keeps the canonical form.
-/
namespace Sys2Proof.Machine
-- one proof after another: in the package as one text every proof under way holds a thread of its own
set_option Elab.async false

/-! Where a place is. -/

/-- Where a place is depends on the dies' registers alone (R459). -/
theorem State.loc_congr {s t : State} (h : t.dies = s.dies) (pa : Nat) : t.loc pa = s.loc pa := by
  unfold State.loc; unfold State.syncArea; unfold State.stew; unfold State.die; rw [h]

/-- A byte depends on memory and on where its place is. -/
theorem State.byte_congr {s t : State} (hm : t.mem = s.mem) (hd : t.dies = s.dies) (pa : Nat) : t.byte pa = s.byte pa := by
  simp only [State.byte, hm, State.loc_congr hd]

theorem State.bytes_congr {s t : State} (hm : t.mem = s.mem) (hd : t.dies = s.dies) (n : Nat) : ∀ pa, t.bytes pa n = s.bytes pa n := by
  induction n with
  | zero => intro pa; rfl
  | succ n ih => intro pa; simp only [State.bytes, ih, State.byte_congr hm hd]

@[simp] theorem State.setByte_dies (s : State) (pa : Nat) (b : Byte) : (s.setByte pa b).dies = s.dies := by
  unfold State.setByte; simp only; split <;> rfl

theorem State.setByte_mem (s : State) (pa : Nat) (b : Byte) : (s.setByte pa b).mem = mset 0 (s.loc pa) b s.mem := by
  unfold State.setByte; simp only; split <;> rfl

@[simp] theorem State.setByte_poison (s : State) (pa : Nat) (b : Byte) : (s.setByte pa b).poison = s.poison := by
  unfold State.setByte; simp only; split <;> rfl

@[simp] theorem State.loc_setByte (s : State) (pa : Nat) (b : Byte) (a : Nat) : (s.setByte pa b).loc a = s.loc a :=
  State.loc_congr (State.setByte_dies s pa b) a

@[simp] theorem State.setBytes_dies (n : Nat) : ∀ (s : State) (pa v : Nat), (s.setBytes pa n v).dies = s.dies := by
  induction n with
  | zero => intro s pa v; rfl
  | succ n ih => intro s pa v; simp only [State.setBytes, ih, State.setByte_dies]

@[simp] theorem State.setBytes_poison (n : Nat) : ∀ (s : State) (pa v : Nat), (s.setBytes pa n v).poison = s.poison := by
  induction n with
  | zero => intro s pa v; rfl
  | succ n ih => intro s pa v; simp only [State.setBytes, ih, State.setByte_poison]

@[simp] theorem State.loc_setBytes (s : State) (pa n v a : Nat) : (s.setBytes pa n v).loc a = s.loc a :=
  State.loc_congr (State.setBytes_dies n s pa v) a

/-! Reading after a write. -/

/-- A byte after a write of one byte, in a memory whose addresses rise. -/
theorem State.byte_setByte (s : State) (pa : Nat) (b : Byte) (a : Nat) (h : mrising s.mem = true) :
    (s.setByte pa b).byte a = if s.loc a = s.loc pa then b else s.byte a := by
  simp only [State.byte, State.setByte_mem, State.loc_setByte, mget_mset 0 _ _ _ h]

theorem State.mrising_setByte (s : State) (pa : Nat) (b : Byte) (h : mrising s.mem = true) : mrising (s.setByte pa b).mem = true := by
  rw [State.setByte_mem]; exact mrising_mset _ _ _ h

/-- A byte that stands at none of the written places. -/
theorem State.byte_setBytes_other (n : Nat) : ∀ (s : State) (pa v a : Nat), mrising s.mem = true →
    (∀ i, i < n → s.loc a ≠ s.loc (pa + i)) → (s.setBytes pa n v).byte a = s.byte a := by
  induction n with
  | zero => intro s pa v a _ _; rfl
  | succ n ih =>
    intro s pa v a h ho
    rw [State.setBytes, ih _ _ _ _ (State.mrising_setByte s pa _ h), State.byte_setByte _ _ _ _ h, if_neg (show s.loc a ≠ s.loc pa from ho 0 (by omega))]
    intro i hi
    simp only [State.loc_setByte]
    have := ho (i + 1) (by omega)
    rwa [show pa + 1 + i = pa + (i + 1) by omega]

theorem State.mrising_setBytes (n : Nat) : ∀ (s : State) (pa v : Nat), mrising s.mem = true → mrising (s.setBytes pa n v).mem = true := by
  induction n with
  | zero => intro s pa v h; exact h
  | succ n ih => intro s pa v h; exact ih _ _ _ (State.mrising_setByte s pa _ h)

/-- The bytes written are read back, where they stand at places apart. -/
theorem State.bytes_setBytes (n : Nat) : ∀ (s : State) (pa v : Nat), mrising s.mem = true →
    (∀ i j, i < j → j < n → s.loc (pa + i) ≠ s.loc (pa + j)) → (s.setBytes pa n v).bytes pa n = v % 256 ^ n := by
  induction n with
  | zero => intro s pa v _ _; simp [State.bytes, Nat.mod_one]
  | succ n ih =>
    intro s pa v h ha
    have hr := State.mrising_setByte s pa (BitVec.ofNat 8 v) h
    have ho : (s.setBytes pa (n + 1) v).byte pa = BitVec.ofNat 8 v := by
      rw [State.setBytes, State.byte_setBytes_other _ _ _ _ _ hr, State.byte_setByte _ _ _ _ h, if_pos rfl]
      intro i hi
      simp only [State.loc_setByte]
      have := ha 0 (i + 1) (by omega) (by omega)
      rwa [Nat.add_zero, show pa + (i + 1) = pa + 1 + i by omega] at this
    rw [State.bytes, ho, State.setBytes, ih _ _ _ hr]
    · rw [BitVec.toNat_ofNat, show 2 ^ 8 = 256 from rfl, Nat.pow_succ, Nat.mul_comm (256 ^ n) 256, Nat.mod_mul]
    · intro i j hi hj
      simp only [State.loc_setByte]
      have := ha (i + 1) (j + 1) (by omega) (by omega)
      rwa [show pa + 1 + i = pa + (i + 1) by omega, show pa + 1 + j = pa + (j + 1) by omega]

/-- Outside sync memory a place stands at its own address. -/
theorem State.loc_of_not_sync (s : State) (pa : Nat) (h : pa < 0x800000000 ∨ 0x840000000 ≤ pa) : s.loc pa = pa := by
  have e : ∀ d o, area pa ≠ .sync d o := by
    intro d o e
    unfold area at e
    by_cases h1 : pa < 0x800000000
    · simp only [h1, if_true] at e
      split at e
      · cases e
      · split at e <;> cases e
    · have h2 : ¬ pa < 0x840000000 := by omega
      have h3 : ¬ pa < 0x400000000 := by omega
      have h4 : ¬ pa < 0x420000000 := by omega
      simp only [h1, h2, h3, h4, if_false] at e
      repeat' split at e
      all_goals cases e
  unfold State.loc
  split
  · rename_i d o e'; exact absurd e' (e d o)
  · rfl

/-! The canonical form (of memory and of poison marks). -/

theorem State.memWf_iff (s : State) : s.memWf = true ↔ mcanon 0 s.mem = true ∧ mcanon false s.poison = true := by
  simp [State.memWf, Memory.wf]

theorem State.memWf_rising {s : State} (h : s.memWf = true) : mrising s.mem = true := mrising_of_mcanon ((State.memWf_iff s).mp h).1

theorem State.memWf_congr {s t : State} (hm : t.mem = s.mem) (hp : t.poison = s.poison) : t.memWf = s.memWf := by
  simp only [State.memWf, hm, hp]

theorem State.memWf_setByte (s : State) (pa : Nat) (b : Byte) (h : s.memWf = true) : (s.setByte pa b).memWf = true := by
  rw [State.memWf_iff] at h ⊢
  rw [State.setByte_mem, State.setByte_poison]
  exact ⟨mcanon_mset _ _ _ h.1, h.2⟩

theorem State.memWf_setBytes (n : Nat) : ∀ (s : State) (pa v : Nat), s.memWf = true → (s.setBytes pa n v).memWf = true := by
  induction n with
  | zero => intro s pa v h; exact h
  | succ n ih => intro s pa v h; exact ih _ _ _ (State.memWf_setByte s pa _ h)

theorem State.memWf_setMasked (n : Nat) : ∀ (s : State) (pa v m : Nat), s.memWf = true → (s.setMasked pa n v m).memWf = true := by
  induction n with
  | zero => intro s pa v m h; exact h
  | succ n ih =>
    intro s pa v m h
    simp only [State.setMasked]
    split
    · exact ih _ _ _ _ h
    · exact ih _ _ _ _ (State.memWf_setByte s pa _ h)

theorem State.memWf_setPoison (s : State) (pa : Nat) (b : Bool) (h : s.memWf = true) : (s.setPoison pa b).memWf = true := by
  rw [State.memWf_iff] at h ⊢
  exact ⟨h.1, mcanon_mset _ _ _ h.2⟩

theorem State.memWf_modCore (s : State) (c : Nat) (f : Core → Core) : (s.modCore c f).memWf = s.memWf := rfl

/-- After reset no byte is listed. -/
theorem State.memWf_reset : State.reset.memWf = true := by decide

end Sys2Proof.Machine
end

