-- ==== Sys2Proof/Laws/Retire.lean ====
section
/-!
SUPPORT. What completing an instruction does: everything `State.retire` and `State.endStep` can change, said once.
-/
namespace Sys2Proof.Machine
-- one proof after another: in the package as one text every proof under way holds a thread of its own
set_option Elab.async false

theorem OnlyTrack.rfl' (s : State) : OnlyTrack s s :=
  ⟨rfl, fun _ => rfl, fun _ => rfl, fun _ => rfl, fun _ _ _ => rfl⟩

theorem OnlyTrack.cur_eq {s t : State} (h : OnlyTrack s t) : t.cur = s.cur := by
  have := congrArg State.cur h.package; exact this

theorem OnlyTrack.trans {s t u : State} (h : OnlyTrack s t) (k : OnlyTrack t u) : OnlyTrack s u where
  package := k.package.trans h.package
  bytes a := (k.bytes a).trans (h.bytes a)
  cores c := (k.cores c).trans (h.cores c)
  dies d := (k.dies d).trans (h.dies d)
  tracks c n hn := (k.tracks c n (by rw [h.cur_eq]; exact hn)).trans (h.tracks c n hn)

/-- Bytes depend on the state only through memory and the dies' register blocks. -/
theorem State.byte_of_stew {s t : State} (hm : t.mem = s.mem) (hd : ∀ d, (t.die d).stew = (s.die d).stew) (a : Nat) :
    t.byte a = s.byte a := by
  have hr : ∀ d, t.syncArea d = s.syncArea d := fun d => by unfold State.syncArea State.stew Die.reg; rw [hd]
  have hl : t.loc a = s.loc a := by unfold State.loc; split
                                    · rw [hr]
                                    · rfl
  unfold State.byte; rw [hl, hm]

theorem OnlyTrack.modMe (s : State) (f : Track → Track) : OnlyTrack s (s.modMe f) where
  package := rfl
  bytes a := State.byte_of_stew rfl (fun _ => rfl) a
  cores c := by
    simp only [State.modMe, State.core_modTrack]
    split
    · subst_vars; rfl
    · rfl
  dies _ := rfl
  tracks c n h := State.track_modMe_other s f h

/-- A change to a core's counters only. -/
theorem OnlyTrack.modCore (s : State) (c : Nat) {f : Core → Core} (hv : (f (s.core c)).visible = (s.core c).visible)
    (ht : (f (s.core c)).tracks = (s.core c).tracks) : OnlyTrack s (s.modCore c f) where
  package := rfl
  bytes a := State.byte_of_stew rfl (fun _ => rfl) a
  cores i := by
    rw [State.core_modCore]; split
    · subst_vars; exact hv
    · rfl
  dies _ := rfl
  tracks d n _ := State.track_modCore_keep s c d n ht

theorem State.me_modCore_keep (s : State) (c : Nat) {f : Core → Core} (ht : (f (s.core c)).tracks = (s.core c).tracks) :
    (s.modCore c f).me = s.me := State.track_modCore_keep s c _ _ ht

@[simp] theorem Core.count_visible (k : Core) (code n : Nat) : (k.count code n).visible = k.visible := by
  unfold Core.count; split <;> rfl

/-- From `s` to `t` only counters, watchpoint notes and the like have changed; the current track's strip is the same. -/
structure Counts (s t : State) : Prop where
  only : OnlyTrack s t
  me : t.me.visible = s.me.visible
  strip : t.me.strip = s.me.strip

theorem Counts.rfl' (s : State) : Counts s s := ⟨OnlyTrack.rfl' s, rfl, rfl⟩

theorem Counts.trans {s t u : State} (h : Counts s t) (k : Counts t u) : Counts s u :=
  ⟨h.only.trans k.only, k.me.trans h.me, k.strip.trans h.strip⟩

theorem Counts.modCore (s : State) (c : Nat) {f : Core → Core} (hv : (f (s.core c)).visible = (s.core c).visible)
    (ht : (f (s.core c)).tracks = (s.core c).tracks) : Counts s (s.modCore c f) :=
  ⟨OnlyTrack.modCore s c hv ht, by rw [State.me_modCore_keep s c ht], by rw [State.me_modCore_keep s c ht]⟩

theorem Counts.modMe (s : State) {f : Track → Track} (hv : (f s.me).visible = s.me.visible) (hs : (f s.me).strip = s.me.strip) :
    Counts s (s.modMe f) :=
  ⟨OnlyTrack.modMe s f, by rw [State.me_modMe]; exact hv, by rw [State.me_modMe]; exact hs⟩

theorem Counts.charge (s : State) (c pj : Nat) : Counts s (s.charge c pj) := Counts.modCore s c rfl rfl

theorem Counts.chargeBytes (s : State) (n : Nat) : Counts s (s.chargeBytes n) :=
  (Counts.modMe s (f := fun t => { t with bytes5 := s.me.bytes5 + n }) rfl rfl).trans (Counts.charge _ _ _)

theorem Counts.countEvent (s : State) (c code n : Nat) : Counts s (s.countEvent c code n) :=
  Counts.modCore s c (Core.count_visible _ _ _) (Core.count_tracks _ _ _)

theorem Counts.chargeIssue (s : State) (i : Instr) (vl : Nat) : Counts s (s.chargeIssue i vl) := by
  unfold State.chargeIssue
  have h := Counts.countEvent s s.cur.1 0x03 (groupsOf i vl)
  cases energyClassOf i <;> dsimp only
  · exact h.trans (Counts.charge _ _ _)
  · exact h.trans (Counts.charge _ _ _)
  · exact h
  · exact h.trans (Counts.charge _ _ _)
  · exact h

theorem Counts.chargeAccesses (s : State) (i : Instr) : Counts s (s.chargeAccesses i) := by
  unfold State.chargeAccesses
  cases energyClassOf i <;> dsimp only <;> first | exact Counts.rfl' s | exact Counts.chargeBytes _ _

/-- A change to a die's trace window. -/
theorem Counts.modDie (s : State) (d : Nat) {f : Die → Die} (hv : (f (s.die d)).visible = (s.die d).visible)
    (hs : (f (s.die d)).stew = (s.die d).stew) : Counts s (s.modDie d f) := by
  have hst : ∀ i, ((s.modDie d f).die i).stew = (s.die i).stew := fun i => by
    rw [State.die_modDie]; split
    · subst_vars; exact hs
    · rfl
  have hvi : ∀ i, ((s.modDie d f).die i).visible = (s.die i).visible := fun i => by
    rw [State.die_modDie]; split
    · subst_vars; exact hv
    · rfl
  exact ⟨⟨rfl, State.byte_of_stew (State.modDie_mem _ _ _) hst, fun c => by rw [State.core_modDie], hvi,
    fun c n _ => State.track_modDie _ _ _ _ _⟩, by rw [State.me_modDie], by rw [State.me_modDie]⟩

theorem Counts.triggerWindow (s : State) (c : Nat) : Counts s (s.triggerWindow c) := by
  unfold State.triggerWindow
  apply Counts.modDie <;> dsimp only <;> split <;> rfl

theorem Counts.countHits (s : State) (ctl : Nat → Word) (hits : List Nat) : Counts s (s.countHits ctl hits) := by
  unfold State.countHits
  have h := Counts.modCore s s.cur.1 (f := fun k => { k with dbg := hits.foldl (fun m u =>
    mput (0x100 + 16 * u) (setFld (ctl u) 31 16 (fld (ctl u) 31 16 + 1)) m) k.dbg }) rfl rfl
  dsimp only
  split
  · exact h.trans (Counts.triggerWindow _ _)
  · exact h

theorem Counts.owe (s : State) (pc : Word) (found : Nat → List (Word × Nat)) (acts : List (Nat × Nat)) :
    Counts s (s.owe pc found acts) := by
  unfold State.owe
  split
  · exact Counts.rfl' s
  · exact Counts.modMe s rfl rfl

theorem Counts.watch (s : State) (pc : Word) : Counts s (s.watch pc) := by
  unfold State.watch
  dsimp only
  split
  · exact Counts.rfl' s
  · exact (Counts.countHits _ _ _).trans (Counts.owe _ _ _ _)

theorem Counts.noteIssued (s : State) (i : Instr) (vl : Nat) (pc : Word) : Counts s (s.noteIssued i vl pc) := by
  unfold State.noteIssued
  split
  · exact Counts.rfl' s
  · exact ((Counts.chargeIssue s i vl).trans
      (Counts.modCore _ s.cur.1 (f := fun k => { k with issued := k.issued ++ [(s.cur.2, pc)] }) rfl rfl)).trans (Counts.countEvent _ _ _ _)

theorem Counts.dropAnswers (s : State) : Counts s s.dropAnswers :=
  ⟨⟨rfl, fun a => State.byte_of_stew rfl (fun _ => rfl) a, fun _ => rfl, fun _ => rfl, fun _ _ _ => rfl⟩, rfl, rfl⟩

theorem Counts.noted (s : State) (i : Instr) (vl : Nat) (pc : Word) : Counts s (s.noted i vl pc) := by
  have h : Counts s (((s.noteIssued i vl pc).chargeAccesses i).watch pc).dropAnswers :=
    (((Counts.noteIssued s i vl pc).trans (Counts.chargeAccesses _ _)).trans (Counts.watch _ _)).trans (Counts.dropAnswers _)
  unfold State.noted; dsimp only
  split
  · exact h.trans (Counts.countEvent _ _ _ _)
  · exact h

/-- Completing an instruction changes nothing outside its track but counters. -/
theorem OnlyTrack.retire (s : State) (i : Instr) (vl : Nat) (pc : Word) (adv : Bool) : OnlyTrack s (s.retire i vl pc adv) := by
  unfold State.retire; exact (Counts.noted s i vl pc).only.trans (OnlyTrack.modMe _ _)

/-- Completing an instruction leaves the registers of its track, but moves the pc. -/
theorem State.retire_visible (s : State) (i : Instr) (vl : Nat) (pc : Word) (adv : Bool) :
    (s.retire i vl pc adv).me.visible
      = { s.me.visible with pc := if adv then pc + BitVec.ofNat 64 (instrSize i) else s.me.pc } := by
  unfold State.retire; dsimp only
  rw [State.me_modMe, ← (Counts.noted s i vl pc).me]
  have hp : (s.noted i vl pc).me.pc = s.me.pc := congrArg (fun t => t.pc) (Counts.noted s i vl pc).me
  cases adv <;> simp [Track.visible, Track.moveOn, hp]

/-- The strip after an instruction that does not close it: one instruction more. -/
theorem State.retire_strip (s : State) {i : Instr} (vl : Nat) (pc : Word) (adv : Bool) (h : instrCloses i = false) :
    (s.retire i vl pc adv).me.strip = { s.me.strip with count := s.me.strip.count + 1 } := by
  unfold State.retire; dsimp only
  rw [State.me_modMe, ← (Counts.noted s i vl pc).strip]
  simp [Track.moveOn, h]

theorem State.endStep_eq (s : State) (i : Instr) (pc : Word) : s.endStep i pc = s ∨ ∃ f, s.endStep i pc = s.modMe f
    ∧ (f s.me).visible = s.me.visible
    ∧ (f s.me).strip = s.me.strip := by
  unfold State.endStep State.endStepWith
  split
  · exact .inl rfl
  · exact .inr ⟨_, rfl, rfl, rfl⟩

theorem Counts.endStep (s : State) (i : Instr) (pc : Word) : Counts s (s.endStep i pc) := by
  obtain h | ⟨f, h, hv, hs⟩ := State.endStep_eq s i pc
  · rw [h]; exact Counts.rfl' s
  · rw [h]; exact Counts.modMe s hv hs

theorem OnlyTrack.completes (s0 : State) (i : Instr) (s : State) : OnlyTrack s (s0.completes i s) :=
  (OnlyTrack.retire _ _ _ _ _).trans (Counts.endStep _ _ _).only

theorem OnlyTrack.jumps (s0 : State) (i : Instr) (s : State) : OnlyTrack s (s0.jumps i s) :=
  (OnlyTrack.retire _ _ _ _ _).trans (Counts.endStep _ _ _).only

/-- The registers after an instruction that has completed. -/
theorem State.completes_visible (s0 : State) (i : Instr) (s : State) :
    (s0.completes i s).me.visible = { s.me.visible with pc := s0.me.pc + BitVec.ofNat 64 (instrSize i) } :=
  (Counts.endStep _ _ _).me.trans (State.retire_visible _ _ _ _ _)

theorem State.jumps_visible (s0 : State) (i : Instr) (s : State) : (s0.jumps i s).me.visible = s.me.visible :=
  (Counts.endStep _ _ _).me.trans (State.retire_visible _ _ _ _ _)

theorem State.completes_strip (s0 : State) {i : Instr} (s : State) (h : instrCloses i = false) :
    (s0.completes i s).me.strip = { s.me.strip with count := s.me.strip.count + 1 } :=
  (Counts.endStep _ _ _).strip.trans (State.retire_strip _ _ _ _ h)

theorem State.jumps_strip (s0 : State) {i : Instr} (s : State) (h : instrCloses i = false) :
    (s0.jumps i s).me.strip = { s.me.strip with count := s.me.strip.count + 1 } :=
  (Counts.endStep _ _ _).strip.trans (State.retire_strip _ _ _ _ h)

end Sys2Proof.Machine
end

