-- ==== Sys2Proof/Laws/Perform.lean ====
section
/-!
SUPPORT. What `perform` answers, said once: an instruction whose strip closes (or stays open) without a trap, a wait or a record does
its own part in the state `State.entered` gives.
-/
namespace Sys2Proof.Machine
-- one proof after another: in the package as one text every proof under way holds a thread of its own
set_option Elab.async false

/-- The own part decides, unless it asks for the strip to close first. -/
theorem perform_of_entered {i : Instr} {s s1 : State} {body : State → Out} {o : Out} (h : s.entered i = some s1)
    (hb : body s1 = o) (hc : o ≠ .closeFirst) : perform i body s = .next (conclude i s.me.vl s.me.pc o s) := by
  unfold State.entered State.steady at h
  unfold perform
  dsimp only
  split at h
  · rename_i hcl
    have hcl' : ((instrCloses i || s.me.strip.alone || s.me.strip.closing) && !s.me.goesOn i) = true := by
      cases h1 : instrCloses i <;> cases h2 : s.me.strip.alone <;> cases h3 : s.me.strip.closing <;> cases h4 : s.me.goesOn i <;> simp_all
    rw [if_pos hcl']
    cases hs : s.stripClose <;> simp only [hs] at h <;> try contradiction
    rename_i s'
    cases hbd : s'.boundary with
    | some x => simp [hbd] at h
    | none =>
      simp only [hbd, Option.isNone_none, if_true, Option.some.injEq] at h
      subst h
      simp only [hbd, hb]
  · rename_i hcl
    have hcl' : ¬ ((instrCloses i || s.me.strip.alone || s.me.strip.closing) && !s.me.goesOn i) = true := by
      cases h1 : instrCloses i <;> cases h2 : s.me.strip.alone <;> cases h3 : s.me.strip.closing <;> cases h4 : s.me.goesOn i <;> simp_all
    rw [if_neg hcl']
    simp only [Option.some.injEq] at h
    subst h
    rw [hb]
    cases o <;> first | rfl | contradiction

theorem perform_done {i : Instr} {s s1 s2 : State} {body : State → Out} (h : s.entered i = some s1) (hb : body s1 = .done s2) :
    perform i body s = .next (s.completes i s2) :=
  perform_of_entered h hb (by simp)

theorem perform_goes {i : Instr} {s s1 s2 : State} {body : State → Out} (h : s.entered i = some s1) (hb : body s1 = .goes s2) :
    perform i body s = .next (s.jumps i s2) :=
  perform_of_entered h hb (by simp)

/-- An instruction that does not close the strip, in a steady state. -/
theorem State.entered_of_steady {i : Instr} {s : State} (hi : instrCloses i = false) (hs : s.steady = true) :
    s.entered i = some s.openStrip := by
  simp [State.entered, hi, hs]

/-- Opening a strip changes nothing but the strip. -/
theorem Counts.openStrip_only (s : State) : OnlyTrack s s.openStrip ∧ s.openStrip.me.visible = s.me.visible := by
  unfold State.openStrip
  dsimp only
  split
  · exact ⟨OnlyTrack.rfl' s, rfl⟩
  · exact ⟨OnlyTrack.modMe _ _, by rw [State.me_modMe]; rfl⟩

theorem State.openStrip_of_open {s : State} (h : s.me.strip.isOpen = true) : s.openStrip = s := by
  simp [State.openStrip, h]

end Sys2Proof.Machine
end

