-- ==== Sys2Proof/Laws/Close.lean ====
section
/-!
SUPPORT. What the close of a strip does and leaves (R70), said once; what an instruction then finds; and the ways in which its own part
can end.
-/
namespace Sys2Proof.Machine
-- one proof after another: in the package as one text every proof under way holds a thread of its own
set_option Elab.async false

/-- From `s` to `t` no track has changed. -/
structure SameTracks (s t : State) : Prop where
  cur : t.cur = s.cur
  tracks : ∀ c n, t.track c n = s.track c n

theorem SameTracks.rfl' (s : State) : SameTracks s s := ⟨rfl, fun _ _ => rfl⟩

theorem SameTracks.trans {s t u : State} (h : SameTracks s t) (k : SameTracks t u) : SameTracks s u :=
  ⟨k.cur.trans h.cur, fun c n => (k.tracks c n).trans (h.tracks c n)⟩

theorem SameTracks.me {s t : State} (h : SameTracks s t) : t.me = s.me := by unfold State.me; rw [h.cur, h.tracks]

theorem SameTracks.modCore (s : State) (c : Nat) {f : Core → Core} (h : (f (s.core c)).tracks = (s.core c).tracks) :
    SameTracks s (s.modCore c f) := ⟨rfl, fun d m => State.track_modCore_keep s c d m h⟩

/-! Writing buffered granules. -/

theorem SameTracks.setByte (s : State) (pa : Nat) (b : Byte) : SameTracks s (s.setByte pa b) := by
  unfold State.setByte
  dsimp only
  split
  · exact SameTracks.trans (t := { s with mem := mset 0 (s.loc pa) b s.mem }) ⟨rfl, fun _ _ => rfl⟩ (SameTracks.modCore _ _ rfl)
  · exact ⟨rfl, fun _ _ => rfl⟩

theorem SameTracks.setBytes (n : Nat) : ∀ (s : State) (pa v : Nat), SameTracks s (s.setBytes pa n v) := by
  induction n with
  | zero => intro s _ _; exact SameTracks.rfl' s
  | succ n ih => intro s pa v; exact (SameTracks.setByte s pa _).trans (ih _ _ _)

theorem SameTracks.setMasked (n : Nat) : ∀ (s : State) (pa v m : Nat), SameTracks s (s.setMasked pa n v m) := by
  induction n with
  | zero => intro s _ _ _; exact SameTracks.rfl' s
  | succ n ih =>
    intro s pa v m
    unfold State.setMasked
    dsimp only
    split
    · exact ih _ _ _ _
    · exact (SameTracks.setByte s pa _).trans (ih _ _ _ _)

theorem SameTracks.request (s : State) (core unit node addr kind : Nat) (l : List Byte) :
    SameTracks s (s.request core unit node addr kind l) := by
  unfold State.request State.send State.fresh
  dsimp only
  split <;> exact ⟨rfl, fun _ _ => rfl⟩

theorem SameTracks.remoteRun (s : State) (core : Nat) (map : Option (List (Nat × RemoteEntry))) (run : List Byte) (pa : Nat) :
    SameTracks s (s.remoteRun core map run pa) := by
  unfold State.remoteRun
  split
  · exact SameTracks.rfl' s
  · split
    · exact SameTracks.request _ _ _ _ _ _ _
    · exact SameTracks.rfl' s

theorem SameTracks.remoteRuns (core : Nat) (map : Option (List (Nat × RemoteEntry))) (n : Nat) :
    ∀ (s : State) (run : List Byte) (pa v m : Nat), SameTracks s (s.remoteRuns core map run pa n v m) := by
  induction n with
  | zero => intro s _ _ _ _; exact SameTracks.remoteRun _ _ _ _ _
  | succ n ih =>
    intro s run pa v m
    unfold State.remoteRuns
    split
    · exact ih _ _ _ _ _
    · refine SameTracks.trans ?_ (ih _ _ _ _ _)
      refine (SameTracks.remoteRun s core map run pa).trans ?_
      split
      · exact SameTracks.rfl' _
      · split
        · exact SameTracks.request _ _ _ _ _ _ _
        · exact SameTracks.rfl' _

theorem SameTracks.remoteMasked (s : State) (core pa n v m : Nat) (map : Option (List (Nat × RemoteEntry))) :
    SameTracks s (s.remoteMasked core pa n v m map) := SameTracks.remoteRuns _ _ _ _ _ _ _ _

theorem SameTracks.endRels (n : Nat) : ∀ (s : State) (pa : Nat), SameTracks s (s.endRels pa n) := by
  induction n with
  | zero => intro s _; exact SameTracks.rfl' s
  | succ n ih =>
    intro s pa
    exact SameTracks.trans (t := { s with rels := mset [] (s.loc pa) [] s.rels }) ⟨rfl, fun _ _ => rfl⟩ (ih _ _)

/-- A fold of steps each of which changes no track. -/
theorem SameTracks.foldl {α : Type} {f : State → α → State} (h : ∀ s a, SameTracks s (f s a)) (l : List α) :
    ∀ s, SameTracks s (l.foldl f s) := by
  induction l with
  | nil => intro s; exact SameTracks.rfl' s
  | cons a l ih => intro s; exact (h s a).trans (ih _)

/-- Performing buffered granules changes no track. -/
theorem SameTracks.performGranules (core : Nat) (notes : List (Nat × StoreNote)) (l : List Granule) :
    ∀ s, SameTracks s (performGranules core notes l s).1 := by
  induction l with
  | nil => intro s; exact SameTracks.rfl' s
  | cons g l ih =>
    intro s
    unfold Machine.performGranules
    split
    · exact SameTracks.rfl' s
    · dsimp only
      have hf : ∀ (l : List Nat) (s : State), SameTracks s
          (l.foldl (fun s i => if g.mask.toNat / 2 ^ (8 * i) % 256 = 0 then s else s.endRels (g.pa + i) 1) s) := by
        intro l s
        refine SameTracks.foldl (fun s i => ?_) l s
        split
        · exact SameTracks.rfl' s
        · exact SameTracks.endRels _ _ _
      have hw : ∀ s : State, SameTracks s (match area g.pa with
          | .remote _ _ => s.remoteMasked core g.pa 8 g.data.toNat g.mask.toNat ((mget {} g.pa notes).slot.map fun e => [e])
          | _ => s.setMasked g.pa 8 g.data.toNat g.mask.toNat) := by
        intro s
        split
        · exact SameTracks.remoteMasked _ _ _ _ _ _ _
        · exact SameTracks.setMasked _ _ _ _ _
      exact ((hf _ s).trans (hw _)).trans (ih _)

theorem Core.freeTo_tracks (k : Core) (q start : Nat) : (k.freeTo q start).tracks = k.tracks := by
  unfold Core.freeTo; split <;> rfl

theorem Core.freePops_tracks (k : Core) (n : Nat) : (k.freePops n).tracks = k.tracks := by
  have h : ∀ (l : List (Nat × Stream)) (k : Core), (l.foldl (fun k e => k.freeTo e.1 e.2.pos) k).tracks = k.tracks := by
    intro l
    induction l with
    | nil => intro k; rfl
    | cons e l ih => intro k; rw [List.foldl_cons, ih, Core.freeTo_tracks]
  exact h _ k

/-! The close. -/

/-- A strip that closes without a trap or a wait changes no track but its own, and there the strip alone (R70). -/
theorem State.stripClose_done {s t : State} (h : s.stripClose = .done t) :
    t.cur = s.cur ∧ t.me.visible = s.me.visible ∧ ∀ c n, (c, n) ≠ s.cur → t.track c n = s.track c n := by
  unfold State.stripClose at h
  dsimp only at h
  split at h
  · cases h; exact ⟨rfl, rfl, fun _ _ _ => rfl⟩
  · split at h
    · cases h
    · split at h
      · cases h
      have hp := SameTracks.performGranules s.cur.1 s.me.strip.notes (s.me.strip.buf ++ s.me.strip.pushes) s
      generalize Machine.performGranules s.cur.1 s.me.strip.notes (s.me.strip.buf ++ s.me.strip.pushes) s = r at h hp
      obtain ⟨u, rest, w⟩ := r
      dsimp only at h hp
      split at h
      · cases h
      · split at h
        · cases h
        split at h
        · cases h
        · cases h
          have hf : SameTracks u (u.modMyCore fun k => (k.freePops u.cur.2).count 0x22 1) :=
            SameTracks.modCore _ _ (by rw [Core.count_tracks, Core.freePops_tracks])
          have hs := hp.trans hf
          refine ⟨hs.cur, ?_, fun c n hc => ?_⟩
          · rw [State.me_modMe, hs.me]; rfl
          · rw [State.track_modMe_other _ _ (by rw [hs.cur]; exact hc), hs.tracks]

/-- What an instruction finds when its own part begins: its track as it was but for the strip, and every other track as it was. -/
theorem State.entered_keeps {s s1 : State} {i : Instr} (h : s.entered i = some s1) :
    s1.cur = s.cur ∧ s1.me.visible = s.me.visible ∧ ∀ c n, (c, n) ≠ s.cur → s1.track c n = s.track c n := by
  unfold State.entered at h
  split at h
  · cases hs : s.stripClose <;> simp only [hs] at h <;> try contradiction
    rename_i u
    obtain ⟨hc, hv, ht⟩ := State.stripClose_done hs
    cases hb : u.boundary with
    | some x => simp [hb] at h
    | none =>
      simp only [hb, Option.isNone_none, if_true, Option.some.injEq] at h
      subst h
      have ho := Counts.openStrip_only u
      refine ⟨ho.1.cur_eq.trans hc, ho.2.trans hv, fun c n hn => ?_⟩
      rw [ho.1.tracks c n (by rw [hc]; exact hn), ht c n hn]
  · simp only [Option.some.injEq] at h
    subst h
    have ho := Counts.openStrip_only s
    exact ⟨ho.1.cur_eq, ho.2, ho.1.tracks⟩

/-- Registers are what they were before the strip closed. -/
theorem State.entered_x {s s1 : State} {i : Instr} (h : s.entered i = some s1) (r : Reg) : s1.x r = s.x r :=
  have hv := congrArg (fun t : Track => t.getX r) (State.entered_keeps h).2.1
  hv

theorem State.entered_pc {s s1 : State} {i : Instr} (h : s.entered i = some s1) : s1.me.pc = s.me.pc :=
  have hv := congrArg (fun t : Track => t.pc) (State.entered_keeps h).2.1
  hv

theorem State.entered_super {s s1 : State} {i : Instr} (h : s.entered i = some s1) : s1.me.super = s.me.super :=
  have hv := congrArg (fun t : Track => t.super) (State.entered_keeps h).2.1
  hv

/-! The other ways in which an own part ends. -/

theorem perform_trap {i : Instr} {s s1 s2 : State} {body : State → Out} {f : TrapInfo} (h : s.entered i = some s1)
    (hb : body s1 = .trap f s2) :
    perform i body s = .next (((s2.modMe fun t => { t with wait := none, touched := [] }).syncFault f).endStepWith []) :=
  perform_of_entered h hb (by simp)

theorem perform_faulty {i : Instr} {s s1 s2 : State} {body : State → Out} {c : Cause} {a : Word} {e : Nat} (h : s.entered i = some s1)
    (hb : body s1 = faulty c s2 a e) (he : exec i s = perform i body s) : Faults s i s2 c a e := by
  unfold Faults; rw [he]; exact perform_trap h hb

theorem perform_wait {i : Instr} {s s1 s2 : State} {body : State → Out} {k : WaitKind} {o : Nat} (h : s.entered i = some s1)
    (hb : body s1 = .wait k o s2) (he : exec i s = perform i body s) : Waits s i s2 k o := by
  unfold Waits; rw [he]; exact perform_of_entered h hb (by simp)

theorem perform_completes {i : Instr} {s s1 s2 : State} {body : State → Out} (h : s.entered i = some s1) (hb : body s1 = .done s2)
    (he : exec i s = perform i body s) : Completes s i s2 := by
  unfold Completes; rw [he]; exact perform_done h hb

theorem perform_jumps {i : Instr} {s s1 s2 : State} {body : State → Out} (h : s.entered i = some s1) (hb : body s1 = .goes s2)
    (he : exec i s = perform i body s) : Jumps s i s2 := by
  unfold Jumps; rw [he]; exact perform_goes h hb

/-- A waiting instruction's own part runs again where its track waits for the reason and can move. -/
theorem resumeWait_waits {s : State} {c n : Nat} {k : WaitKind} {w : Wait} {body : Instr → State → Out} (h : s.waitsFor c n k w) :
    resumeWait c n k body s =
      .next (conclude w.instr (s.track c n).vl (s.track c n).pc (body w.instr { s with cur := (c, n) }) { s with cur := (c, n) }) := by
  obtain ⟨hw, hk, hf, hh, he⟩ := h
  unfold resumeWait
  simp [hw, hk, hf, hh, he]

/-- A wait that ends: its instruction completes. -/
theorem resumeWait_completes {s u : State} {event : Instr} {c n : Nat} {k : WaitKind} {w : Wait} {body : Instr → State → Out}
    (h : s.waitsFor c n k w) (hb : body w.instr { s with cur := (c, n) } = .done u) (he : exec event s = resumeWait c n k body s) :
    Resumes s event c n w.instr u := by
  unfold Resumes; rw [he, resumeWait_waits h, hb]; rfl

end Sys2Proof.Machine
end

