-- ==== Sys2Proof/Laws/Exec.lean ====
section
/-!
SUPPORT. `exec` of each constructor is its meaning: proofs rewrite with these and never unfold the dispatch.
-/
namespace Sys2Proof.Machine
-- one proof after another: in the package as one text every proof under way holds a thread of its own
set_option Elab.async false

@[simp] theorem exec_add d a b (s : State) : exec (.add d a b) s = execAdd d a b s := rfl
@[simp] theorem exec_sub d a b (s : State) : exec (.sub d a b) s = execSub d a b s := rfl
@[simp] theorem exec_and d a b (s : State) : exec (.and d a b) s = execAnd d a b s := rfl
@[simp] theorem exec_or d a b (s : State) : exec (.or d a b) s = execOr d a b s := rfl
@[simp] theorem exec_xor d a b (s : State) : exec (.xor d a b) s = execXor d a b s := rfl
@[simp] theorem exec_shl d a b (s : State) : exec (.shl d a b) s = execShl d a b s := rfl
@[simp] theorem exec_shr d a b (s : State) : exec (.shr d a b) s = execShr d a b s := rfl
@[simp] theorem exec_sra d a b (s : State) : exec (.sra d a b) s = execSra d a b s := rfl
@[simp] theorem exec_slt d a b (s : State) : exec (.slt d a b) s = execSlt d a b s := rfl
@[simp] theorem exec_sltn d a b (s : State) : exec (.sltn d a b) s = execSltn d a b s := rfl
@[simp] theorem exec_min d a b (s : State) : exec (.min d a b) s = execMin d a b s := rfl
@[simp] theorem exec_max d a b (s : State) : exec (.max d a b) s = execMax d a b s := rfl
@[simp] theorem exec_minn d a b (s : State) : exec (.minn d a b) s = execMinn d a b s := rfl
@[simp] theorem exec_maxn d a b (s : State) : exec (.maxn d a b) s = execMaxn d a b s := rfl
@[simp] theorem exec_mul d a b (s : State) : exec (.mul d a b) s = execMul d a b s := rfl
@[simp] theorem exec_mulh d a b (s : State) : exec (.mulh d a b) s = execMulh d a b s := rfl
@[simp] theorem exec_mulhn d a b (s : State) : exec (.mulhn d a b) s = execMulhn d a b s := rfl
@[simp] theorem exec_div d a b (s : State) : exec (.div d a b) s = execDiv d a b s := rfl
@[simp] theorem exec_divn d a b (s : State) : exec (.divn d a b) s = execDivn d a b s := rfl
@[simp] theorem exec_rem d a b (s : State) : exec (.rem d a b) s = execRem d a b s := rfl
@[simp] theorem exec_remn d a b (s : State) : exec (.remn d a b) s = execRemn d a b s := rfl
@[simp] theorem exec_clz d a (s : State) : exec (.clz d a) s = execClz d a s := rfl
@[simp] theorem exec_ctz d a (s : State) : exec (.ctz d a) s = execCtz d a s := rfl
@[simp] theorem exec_popc d a (s : State) : exec (.popc d a) s = execPopc d a s := rfl
@[simp] theorem exec_sel d a b c (s : State) : exec (.sel d a b c) s = execSel d a b c s := rfl
@[simp] theorem exec_ext d a b (s : State) : exec (.ext d a b) s = execExt d a b s := rfl
@[simp] theorem exec_ins d a b (s : State) : exec (.ins d a b) s = execIns d a b s := rfl
@[simp] theorem exec_addi d a imm (s : State) : exec (.addi d a imm) s = execAddi d a imm s := rfl
@[simp] theorem exec_andi d a imm (s : State) : exec (.andi d a imm) s = execAndi d a imm s := rfl
@[simp] theorem exec_ori d a imm (s : State) : exec (.ori d a imm) s = execOri d a imm s := rfl
@[simp] theorem exec_xori d a imm (s : State) : exec (.xori d a imm) s = execXori d a imm s := rfl
@[simp] theorem exec_slti d a imm (s : State) : exec (.slti d a imm) s = execSlti d a imm s := rfl
@[simp] theorem exec_sltni d a imm (s : State) : exec (.sltni d a imm) s = execSltni d a imm s := rfl
@[simp] theorem exec_shli d a sh (s : State) : exec (.shli d a sh) s = execShli d a sh s := rfl
@[simp] theorem exec_shri d a sh (s : State) : exec (.shri d a sh) s = execShri d a sh s := rfl
@[simp] theorem exec_srai d a sh (s : State) : exec (.srai d a sh) s = execSrai d a sh s := rfl
@[simp] theorem exec_lui d imm (s : State) : exec (.lui d imm) s = execLui d imm s := rfl
@[simp] theorem exec_adpc d imm (s : State) : exec (.adpc d imm) s = execAdpc d imm s := rfl
@[simp] theorem exec_fadd p d a b rm (s : State) : exec (.fadd p d a b rm) s = execFadd p d a b rm s := rfl
@[simp] theorem exec_fsub p d a b rm (s : State) : exec (.fsub p d a b rm) s = execFsub p d a b rm s := rfl
@[simp] theorem exec_fmul p d a b rm (s : State) : exec (.fmul p d a b rm) s = execFmul p d a b rm s := rfl
@[simp] theorem exec_fma p d a b rm (s : State) : exec (.fma p d a b rm) s = execFma p d a b rm s := rfl
@[simp] theorem exec_fdiv p d a b rm (s : State) : exec (.fdiv p d a b rm) s = execFdiv p d a b rm s := rfl
@[simp] theorem exec_fsqrt p d a rm (s : State) : exec (.fsqrt p d a rm) s = execFsqrt p d a rm s := rfl
@[simp] theorem exec_fmin p d a b (s : State) : exec (.fmin p d a b) s = execFmin p d a b s := rfl
@[simp] theorem exec_fmax p d a b (s : State) : exec (.fmax p d a b) s = execFmax p d a b s := rfl
@[simp] theorem exec_fcmp p c d a b (s : State) : exec (.fcmp p c d a b) s = execFcmp p c d a b s := rfl
@[simp] theorem exec_fcvt p k d a rm (s : State) : exec (.fcvt p k d a rm) s = execFcvt p k d a rm s := rfl
@[simp] theorem exec_fclass p d a (s : State) : exec (.fclass p d a) s = execFclass p d a s := rfl
@[simp] theorem exec_ld z d a imm (s : State) : exec (.ld z d a imm) s = execLd z d a imm s := rfl
@[simp] theorem exec_st z src a imm (s : State) : exec (.st z src a imm) s = execSt z src a imm s := rfl
@[simp] theorem exec_pref write a imm (s : State) : exec (.pref write a imm) s = execPref write a imm s := rfl
@[simp] theorem exec_amoSwap d a b o sc z (s : State) : exec (.amoSwap d a b o sc z) s = execAmoSwap d a b o sc z s := rfl
@[simp] theorem exec_amoAdd d a b o sc z (s : State) : exec (.amoAdd d a b o sc z) s = execAmoAdd d a b o sc z s := rfl
@[simp] theorem exec_amoAnd d a b o sc z (s : State) : exec (.amoAnd d a b o sc z) s = execAmoAnd d a b o sc z s := rfl
@[simp] theorem exec_amoOr d a b o sc z (s : State) : exec (.amoOr d a b o sc z) s = execAmoOr d a b o sc z s := rfl
@[simp] theorem exec_amoXor d a b o sc z (s : State) : exec (.amoXor d a b o sc z) s = execAmoXor d a b o sc z s := rfl
@[simp] theorem exec_amoMin d a b o sc z (s : State) : exec (.amoMin d a b o sc z) s = execAmoMin d a b o sc z s := rfl
@[simp] theorem exec_amoMax d a b o sc z (s : State) : exec (.amoMax d a b o sc z) s = execAmoMax d a b o sc z s := rfl
@[simp] theorem exec_amoMinn d a b o sc z (s : State) : exec (.amoMinn d a b o sc z) s = execAmoMinn d a b o sc z s := rfl
@[simp] theorem exec_amoMaxn d a b o sc z (s : State) : exec (.amoMaxn d a b o sc z) s = execAmoMaxn d a b o sc z s := rfl
@[simp] theorem exec_amoFadd d a b o sc p (s : State) : exec (.amoFadd d a b o sc p) s = execAmoFadd d a b o sc p s := rfl
@[simp] theorem exec_cas d a b o sc z (s : State) : exec (.cas d a b o sc z) s = execCas d a b o sc z s := rfl
@[simp] theorem exec_fence o sc (s : State) : exec (.fence o sc) s = execFence o sc s := rfl
@[simp] theorem exec_beq a b off (s : State) : exec (.beq a b off) s = execBeq a b off s := rfl
@[simp] theorem exec_bne a b off (s : State) : exec (.bne a b off) s = execBne a b off s := rfl
@[simp] theorem exec_blt a b off (s : State) : exec (.blt a b off) s = execBlt a b off s := rfl
@[simp] theorem exec_bge a b off (s : State) : exec (.bge a b off) s = execBge a b off s := rfl
@[simp] theorem exec_bltn a b off (s : State) : exec (.bltn a b off) s = execBltn a b off s := rfl
@[simp] theorem exec_bgen a b off (s : State) : exec (.bgen a b off) s = execBgen a b off s := rfl
@[simp] theorem exec_jal d off (s : State) : exec (.jal d off) s = execJal d off s := rfl
@[simp] theorem exec_jalr d a imm (s : State) : exec (.jalr d a imm) s = execJalr d a imm s := rfl
@[simp] theorem exec_sysrd d n (s : State) : exec (.sysrd d n) s = execSysrd d n s := rfl
@[simp] theorem exec_syswr n a (s : State) : exec (.syswr n a) s = execSyswr n a s := rfl
@[simp] theorem exec_trap a code (s : State) : exec (.trap a code) s = execTrap a code s := rfl
@[simp] theorem exec_trapAck (s : State) : exec .trapAck s = execTrapAck s := rfl
@[simp] theorem exec_trapRet (s : State) : exec .trapRet s = execTrapRet s := rfl
@[simp] theorem exec_brk (s : State) : exec .brk s = execBrk s := rfl
@[simp] theorem exec_cflush a (s : State) : exec (.cflush a) s = execCflush a s := rfl
@[simp] theorem exec_tlbinv a b mode (s : State) : exec (.tlbinv a b mode) s = execTlbinv a b mode s := rfl
@[simp] theorem exec_traceMark a (s : State) : exec (.traceMark a) s = execTraceMark a s := rfl
@[simp] theorem exec_freeze d a (s : State) : exec (.freeze d a) s = execFreeze d a s := rfl
@[simp] theorem exec_thaw d a (s : State) : exec (.thaw d a) s = execThaw d a s := rfl
@[simp] theorem exec_thawV d a (s : State) : exec (.thawV d a) s = execThawV d a s := rfl
@[simp] theorem exec_imgSave d a b (s : State) : exec (.imgSave d a b) s = execImgSave d a b s := rfl
@[simp] theorem exec_imgLoad d a b (s : State) : exec (.imgLoad d a b) s = execImgLoad d a b s := rfl
@[simp] theorem exec_spawn d a b place (s : State) : exec (.spawn d a b place) s = execSpawn d a b place s := rfl
@[simp] theorem exec_cont a b (s : State) : exec (.cont a b) s = execCont a b s := rfl
@[simp] theorem exec_exit (s : State) : exec .exit s = execExit s := rfl
@[simp] theorem exec_yield n (s : State) : exec (.yield n) s = execYield n s := rfl
@[simp] theorem exec_launch d a (s : State) : exec (.launch d a) s = execLaunch d a s := rfl
@[simp] theorem exec_trigger (s : State) : exec .trigger s = execTrigger s := rfl
@[simp] theorem exec_setvl d a (s : State) : exec (.setvl d a) s = execSetvl d a s := rfl
@[simp] theorem exec_setvlAdv d a (s : State) : exec (.setvlAdv d a) s = execSetvlAdv d a s := rfl
@[simp] theorem exec_lanes d a (s : State) : exec (.lanes d a) s = execLanes d a s := rfl
@[simp] theorem exec_gclaim d band count (s : State) : exec (.gclaim d band count) s = execGclaim d band count s := rfl
@[simp] theorem exec_gclaimT d band count (s : State) : exec (.gclaimT d band count) s = execGclaimT d band count s := rfl
@[simp] theorem exec_grelease (s : State) : exec .grelease s = execGrelease s := rfl
@[simp] theorem exec_gzero mask (s : State) : exec (.gzero mask) s = execGzero mask s := rfl
@[simp] theorem exec_gpark a band (s : State) : exec (.gpark a band) s = execGpark a band s := rfl
@[simp] theorem exec_gunpark a band (s : State) : exec (.gunpark a band) s = execGunpark a band s := rfl
@[simp] theorem exec_gwait mask (s : State) : exec (.gwait mask) s = execGwait mask s := rfl
@[simp] theorem exec_fmt a (s : State) : exec (.fmt a) s = execFmt a s := rfl
@[simp] theorem exec_opa na nb z qa qb k (s : State) : exec (.opa na nb z qa qb k) s = execOpa na nb z qa qb k s := rfl
@[simp] theorem exec_strmCfg q a (s : State) : exec (.strmCfg q a) s = execStrmCfg q a s := rfl
@[simp] theorem exec_strmIdx q a b (s : State) : exec (.strmIdx q a b) s = execStrmIdx q a b s := rfl
@[simp] theorem exec_strmLink q a (s : State) : exec (.strmLink q a) s = execStrmLink q a s := rfl
@[simp] theorem exec_strmStop q (s : State) : exec (.strmStop q) s = execStrmStop q s := rfl
@[simp] theorem exec_strmSkip q a (s : State) : exec (.strmSkip q a) s = execStrmSkip q a s := rfl
@[simp] theorem exec_cbkLoad slot a (s : State) : exec (.cbkLoad slot a) s = execCbkLoad slot a s := rfl
@[simp] theorem exec_cpy c a (s : State) : exec (.cpy c a) s = execCpy c a s := rfl
@[simp] theorem exec_cpyAbort d c (s : State) : exec (.cpyAbort d c) s = execCpyAbort d c s := rfl
@[simp] theorem exec_mileWait c a (s : State) : exec (.mileWait c a) s = execMileWait c a s := rfl
@[simp] theorem exec_xfLoad slot a (s : State) : exec (.xfLoad slot a) s = execXfLoad slot a s := rfl
@[simp] theorem exec_jctInit a b (s : State) : exec (.jctInit a b) s = execJctInit a b s := rfl
@[simp] theorem exec_jctAdd a b sc (s : State) : exec (.jctAdd a b sc) s = execJctAdd a b sc s := rfl
@[simp] theorem exec_jctWait d a b sc (s : State) : exec (.jctWait d a b sc) s = execJctWait d a b sc s := rfl
@[simp] theorem exec_jctTest d a sc (s : State) : exec (.jctTest d a sc) s = execJctTest d a sc s := rfl
@[simp] theorem exec_barJoin a (s : State) : exec (.barJoin a) s = execBarJoin a s := rfl
@[simp] theorem exec_barArrive d a (s : State) : exec (.barArrive d a) s = execBarArrive d a s := rfl
@[simp] theorem exec_barWait d a b (s : State) : exec (.barWait d a b) s = execBarWait d a b s := rfl
@[simp] theorem exec_barLeave a (s : State) : exec (.barLeave a) s = execBarLeave a s := rfl
@[simp] theorem exec_barReset d a (s : State) : exec (.barReset d a) s = execBarReset d a s := rfl
@[simp] theorem exec_barResetI d a sc (s : State) : exec (.barResetI d a sc) s = execBarResetI d a sc s := rfl
@[simp] theorem exec_meetOpen d a b (s : State) : exec (.meetOpen d a b) s = execMeetOpen d a b s := rfl
@[simp] theorem exec_meetSlot d a b (s : State) : exec (.meetSlot d a b) s = execMeetSlot d a b s := rfl
@[simp] theorem exec_meetArrive d a b (s : State) : exec (.meetArrive d a b) s = execMeetArrive d a b s := rfl
@[simp] theorem exec_meetWait d a b (s : State) : exec (.meetWait d a b) s = execMeetWait d a b s := rfl
@[simp] theorem exec_meetRejoin d a b (s : State) : exec (.meetRejoin d a b) s = execMeetRejoin d a b s := rfl
@[simp] theorem exec_meetClose a (s : State) : exec (.meetClose a) s = execMeetClose a s := rfl
@[simp] theorem exec_crossPost k a (s : State) : exec (.crossPost k a) s = execCrossPost k a s := rfl
@[simp] theorem exec_crossTake d k (s : State) : exec (.crossTake d k) s = execCrossTake d k s := rfl
@[simp] theorem exec_vadd et vd va vb c (s : State) : exec (.vadd et vd va vb c) s = execVadd et vd va vb c s := rfl
@[simp] theorem exec_vsub et vd va vb c (s : State) : exec (.vsub et vd va vb c) s = execVsub et vd va vb c s := rfl
@[simp] theorem exec_vmul et vd va vb c (s : State) : exec (.vmul et vd va vb c) s = execVmul et vd va vb c s := rfl
@[simp] theorem exec_vfma sub et vd va vb vc c (s : State) : exec (.vfma sub et vd va vb vc c) s = execVfma sub et vd va vb vc c s := rfl
@[simp] theorem exec_vdiv et vd va vb c (s : State) : exec (.vdiv et vd va vb c) s = execVdiv et vd va vb c s := rfl
@[simp] theorem exec_vsqrt et vd va c (s : State) : exec (.vsqrt et vd va c) s = execVsqrt et vd va c s := rfl
@[simp] theorem exec_vrcp vd va c (s : State) : exec (.vrcp vd va c) s = execVrcp vd va c s := rfl
@[simp] theorem exec_vrsqrt vd va c (s : State) : exec (.vrsqrt vd va c) s = execVrsqrt vd va c s := rfl
@[simp] theorem exec_vexp2 vd va c (s : State) : exec (.vexp2 vd va c) s = execVexp2 vd va c s := rfl
@[simp] theorem exec_vlog2 vd va c (s : State) : exec (.vlog2 vd va c) s = execVlog2 vd va c s := rfl
@[simp] theorem exec_vtanh vd va c (s : State) : exec (.vtanh vd va c) s = execVtanh vd va c s := rfl
@[simp] theorem exec_vmin et vd va vb p (s : State) : exec (.vmin et vd va vb p) s = execVmin et vd va vb p s := rfl
@[simp] theorem exec_vmax et vd va vb p (s : State) : exec (.vmax et vd va vb p) s = execVmax et vd va vb p s := rfl
@[simp] theorem exec_vsgn sub et vd va vb p (s : State) : exec (.vsgn sub et vd va vb p) s = execVsgn sub et vd va vb p s := rfl
@[simp] theorem exec_vcvt target et vd va c (s : State) : exec (.vcvt target et vd va c) s = execVcvt target et vd va c s := rfl
@[simp] theorem exec_viadd vd va vb sat p (s : State) : exec (.viadd vd va vb sat p) s = execViadd vd va vb sat p s := rfl
@[simp] theorem exec_visub vd va vb sat p (s : State) : exec (.visub vd va vb sat p) s = execVisub vd va vb sat p s := rfl
@[simp] theorem exec_vimul vd va vb sat p (s : State) : exec (.vimul vd va vb sat p) s = execVimul vd va vb sat p s := rfl
@[simp] theorem exec_vshl vd va vb p (s : State) : exec (.vshl vd va vb p) s = execVshl vd va vb p s := rfl
@[simp] theorem exec_vshr vd va vb p (s : State) : exec (.vshr vd va vb p) s = execVshr vd va vb p s := rfl
@[simp] theorem exec_vsra vd va vb p (s : State) : exec (.vsra vd va vb p) s = execVsra vd va vb p s := rfl
@[simp] theorem exec_vand vd va vb p (s : State) : exec (.vand vd va vb p) s = execVand vd va vb p s := rfl
@[simp] theorem exec_vor vd va vb p (s : State) : exec (.vor vd va vb p) s = execVor vd va vb p s := rfl
@[simp] theorem exec_vxor vd va vb p (s : State) : exec (.vxor vd va vb p) s = execVxor vd va vb p s := rfl
@[simp] theorem exec_vimin vd va vb p (s : State) : exec (.vimin vd va vb p) s = execVimin vd va vb p s := rfl
@[simp] theorem exec_vimax vd va vb p (s : State) : exec (.vimax vd va vb p) s = execVimax vd va vb p s := rfl
@[simp] theorem exec_vmv et vd va p (s : State) : exec (.vmv et vd va p) s = execVmv et vd va p s := rfl
@[simp] theorem exec_vsel et vd va vb ms p (s : State) : exec (.vsel et vd va vb ms p) s = execVsel et vd va vb ms p s := rfl
@[simp] theorem exec_vbcast et vd va xi p (s : State) : exec (.vbcast et vd va xi p) s = execVbcast et vd va xi p s := rfl
@[simp] theorem exec_vext et xd va xi (s : State) : exec (.vext et xd va xi) s = execVext et xd va xi s := rfl
@[simp] theorem exec_vins et vd xs xi (s : State) : exec (.vins et vd xs xi) s = execVins et vd xs xi s := rfl
@[simp] theorem exec_vslide down et vd va xo p (s : State) : exec (.vslide down et vd va xo p) s = execVslide down et vd va xo p s := rfl
@[simp] theorem exec_vperm et vd va vb p (s : State) : exec (.vperm et vd va vb p) s = execVperm et vd va vb p s := rfl
@[simp] theorem exec_vred op et vd va rm sat mk (s : State) : exec (.vred op et vd va rm sat mk) s = execVred op et vd va rm sat mk s := rfl
@[simp] theorem exec_vscan op et vd va c (s : State) : exec (.vscan op et vd va c) s = execVscan op et vd va c s := rfl
@[simp] theorem exec_vfcmp cond et md va vb p (s : State) : exec (.vfcmp cond et md va vb p) s = execVfcmp cond et md va vb p s := rfl
@[simp] theorem exec_vicmp cond md va vb p (s : State) : exec (.vicmp cond md va vb p) s = execVicmp cond md va vb p s := rfl
@[simp] theorem exec_mlogic op md ma mb p (s : State) : exec (.mlogic op md ma mb p) s = execMlogic op md ma mb p s := rfl
@[simp] theorem exec_mfirst md ma mk (s : State) : exec (.mfirst md ma mk) s = execMfirst md ma mk s := rfl
@[simp] theorem exec_mpopc xd ma mk (s : State) : exec (.mpopc xd ma mk) s = execMpopc xd ma mk s := rfl
@[simp] theorem exec_mfind xd ma mk (s : State) : exec (.mfind xd ma mk) s = execMfind xd ma mk s := rfl
@[simp] theorem exec_mtox xd ma xh (s : State) : exec (.mtox xd ma xh) s = execMtox xd ma xh s := rfl
@[simp] theorem exec_mfromx md xs xh (s : State) : exec (.mfromx md xs xh) s = execMfromx md xs xh s := rfl
@[simp] theorem exec_vld et vd xs xr p (s : State) : exec (.vld et vd xs xr p) s = execVld et vd xs xr p s := rfl
@[simp] theorem exec_vldx et vd xs vo p (s : State) : exec (.vldx et vd xs vo p) s = execVldx et vd xs vo p s := rfl
@[simp] theorem exec_vldff et vd xs xr p (s : State) : exec (.vldff et vd xs xr p) s = execVldff et vd xs xr p s := rfl
@[simp] theorem exec_vst va xs ad cv (s : State) : exec (.vst va xs ad cv) s = execVst va xs ad cv s := rfl
@[simp] theorem exec_vstx va xs vo cv (s : State) : exec (.vstx va xs vo cv) s = execVstx va xs vo cv s := rfl
@[simp] theorem exec_vatom op et o sc vd xs va vb p (s : State) : exec (.vatom op et o sc vd xs va vb p) s = execVatom op et o sc vd xs va vb p s := rfl
@[simp] theorem exec_vwait cond all wide sc md xt xs va vb mk (s : State) : exec (.vwait cond all wide sc md xt xs va vb mk) s = execVwait cond all wide sc md xt xs va vb mk s := rfl
@[simp] theorem exec_rowfill et row count xs (s : State) : exec (.rowfill et row count xs) s = execRowfill et row count xs s := rfl
@[simp] theorem exec_rowsend row count xs xj (s : State) : exec (.rowsend row count xs xj) s = execRowsend row count xs xj s := rfl
@[simp] theorem exec_gdrain va xs ad xj cv (s : State) : exec (.gdrain va xs ad xj cv) s = execGdrain va xs ad xj cv s := rfl
@[simp] theorem exec_gsave row count xs xj (s : State) : exec (.gsave row count xs xj) s = execGsave row count xs xj s := rfl
@[simp] theorem exec_gload row count xs xj (s : State) : exec (.gload row count xs xj) s = execGload row count xs xj s := rfl
@[simp] theorem exec_lqtailWrite queue w (s : State) : exec (.lqtailWrite queue w) s = execLqtailWrite queue w s := rfl
@[simp] theorem exec_deviceRegisterWrite w (s : State) : exec (.deviceRegisterWrite w) s = execDeviceRegisterWrite w s := rfl
@[simp] theorem exec_queueRecordRead queue (s : State) : exec (.queueRecordRead queue) s = execQueueRecordRead queue s := rfl
@[simp] theorem exec_launchStart serial (s : State) : exec (.launchStart serial) s = execLaunchStart serial s := rfl
@[simp] theorem exec_expanderPush serial at_ (s : State) : exec (.expanderPush serial at_) s = execExpanderPush serial at_ s := rfl
@[simp] theorem exec_tripStart core t (s : State) : exec (.tripStart core t) s = execTripStart core t s := rfl
@[simp] theorem exec_gangStart serial parent (s : State) : exec (.gangStart serial parent) s = execGangStart serial parent s := rfl
@[simp] theorem exec_agingThreshold seq (s : State) : exec (.agingThreshold seq) s = execAgingThreshold seq s := rfl
@[simp] theorem exec_spillReturn seq (s : State) : exec (.spillReturn seq) s = execSpillReturn seq s := rfl
@[simp] theorem exec_launchComplete serial (s : State) : exec (.launchComplete serial) s = execLaunchComplete serial s := rfl
@[simp] theorem exec_stewardWriteRetry serial (s : State) : exec (.stewardWriteRetry serial) s = execStewardWriteRetry serial s := rfl
@[simp] theorem exec_stewardWriteDiscard serial (s : State) : exec (.stewardWriteDiscard serial) s = execStewardWriteDiscard serial s := rfl
@[simp] theorem exec_gridCommandEnter core cmd (s : State) : exec (.gridCommandEnter core cmd) s = execGridCommandEnter core cmd s := rfl
@[simp] theorem exec_opaComplete core cmd (s : State) : exec (.opaComplete core cmd) s = execOpaComplete core cmd s := rfl
@[simp] theorem exec_opaArithTrap core t (s : State) : exec (.opaArithTrap core t) s = execOpaArithTrap core t s := rfl
@[simp] theorem exec_gzeroComplete core cmd (s : State) : exec (.gzeroComplete core cmd) s = execGzeroComplete core cmd s := rfl
@[simp] theorem exec_gparkComplete core cmd (s : State) : exec (.gparkComplete core cmd) s = execGparkComplete core cmd s := rfl
@[simp] theorem exec_gunparkComplete core cmd (s : State) : exec (.gunparkComplete core cmd) s = execGunparkComplete core cmd s := rfl
@[simp] theorem exec_rowfillComplete core cmd (s : State) : exec (.rowfillComplete core cmd) s = execRowfillComplete core cmd s := rfl
@[simp] theorem exec_gdrainComplete core cmd (s : State) : exec (.gdrainComplete core cmd) s = execGdrainComplete core cmd s := rfl
@[simp] theorem exec_gsaveComplete core cmd (s : State) : exec (.gsaveComplete core cmd) s = execGsaveComplete core cmd s := rfl
@[simp] theorem exec_gloadComplete core cmd (s : State) : exec (.gloadComplete core cmd) s = execGloadComplete core cmd s := rfl
@[simp] theorem exec_rowsendArrival core cmd (s : State) : exec (.rowsendArrival core cmd) s = execRowsendArrival core cmd s := rfl
@[simp] theorem exec_rowsendComplete core cmd (s : State) : exec (.rowsendComplete core cmd) s = execRowsendComplete core cmd s := rfl
@[simp] theorem exec_copyStart core c (s : State) : exec (.copyStart core c) s = execCopyStart core c s := rfl
@[simp] theorem exec_copyTransfer core c bytes (s : State) : exec (.copyTransfer core c bytes) s = execCopyTransfer core c bytes s := rfl
@[simp] theorem exec_copyComplete core c (s : State) : exec (.copyComplete core c) s = execCopyComplete core c s := rfl
@[simp] theorem exec_cpyQueueRoom core t (s : State) : exec (.cpyQueueRoom core t) s = execCpyQueueRoom core t s := rfl
@[simp] theorem exec_streamRefill core q (s : State) : exec (.streamRefill core q) s = execStreamRefill core q s := rfl
@[simp] theorem exec_linkFlitArrival core q (s : State) : exec (.linkFlitArrival core q) s = execLinkFlitArrival core q s := rfl
@[simp] theorem exec_graphBlock core c (s : State) : exec (.graphBlock core c) s = execGraphBlock core c s := rfl
@[simp] theorem exec_xfLoadInstall core t (s : State) : exec (.xfLoadInstall core t) s = execXfLoadInstall core t s := rfl
@[simp] theorem exec_offloadTargetFull core c accepted (s : State) : exec (.offloadTargetFull core c accepted) s = execOffloadTargetFull core c accepted s := rfl
@[simp] theorem exec_cxlRetrainFail port (s : State) : exec (.cxlRetrainFail port) s = execCxlRetrainFail port s := rfl
@[simp] theorem exec_loadResponse core t (s : State) : exec (.loadResponse core t) s = execLoadResponse core t s := rfl
@[simp] theorem exec_crossTakeWake core t (s : State) : exec (.crossTakeWake core t) s = execCrossTakeWake core t s := rfl
@[simp] theorem exec_crossPostWake core t (s : State) : exec (.crossPostWake core t) s = execCrossPostWake core t s := rfl
@[simp] theorem exec_gclaimGrant core t (s : State) : exec (.gclaimGrant core t) s = execGclaimGrant core t s := rfl
@[simp] theorem exec_barWaitReturn core t (s : State) : exec (.barWaitReturn core t) s = execBarWaitReturn core t s := rfl
@[simp] theorem exec_barArriveNextPhase core t (s : State) : exec (.barArriveNextPhase core t) s = execBarArriveNextPhase core t s := rfl
@[simp] theorem exec_jctWaitReturn core t (s : State) : exec (.jctWaitReturn core t) s = execJctWaitReturn core t s := rfl
@[simp] theorem exec_mileWaitReturn core t (s : State) : exec (.mileWaitReturn core t) s = execMileWaitReturn core t s := rfl
@[simp] theorem exec_meetArriveReclassify core t (s : State) : exec (.meetArriveReclassify core t) s = execMeetArriveReclassify core t s := rfl
@[simp] theorem exec_meetCombine obj (s : State) : exec (.meetCombine obj) s = execMeetCombine obj s := rfl
@[simp] theorem exec_meetSlotReturn core t (s : State) : exec (.meetSlotReturn core t) s = execMeetSlotReturn core t s := rfl
@[simp] theorem exec_meetWaitReturn core t (s : State) : exec (.meetWaitReturn core t) s = execMeetWaitReturn core t s := rfl
@[simp] theorem exec_meetCloseNotice obj (s : State) : exec (.meetCloseNotice obj) s = execMeetCloseNotice obj s := rfl
@[simp] theorem exec_vwaitReevaluate core t elem (s : State) : exec (.vwaitReevaluate core t elem) s = execVwaitReevaluate core t elem s := rfl
@[simp] theorem exec_vwaitTimeout core t (s : State) : exec (.vwaitTimeout core t) s = execVwaitTimeout core t s := rfl
@[simp] theorem exec_yieldEnd core t (s : State) : exec (.yieldEnd core t) s = execYieldEnd core t s := rfl
@[simp] theorem exec_engineRecordDelivery core t (s : State) : exec (.engineRecordDelivery core t) s = execEngineRecordDelivery core t s := rfl
@[simp] theorem exec_stewardKillTrip core t (s : State) : exec (.stewardKillTrip core t) s = execStewardKillTrip core t s := rfl
@[simp] theorem exec_stewardThawEscalated core t (s : State) : exec (.stewardThawEscalated core t) s = execStewardThawEscalated core t s := rfl
@[simp] theorem exec_pageWalk core t va write (s : State) : exec (.pageWalk core t va write) s = execPageWalk core t va write s := rfl
@[simp] theorem exec_dbgctlHalt core t (s : State) : exec (.dbgctlHalt core t) s = execDbgctlHalt core t s := rfl
@[simp] theorem exec_dbgctlResume core t (s : State) : exec (.dbgctlResume core t) s = execDbgctlResume core t s := rfl
@[simp] theorem exec_dbgctlStep core t (s : State) : exec (.dbgctlStep core t) s = execDbgctlStep core t s := rfl
@[simp] theorem exec_trackHalt core t (s : State) : exec (.trackHalt core t) s = execTrackHalt core t s := rfl
@[simp] theorem exec_gangHaltRequest core t (s : State) : exec (.gangHaltRequest core t) s = execGangHaltRequest core t s := rfl
@[simp] theorem exec_dregdataRead core (s : State) : exec (.dregdataRead core) s = execDregdataRead core s := rfl
@[simp] theorem exec_dregdataWrite core v (s : State) : exec (.dregdataWrite core v) s = execDregdataWrite core v s := rfl
@[simp] theorem exec_lagctlClear core (s : State) : exec (.lagctlClear core) s = execLagctlClear core s := rfl
@[simp] theorem exec_samplerTick core (s : State) : exec (.samplerTick core) s = execSamplerTick core s := rfl
@[simp] theorem exec_traceWindowStop die (s : State) : exec (.traceWindowStop die) s = execTraceWindowStop die s := rfl
@[simp] theorem exec_tracePortDropReport die (s : State) : exec (.tracePortDropReport die) s = execTracePortDropReport die s := rfl
@[simp] theorem exec_sctlRunSet die (s : State) : exec (.sctlRunSet die) s = execSctlRunSet die s := rfl
@[simp] theorem exec_sctlRunClear die (s : State) : exec (.sctlRunClear die) s = execSctlRunClear die s := rfl
@[simp] theorem exec_watchdogKick die (s : State) : exec (.watchdogKick die) s = execWatchdogKick die s := rfl
@[simp] theorem exec_watchdogExpire die (s : State) : exec (.watchdogExpire die) s = execWatchdogExpire die s := rfl
@[simp] theorem exec_ssyncWrite die v (s : State) : exec (.ssyncWrite die v) s = execSsyncWrite die v s := rfl
@[simp] theorem exec_slcapWrite core v (s : State) : exec (.slcapWrite core v) s = execSlcapWrite core v s := rfl
@[simp] theorem exec_powerSample watts (s : State) : exec (.powerSample watts) s = execPowerSample watts s := rfl
@[simp] theorem exec_powerThrottleLift (s : State) : exec .powerThrottleLift s = execPowerThrottleLift s := rfl
@[simp] theorem exec_thermalSense die degrees (s : State) : exec (.thermalSense die degrees) s = execThermalSense die degrees s := rfl
@[simp] theorem exec_thermalCapLift die (s : State) : exec (.thermalCapLift die) s = execThermalCapLift die s := rfl
@[simp] theorem exec_thermalTrip die (s : State) : exec (.thermalTrip die) s = execThermalTrip die s := rfl
@[simp] theorem exec_moduleReset (s : State) : exec .moduleReset s = execModuleReset s := rfl
@[simp] theorem exec_errorReport u corrected (s : State) : exec (.errorReport u corrected) s = execErrorReport u corrected s := rfl
@[simp] theorem exec_targetedUnitTest u pass (s : State) : exec (.targetedUnitTest u pass) s = execTargetedUnitTest u pass s := rfl
@[simp] theorem exec_coreRemoval core (s : State) : exec (.coreRemoval core) s = execCoreRemoval core s := rfl
@[simp] theorem exec_freezeArrival core (s : State) : exec (.freezeArrival core) s = execFreezeArrival core s := rfl
@[simp] theorem exec_imageSeal core (s : State) : exec (.imageSeal core) s = execImageSeal core s := rfl
@[simp] theorem exec_sealTimeout core (s : State) : exec (.sealTimeout core) s = execSealTimeout core s := rfl
@[simp] theorem exec_holdNotice core q (s : State) : exec (.holdNotice core q) s = execHoldNotice core q s := rfl
@[simp] theorem exec_holdAck core q (s : State) : exec (.holdAck core q) s = execHoldAck core q s := rfl
@[simp] theorem exec_releaseNotice core q (s : State) : exec (.releaseNotice core q) s = execReleaseNotice core q s := rfl
@[simp] theorem exec_frozenCoreRetry core t (s : State) : exec (.frozenCoreRetry core t) s = execFrozenCoreRetry core t s := rfl
@[simp] theorem exec_imageEngineStart cluster (s : State) : exec (.imageEngineStart cluster) s = execImageEngineStart cluster s := rfl
@[simp] theorem exec_imageSaveComplete cluster (s : State) : exec (.imageSaveComplete cluster) s = execImageSaveComplete cluster s := rfl
@[simp] theorem exec_imageLoadComplete cluster (s : State) : exec (.imageLoadComplete cluster) s = execImageLoadComplete cluster s := rfl
@[simp] theorem exec_imageCommandPause cluster (s : State) : exec (.imageCommandPause cluster) s = execImageCommandPause cluster s := rfl
@[simp] theorem exec_lesanRead p (s : State) : exec (.lesanRead p) s = execLesanRead p s := rfl
@[simp] theorem exec_lesanReadData p (s : State) : exec (.lesanReadData p) s = execLesanReadData p s := rfl
@[simp] theorem exec_lesanWrite p (s : State) : exec (.lesanWrite p) s = execLesanWrite p s := rfl
@[simp] theorem exec_lesanWriteAck p (s : State) : exec (.lesanWriteAck p) s = execLesanWriteAck p s := rfl
@[simp] theorem exec_lesanAtomic p (s : State) : exec (.lesanAtomic p) s = execLesanAtomic p s := rfl
@[simp] theorem exec_lesanAtomicResult p (s : State) : exec (.lesanAtomicResult p) s = execLesanAtomicResult p s := rfl
@[simp] theorem exec_lesanMeetingArrival p (s : State) : exec (.lesanMeetingArrival p) s = execLesanMeetingArrival p s := rfl
@[simp] theorem exec_lesanMeetingStatus p (s : State) : exec (.lesanMeetingStatus p) s = execLesanMeetingStatus p s := rfl
@[simp] theorem exec_lesanMeetingResult p (s : State) : exec (.lesanMeetingResult p) s = execLesanMeetingResult p s := rfl
@[simp] theorem exec_lesanAcceptLimitNotice p (s : State) : exec (.lesanAcceptLimitNotice p) s = execLesanAcceptLimitNotice p s := rfl
@[simp] theorem exec_lesanAckOnly p (s : State) : exec (.lesanAckOnly p) s = execLesanAckOnly p s := rfl
@[simp] theorem exec_lesanRetransmit node (s : State) : exec (.lesanRetransmit node) s = execLesanRetransmit node s := rfl
@[simp] theorem exec_lesanConnectionDown node (s : State) : exec (.lesanConnectionDown node) s = execLesanConnectionDown node s := rfl
@[simp] theorem exec_ethernetFrameDrop port (s : State) : exec (.ethernetFrameDrop port) s = execEthernetFrameDrop port s := rfl
@[simp] theorem exec_gridEngineTransfer core cmd (s : State) : exec (.gridEngineTransfer core cmd) s = execGridEngineTransfer core cmd s := rfl
@[simp] theorem exec_cbkLoadComplete core cmd (s : State) : exec (.cbkLoadComplete core cmd) s = execCbkLoadComplete core cmd s := rfl
@[simp] theorem exec_linkCreditReturn core q (s : State) : exec (.linkCreditReturn core q) s = execLinkCreditReturn core q s := rfl
@[simp] theorem exec_clockCycle (s : State) : exec .clockCycle s = execClockCycle s := rfl
@[simp] theorem exec_debugAccessTimeout core (s : State) : exec (.debugAccessTimeout core) s = execDebugAccessTimeout core s := rfl
@[simp] theorem exec_hostMemoryAccess a (s : State) : exec (.hostMemoryAccess a) s = execHostMemoryAccess a s := rfl
@[simp] theorem exec_cxlFlushAck core t (s : State) : exec (.cxlFlushAck core t) s = execCxlFlushAck core t s := rfl

end Sys2Proof.Machine
end

