-- ==== Sys2Proof/Laws/PerInstr.lean ====
section
/-!
SUPPORT. What holds of every instruction as syntax, one lemma for each constructor: an encoding is at most two words (R315).
-/
namespace Sys2Proof.Laws.EncodeLen
-- one proof after another: in the package as one text every proof under way holds a thread of its own
set_option Elab.async false

/-- The encoding has at most two words. -/
def Statement (i : Instr) : Prop := (encode i).length ≤ 2
theorem add (d a b : Reg) : Statement (.add d a b) := Nat.le_of_ble_eq_true rfl
theorem sub (d a b : Reg) : Statement (.sub d a b) := Nat.le_of_ble_eq_true rfl
theorem and (d a b : Reg) : Statement (.and d a b) := Nat.le_of_ble_eq_true rfl
theorem or (d a b : Reg) : Statement (.or d a b) := Nat.le_of_ble_eq_true rfl
theorem xor (d a b : Reg) : Statement (.xor d a b) := Nat.le_of_ble_eq_true rfl
theorem shl (d a b : Reg) : Statement (.shl d a b) := Nat.le_of_ble_eq_true rfl
theorem shr (d a b : Reg) : Statement (.shr d a b) := Nat.le_of_ble_eq_true rfl
theorem sra (d a b : Reg) : Statement (.sra d a b) := Nat.le_of_ble_eq_true rfl
theorem slt (d a b : Reg) : Statement (.slt d a b) := Nat.le_of_ble_eq_true rfl
theorem sltn (d a b : Reg) : Statement (.sltn d a b) := Nat.le_of_ble_eq_true rfl
theorem min (d a b : Reg) : Statement (.min d a b) := Nat.le_of_ble_eq_true rfl
theorem max (d a b : Reg) : Statement (.max d a b) := Nat.le_of_ble_eq_true rfl
theorem minn (d a b : Reg) : Statement (.minn d a b) := Nat.le_of_ble_eq_true rfl
theorem maxn (d a b : Reg) : Statement (.maxn d a b) := Nat.le_of_ble_eq_true rfl
theorem mul (d a b : Reg) : Statement (.mul d a b) := Nat.le_of_ble_eq_true rfl
theorem mulh (d a b : Reg) : Statement (.mulh d a b) := Nat.le_of_ble_eq_true rfl
theorem mulhn (d a b : Reg) : Statement (.mulhn d a b) := Nat.le_of_ble_eq_true rfl
theorem div (d a b : Reg) : Statement (.div d a b) := Nat.le_of_ble_eq_true rfl
theorem divn (d a b : Reg) : Statement (.divn d a b) := Nat.le_of_ble_eq_true rfl
theorem rem (d a b : Reg) : Statement (.rem d a b) := Nat.le_of_ble_eq_true rfl
theorem remn (d a b : Reg) : Statement (.remn d a b) := Nat.le_of_ble_eq_true rfl
theorem clz (d a : Reg) : Statement (.clz d a) := Nat.le_of_ble_eq_true rfl
theorem ctz (d a : Reg) : Statement (.ctz d a) := Nat.le_of_ble_eq_true rfl
theorem popc (d a : Reg) : Statement (.popc d a) := Nat.le_of_ble_eq_true rfl
theorem sel (d a b c : Reg) : Statement (.sel d a b c) := Nat.le_of_ble_eq_true rfl
theorem ext (d a b : Reg) : Statement (.ext d a b) := Nat.le_of_ble_eq_true rfl
theorem ins (d a b : Reg) : Statement (.ins d a b) := Nat.le_of_ble_eq_true rfl
theorem addi (d a : Reg) (imm : BitVec 16) : Statement (.addi d a imm) := Nat.le_of_ble_eq_true rfl
theorem andi (d a : Reg) (imm : BitVec 16) : Statement (.andi d a imm) := Nat.le_of_ble_eq_true rfl
theorem ori (d a : Reg) (imm : BitVec 16) : Statement (.ori d a imm) := Nat.le_of_ble_eq_true rfl
theorem xori (d a : Reg) (imm : BitVec 16) : Statement (.xori d a imm) := Nat.le_of_ble_eq_true rfl
theorem slti (d a : Reg) (imm : BitVec 16) : Statement (.slti d a imm) := Nat.le_of_ble_eq_true rfl
theorem sltni (d a : Reg) (imm : BitVec 16) : Statement (.sltni d a imm) := Nat.le_of_ble_eq_true rfl
theorem shli (d a : Reg) (sh : Fin 64) : Statement (.shli d a sh) := Nat.le_of_ble_eq_true rfl
theorem shri (d a : Reg) (sh : Fin 64) : Statement (.shri d a sh) := Nat.le_of_ble_eq_true rfl
theorem srai (d a : Reg) (sh : Fin 64) : Statement (.srai d a sh) := Nat.le_of_ble_eq_true rfl
theorem lui (d : Reg) (imm : BitVec 16) : Statement (.lui d imm) := Nat.le_of_ble_eq_true rfl
theorem adpc (d : Reg) (imm : BitVec 16) : Statement (.adpc d imm) := Nat.le_of_ble_eq_true rfl
theorem fadd (p : Prec) (d a b : Reg) (rm : Rounding) : Statement (.fadd p d a b rm) := Nat.le_of_ble_eq_true rfl
theorem fsub (p : Prec) (d a b : Reg) (rm : Rounding) : Statement (.fsub p d a b rm) := Nat.le_of_ble_eq_true rfl
theorem fmul (p : Prec) (d a b : Reg) (rm : Rounding) : Statement (.fmul p d a b rm) := Nat.le_of_ble_eq_true rfl
theorem fma (p : Prec) (d a b : Reg) (rm : Rounding) : Statement (.fma p d a b rm) := Nat.le_of_ble_eq_true rfl
theorem fdiv (p : Prec) (d a b : Reg) (rm : Rounding) : Statement (.fdiv p d a b rm) := Nat.le_of_ble_eq_true rfl
theorem fsqrt (p : Prec) (d a : Reg) (rm : Rounding) : Statement (.fsqrt p d a rm) := Nat.le_of_ble_eq_true rfl
theorem fmin (p : Prec) (d a b : Reg) : Statement (.fmin p d a b) := Nat.le_of_ble_eq_true rfl
theorem fmax (p : Prec) (d a b : Reg) : Statement (.fmax p d a b) := Nat.le_of_ble_eq_true rfl
theorem fcmp (p : Prec) (c : FCond) (d a b : Reg) : Statement (.fcmp p c d a b) := Nat.le_of_ble_eq_true rfl
theorem fcvt (p : Prec) (k : FCvtKind) (d a : Reg) (rm : Rounding) : Statement (.fcvt p k d a rm) := Nat.le_of_ble_eq_true rfl
theorem fclass (p : Prec) (d a : Reg) : Statement (.fclass p d a) := Nat.le_of_ble_eq_true rfl
theorem ld (z : LdSize) (d a : Reg) (imm : BitVec 13) : Statement (.ld z d a imm) := Nat.le_of_ble_eq_true rfl
theorem st (z : Size) (src a : Reg) (imm : BitVec 13) : Statement (.st z src a imm) := Nat.le_of_ble_eq_true rfl
theorem pref (write : Bool) (a : Reg) (imm : BitVec 13) : Statement (.pref write a imm) := Nat.le_of_ble_eq_true rfl
theorem amoSwap (d a b : Reg) (o : MemOrder) (sc : Scope) (z : Size) : Statement (.amoSwap d a b o sc z) := Nat.le_of_ble_eq_true rfl
theorem amoAdd (d a b : Reg) (o : MemOrder) (sc : Scope) (z : Size) : Statement (.amoAdd d a b o sc z) := Nat.le_of_ble_eq_true rfl
theorem amoAnd (d a b : Reg) (o : MemOrder) (sc : Scope) (z : Size) : Statement (.amoAnd d a b o sc z) := Nat.le_of_ble_eq_true rfl
theorem amoOr (d a b : Reg) (o : MemOrder) (sc : Scope) (z : Size) : Statement (.amoOr d a b o sc z) := Nat.le_of_ble_eq_true rfl
theorem amoXor (d a b : Reg) (o : MemOrder) (sc : Scope) (z : Size) : Statement (.amoXor d a b o sc z) := Nat.le_of_ble_eq_true rfl
theorem amoMin (d a b : Reg) (o : MemOrder) (sc : Scope) (z : Size) : Statement (.amoMin d a b o sc z) := Nat.le_of_ble_eq_true rfl
theorem amoMax (d a b : Reg) (o : MemOrder) (sc : Scope) (z : Size) : Statement (.amoMax d a b o sc z) := Nat.le_of_ble_eq_true rfl
theorem amoMinn (d a b : Reg) (o : MemOrder) (sc : Scope) (z : Size) : Statement (.amoMinn d a b o sc z) := Nat.le_of_ble_eq_true rfl
theorem amoMaxn (d a b : Reg) (o : MemOrder) (sc : Scope) (z : Size) : Statement (.amoMaxn d a b o sc z) := Nat.le_of_ble_eq_true rfl
theorem amoFadd (d a b : Reg) (o : MemOrder) (sc : Scope) (p : Prec) : Statement (.amoFadd d a b o sc p) := Nat.le_of_ble_eq_true rfl
theorem cas (d a b : Reg) (o : MemOrder) (sc : Scope) (z : Size) : Statement (.cas d a b o sc z) := Nat.le_of_ble_eq_true rfl
theorem fence (o : FenceOrder) (sc : Scope) : Statement (.fence o sc) := Nat.le_of_ble_eq_true rfl
theorem beq (a b : Reg) (off : BitVec 16) : Statement (.beq a b off) := Nat.le_of_ble_eq_true rfl
theorem bne (a b : Reg) (off : BitVec 16) : Statement (.bne a b off) := Nat.le_of_ble_eq_true rfl
theorem blt (a b : Reg) (off : BitVec 16) : Statement (.blt a b off) := Nat.le_of_ble_eq_true rfl
theorem bge (a b : Reg) (off : BitVec 16) : Statement (.bge a b off) := Nat.le_of_ble_eq_true rfl
theorem bltn (a b : Reg) (off : BitVec 16) : Statement (.bltn a b off) := Nat.le_of_ble_eq_true rfl
theorem bgen (a b : Reg) (off : BitVec 16) : Statement (.bgen a b off) := Nat.le_of_ble_eq_true rfl
theorem jal (d : Reg) (off : BitVec 21) : Statement (.jal d off) := Nat.le_of_ble_eq_true rfl
theorem jalr (d a : Reg) (imm : BitVec 16) : Statement (.jalr d a imm) := Nat.le_of_ble_eq_true rfl
theorem sysrd (d : Reg) (n : Fin 4096) : Statement (.sysrd d n) := Nat.le_of_ble_eq_true rfl
theorem syswr (n : Fin 4096) (a : Reg) : Statement (.syswr n a) := Nat.le_of_ble_eq_true rfl
theorem trap (a : Reg) (code : Fin 32) : Statement (.trap a code) := Nat.le_of_ble_eq_true rfl
theorem trapAck : Statement .trapAck := Nat.le_of_ble_eq_true rfl
theorem trapRet : Statement .trapRet := Nat.le_of_ble_eq_true rfl
theorem brk : Statement .brk := Nat.le_of_ble_eq_true rfl
theorem cflush (a : Reg) : Statement (.cflush a) := Nat.le_of_ble_eq_true rfl
theorem tlbinv (a b : Reg) (mode : TlbMode) : Statement (.tlbinv a b mode) := Nat.le_of_ble_eq_true rfl
theorem traceMark (a : Reg) : Statement (.traceMark a) := Nat.le_of_ble_eq_true rfl
theorem freeze (d a : Reg) : Statement (.freeze d a) := Nat.le_of_ble_eq_true rfl
theorem thaw (d a : Reg) : Statement (.thaw d a) := Nat.le_of_ble_eq_true rfl
theorem thawV (d a : Reg) : Statement (.thawV d a) := Nat.le_of_ble_eq_true rfl
theorem imgSave (d a b : Reg) : Statement (.imgSave d a b) := Nat.le_of_ble_eq_true rfl
theorem imgLoad (d a b : Reg) : Statement (.imgLoad d a b) := Nat.le_of_ble_eq_true rfl
theorem spawn (d a b : Reg) (place : Place) : Statement (.spawn d a b place) := Nat.le_of_ble_eq_true rfl
theorem cont (a b : Reg) : Statement (.cont a b) := Nat.le_of_ble_eq_true rfl
theorem exit : Statement .exit := Nat.le_of_ble_eq_true rfl
theorem yield (n : Fin 32) : Statement (.yield n) := Nat.le_of_ble_eq_true rfl
theorem launch (d a : Reg) : Statement (.launch d a) := Nat.le_of_ble_eq_true rfl
theorem trigger : Statement .trigger := Nat.le_of_ble_eq_true rfl
theorem setvl (d a : Reg) : Statement (.setvl d a) := Nat.le_of_ble_eq_true rfl
theorem setvlAdv (d a : Reg) : Statement (.setvlAdv d a) := Nat.le_of_ble_eq_true rfl
theorem lanes (d a : Reg) : Statement (.lanes d a) := Nat.le_of_ble_eq_true rfl
theorem gclaim (d : Reg) (band count : Fin 4) : Statement (.gclaim d band count) := Nat.le_of_ble_eq_true rfl
theorem gclaimT (d : Reg) (band count : Fin 4) : Statement (.gclaimT d band count) := Nat.le_of_ble_eq_true rfl
theorem grelease : Statement .grelease := Nat.le_of_ble_eq_true rfl
theorem gzero (mask : BitVec 4) : Statement (.gzero mask) := Nat.le_of_ble_eq_true rfl
theorem gpark (a : Reg) (band : Fin 4) : Statement (.gpark a band) := Nat.le_of_ble_eq_true rfl
theorem gunpark (a : Reg) (band : Fin 4) : Statement (.gunpark a band) := Nat.le_of_ble_eq_true rfl
theorem gwait (mask : BitVec 4) : Statement (.gwait mask) := Nat.le_of_ble_eq_true rfl
theorem fmt (a : Reg) : Statement (.fmt a) := Nat.le_of_ble_eq_true rfl
theorem opa (na nb z : Bool) (qa qb : Q8) (k : Reg) : Statement (.opa na nb z qa qb k) := Nat.le_of_ble_eq_true rfl
theorem strmCfg (q : Q8) (a : Reg) : Statement (.strmCfg q a) := Nat.le_of_ble_eq_true rfl
theorem strmIdx (q : Q8) (a b : Reg) : Statement (.strmIdx q a b) := Nat.le_of_ble_eq_true rfl
theorem strmLink (q : Q8) (a : Reg) : Statement (.strmLink q a) := Nat.le_of_ble_eq_true rfl
theorem strmStop (q : Q8) : Statement (.strmStop q) := Nat.le_of_ble_eq_true rfl
theorem strmSkip (q : Q8) (a : Reg) : Statement (.strmSkip q a) := Nat.le_of_ble_eq_true rfl
theorem cbkLoad (slot : Fin 4) (a : Reg) : Statement (.cbkLoad slot a) := Nat.le_of_ble_eq_true rfl
theorem cpy (c : Q8) (a : Reg) : Statement (.cpy c a) := Nat.le_of_ble_eq_true rfl
theorem cpyAbort (d : Reg) (c : Q8) : Statement (.cpyAbort d c) := Nat.le_of_ble_eq_true rfl
theorem mileWait (c : Q8) (a : Reg) : Statement (.mileWait c a) := Nat.le_of_ble_eq_true rfl
theorem xfLoad (slot : Fin 4) (a : Reg) : Statement (.xfLoad slot a) := Nat.le_of_ble_eq_true rfl
theorem jctInit (a b : Reg) : Statement (.jctInit a b) := Nat.le_of_ble_eq_true rfl
theorem jctAdd (a b : Reg) (sc : Scope) : Statement (.jctAdd a b sc) := Nat.le_of_ble_eq_true rfl
theorem jctWait (d a b : Reg) (sc : Scope) : Statement (.jctWait d a b sc) := Nat.le_of_ble_eq_true rfl
theorem jctTest (d a : Reg) (sc : Scope) : Statement (.jctTest d a sc) := Nat.le_of_ble_eq_true rfl
theorem barJoin (a : Reg) : Statement (.barJoin a) := Nat.le_of_ble_eq_true rfl
theorem barArrive (d a : Reg) : Statement (.barArrive d a) := Nat.le_of_ble_eq_true rfl
theorem barWait (d a b : Reg) : Statement (.barWait d a b) := Nat.le_of_ble_eq_true rfl
theorem barLeave (a : Reg) : Statement (.barLeave a) := Nat.le_of_ble_eq_true rfl
theorem barReset (d a : Reg) : Statement (.barReset d a) := Nat.le_of_ble_eq_true rfl
theorem barResetI (d a : Reg) (sc : Scope) : Statement (.barResetI d a sc) := Nat.le_of_ble_eq_true rfl
theorem meetOpen (d a b : Reg) : Statement (.meetOpen d a b) := Nat.le_of_ble_eq_true rfl
theorem meetSlot (d a b : Reg) : Statement (.meetSlot d a b) := Nat.le_of_ble_eq_true rfl
theorem meetArrive (d a b : Reg) : Statement (.meetArrive d a b) := Nat.le_of_ble_eq_true rfl
theorem meetWait (d a b : Reg) : Statement (.meetWait d a b) := Nat.le_of_ble_eq_true rfl
theorem meetRejoin (d a b : Reg) : Statement (.meetRejoin d a b) := Nat.le_of_ble_eq_true rfl
theorem meetClose (a : Reg) : Statement (.meetClose a) := Nat.le_of_ble_eq_true rfl
theorem crossPost (k : Q8) (a : Reg) : Statement (.crossPost k a) := Nat.le_of_ble_eq_true rfl
theorem crossTake (d : Reg) (k : Q8) : Statement (.crossTake d k) := Nat.le_of_ble_eq_true rfl
theorem vadd (et : FD) (vd va vb : View) (c : VCtl) : Statement (.vadd et vd va vb c) := Nat.le_of_ble_eq_true rfl
theorem vsub (et : FD) (vd va vb : View) (c : VCtl) : Statement (.vsub et vd va vb c) := Nat.le_of_ble_eq_true rfl
theorem vmul (et : FD) (vd va vb : View) (c : VCtl) : Statement (.vmul et vd va vb c) := Nat.le_of_ble_eq_true rfl
theorem vfma (sub : FmaSub) (et : FD) (vd va vb vc : View) (c : VCtl) : Statement (.vfma sub et vd va vb vc c) := Nat.le_of_ble_eq_true rfl
theorem vdiv (et : FD) (vd va vb : View) (c : VCtl) : Statement (.vdiv et vd va vb c) := Nat.le_of_ble_eq_true rfl
theorem vsqrt (et : FD) (vd va : View) (c : VCtl) : Statement (.vsqrt et vd va c) := Nat.le_of_ble_eq_true rfl
theorem vrcp (vd va : View) (c : VCtl) : Statement (.vrcp vd va c) := Nat.le_of_ble_eq_true rfl
theorem vrsqrt (vd va : View) (c : VCtl) : Statement (.vrsqrt vd va c) := Nat.le_of_ble_eq_true rfl
theorem vexp2 (vd va : View) (c : VCtl) : Statement (.vexp2 vd va c) := Nat.le_of_ble_eq_true rfl
theorem vlog2 (vd va : View) (c : VCtl) : Statement (.vlog2 vd va c) := Nat.le_of_ble_eq_true rfl
theorem vtanh (vd va : View) (c : VCtl) : Statement (.vtanh vd va c) := Nat.le_of_ble_eq_true rfl
theorem vmin (et : FD) (vd va vb : View) (p : VPol) : Statement (.vmin et vd va vb p) := Nat.le_of_ble_eq_true rfl
theorem vmax (et : FD) (vd va vb : View) (p : VPol) : Statement (.vmax et vd va vb p) := Nat.le_of_ble_eq_true rfl
theorem vsgn (sub : SgnSub) (et : FD) (vd va vb : View) (p : VPol) : Statement (.vsgn sub et vd va vb p) := Nat.le_of_ble_eq_true rfl
theorem vcvt (target : ElemType) (et : Et) (vd va : View) (c : VCtl) : Statement (.vcvt target et vd va c) := Nat.le_of_ble_eq_true rfl
theorem viadd (vd va vb : View) (sat : Bool) (p : VPol) : Statement (.viadd vd va vb sat p) := Nat.le_of_ble_eq_true rfl
theorem visub (vd va vb : View) (sat : Bool) (p : VPol) : Statement (.visub vd va vb sat p) := Nat.le_of_ble_eq_true rfl
theorem vimul (vd va vb : View) (sat : Bool) (p : VPol) : Statement (.vimul vd va vb sat p) := Nat.le_of_ble_eq_true rfl
theorem vshl (vd va vb : View) (p : VPol) : Statement (.vshl vd va vb p) := Nat.le_of_ble_eq_true rfl
theorem vshr (vd va vb : View) (p : VPol) : Statement (.vshr vd va vb p) := Nat.le_of_ble_eq_true rfl
theorem vsra (vd va vb : View) (p : VPol) : Statement (.vsra vd va vb p) := Nat.le_of_ble_eq_true rfl
theorem vand (vd va vb : View) (p : VPol) : Statement (.vand vd va vb p) := Nat.le_of_ble_eq_true rfl
theorem vor (vd va vb : View) (p : VPol) : Statement (.vor vd va vb p) := Nat.le_of_ble_eq_true rfl
theorem vxor (vd va vb : View) (p : VPol) : Statement (.vxor vd va vb p) := Nat.le_of_ble_eq_true rfl
theorem vimin (vd va vb : View) (p : VPol) : Statement (.vimin vd va vb p) := Nat.le_of_ble_eq_true rfl
theorem vimax (vd va vb : View) (p : VPol) : Statement (.vimax vd va vb p) := Nat.le_of_ble_eq_true rfl
theorem vmv (et : Et) (vd va : View) (p : VPol) : Statement (.vmv et vd va p) := Nat.le_of_ble_eq_true rfl
theorem vsel (et : Et) (vd va vb : View) (ms : MReg) (p : VPol) : Statement (.vsel et vd va vb ms p) := Nat.le_of_ble_eq_true rfl
theorem vbcast (et : Et) (vd va : View) (xi : Reg) (p : VPol) : Statement (.vbcast et vd va xi p) := Nat.le_of_ble_eq_true rfl
theorem vext (et : Et) (xd : Reg) (va : View) (xi : Reg) : Statement (.vext et xd va xi) := Nat.le_of_ble_eq_true rfl
theorem vins (et : Et) (vd : View) (xs xi : Reg) : Statement (.vins et vd xs xi) := Nat.le_of_ble_eq_true rfl
theorem vslide (down : Bool) (et : Et) (vd va : View) (xo : Reg) (p : VPol) : Statement (.vslide down et vd va xo p) := Nat.le_of_ble_eq_true rfl
theorem vperm (et : Et) (vd va vb : View) (p : VPol) : Statement (.vperm et vd va vb p) := Nat.le_of_ble_eq_true rfl
theorem vred (op : RedOp) (et : Et) (vd va : View) (rm : Rounding) (sat : Bool) (mk : MReg) : Statement (.vred op et vd va rm sat mk) := Nat.le_of_ble_eq_true rfl
theorem vscan (op : RedOp) (et : Et) (vd va : View) (c : VCtl) : Statement (.vscan op et vd va c) := Nat.le_of_ble_eq_true rfl
theorem vfcmp (cond : VfCond) (et : FD) (md : MReg) (va vb : View) (p : VPol) : Statement (.vfcmp cond et md va vb p) := Nat.le_of_ble_eq_true rfl
theorem vicmp (cond : ICond) (md : MReg) (va vb : View) (p : VPol) : Statement (.vicmp cond md va vb p) := Nat.le_of_ble_eq_true rfl
theorem mlogic (op : LogicOp) (md ma mb : MReg) (p : VPol) : Statement (.mlogic op md ma mb p) := Nat.le_of_ble_eq_true rfl
theorem mfirst (md ma mk : MReg) : Statement (.mfirst md ma mk) := Nat.le_of_ble_eq_true rfl
theorem mpopc (xd : Reg) (ma mk : MReg) : Statement (.mpopc xd ma mk) := Nat.le_of_ble_eq_true rfl
theorem mfind (xd : Reg) (ma mk : MReg) : Statement (.mfind xd ma mk) := Nat.le_of_ble_eq_true rfl
theorem mtox (xd : Reg) (ma : MReg) (xh : Reg) : Statement (.mtox xd ma xh) := Nat.le_of_ble_eq_true rfl
theorem mfromx (md : MReg) (xs xh : Reg) : Statement (.mfromx md xs xh) := Nat.le_of_ble_eq_true rfl
theorem vld (et : ElemType) (vd : View) (xs xr : Reg) (p : VPol) : Statement (.vld et vd xs xr p) := Nat.le_of_ble_eq_true rfl
theorem vldx (et : ElemType) (vd : View) (xs : Reg) (vo : View) (p : VPol) : Statement (.vldx et vd xs vo p) := Nat.le_of_ble_eq_true rfl
theorem vldff (et : ElemType) (vd : View) (xs xr : Reg) (p : VPol) : Statement (.vldff et vd xs xr p) := Nat.le_of_ble_eq_true rfl
theorem vst (va : View) (xs : Reg) (ad : StoreAddr) (cv : VConv) : Statement (.vst va xs ad cv) := by cases ad <;> exact Nat.le_of_ble_eq_true rfl
theorem vstx (va : View) (xs : Reg) (vo : View) (cv : VConv) : Statement (.vstx va xs vo cv) := Nat.le_of_ble_eq_true rfl
theorem vatom (op : AmoOp) (et : ElemType) (o : MemOrder) (sc : Scope) (vd : View) (xs : Reg) (va vb : View) (p : VPol) : Statement (.vatom op et o sc vd xs va vb p) := Nat.le_of_ble_eq_true rfl
theorem vwait (cond : ICond) (all wide : Bool) (sc : Scope) (md : MReg) (xt xs : Reg) (va vb : View) (mk : MReg) : Statement (.vwait cond all wide sc md xt xs va vb mk) := Nat.le_of_ble_eq_true rfl
theorem rowfill (et : ElemType) (row : Fin 128) (count : Fin 8) (xs : Reg) : Statement (.rowfill et row count xs) := Nat.le_of_ble_eq_true rfl
theorem rowsend (row : Fin 128) (count : Fin 8) (xs xj : Reg) : Statement (.rowsend row count xs xj) := Nat.le_of_ble_eq_true rfl
theorem gdrain (va : View) (xs : Reg) (ad : DrainAddr) (xj : Reg) (cv : VConv) : Statement (.gdrain va xs ad xj cv) := by cases ad <;> exact Nat.le_of_ble_eq_true rfl
theorem gsave (row : Fin 128) (count : Fin 32) (xs xj : Reg) : Statement (.gsave row count xs xj) := Nat.le_of_ble_eq_true rfl
theorem gload (row : Fin 128) (count : Fin 32) (xs xj : Reg) : Statement (.gload row count xs xj) := Nat.le_of_ble_eq_true rfl
theorem lqtailWrite (queue : Nat) (w : DevWrite) : Statement (.lqtailWrite queue w) := Nat.le_of_ble_eq_true rfl
theorem deviceRegisterWrite (w : DevWrite) : Statement (.deviceRegisterWrite w) := Nat.le_of_ble_eq_true rfl
theorem queueRecordRead (queue : Nat) : Statement (.queueRecordRead queue) := Nat.le_of_ble_eq_true rfl
theorem launchStart (serial : Nat) : Statement (.launchStart serial) := Nat.le_of_ble_eq_true rfl
theorem expanderPush (serial : Nat) (at_ : Inst) : Statement (.expanderPush serial at_) := Nat.le_of_ble_eq_true rfl
theorem tripStart (core t : Nat) : Statement (.tripStart core t) := Nat.le_of_ble_eq_true rfl
theorem gangStart (serial parent : Nat) : Statement (.gangStart serial parent) := Nat.le_of_ble_eq_true rfl
theorem agingThreshold (seq : Nat) : Statement (.agingThreshold seq) := Nat.le_of_ble_eq_true rfl
theorem spillReturn (seq : Nat) : Statement (.spillReturn seq) := Nat.le_of_ble_eq_true rfl
theorem launchComplete (serial : Nat) : Statement (.launchComplete serial) := Nat.le_of_ble_eq_true rfl
theorem stewardWriteRetry (serial : Nat) : Statement (.stewardWriteRetry serial) := Nat.le_of_ble_eq_true rfl
theorem stewardWriteDiscard (serial : Nat) : Statement (.stewardWriteDiscard serial) := Nat.le_of_ble_eq_true rfl
theorem gridCommandEnter (core cmd : Nat) : Statement (.gridCommandEnter core cmd) := Nat.le_of_ble_eq_true rfl
theorem opaComplete (core cmd : Nat) : Statement (.opaComplete core cmd) := Nat.le_of_ble_eq_true rfl
theorem opaArithTrap (core t : Nat) : Statement (.opaArithTrap core t) := Nat.le_of_ble_eq_true rfl
theorem gzeroComplete (core cmd : Nat) : Statement (.gzeroComplete core cmd) := Nat.le_of_ble_eq_true rfl
theorem gparkComplete (core cmd : Nat) : Statement (.gparkComplete core cmd) := Nat.le_of_ble_eq_true rfl
theorem gunparkComplete (core cmd : Nat) : Statement (.gunparkComplete core cmd) := Nat.le_of_ble_eq_true rfl
theorem rowfillComplete (core cmd : Nat) : Statement (.rowfillComplete core cmd) := Nat.le_of_ble_eq_true rfl
theorem gdrainComplete (core cmd : Nat) : Statement (.gdrainComplete core cmd) := Nat.le_of_ble_eq_true rfl
theorem gsaveComplete (core cmd : Nat) : Statement (.gsaveComplete core cmd) := Nat.le_of_ble_eq_true rfl
theorem gloadComplete (core cmd : Nat) : Statement (.gloadComplete core cmd) := Nat.le_of_ble_eq_true rfl
theorem rowsendArrival (core cmd : Nat) : Statement (.rowsendArrival core cmd) := Nat.le_of_ble_eq_true rfl
theorem rowsendComplete (core cmd : Nat) : Statement (.rowsendComplete core cmd) := Nat.le_of_ble_eq_true rfl
theorem copyStart (core : Nat) (c : Q8) : Statement (.copyStart core c) := Nat.le_of_ble_eq_true rfl
theorem copyTransfer (core : Nat) (c : Q8) (bytes : Nat) : Statement (.copyTransfer core c bytes) := Nat.le_of_ble_eq_true rfl
theorem copyComplete (core : Nat) (c : Q8) : Statement (.copyComplete core c) := Nat.le_of_ble_eq_true rfl
theorem cpyQueueRoom (core t : Nat) : Statement (.cpyQueueRoom core t) := Nat.le_of_ble_eq_true rfl
theorem streamRefill (core : Nat) (q : Q8) : Statement (.streamRefill core q) := Nat.le_of_ble_eq_true rfl
theorem linkFlitArrival (core : Nat) (q : Q8) : Statement (.linkFlitArrival core q) := Nat.le_of_ble_eq_true rfl
theorem graphBlock (core : Nat) (c : Q8) : Statement (.graphBlock core c) := Nat.le_of_ble_eq_true rfl
theorem xfLoadInstall (core t : Nat) : Statement (.xfLoadInstall core t) := Nat.le_of_ble_eq_true rfl
theorem offloadTargetFull (core : Nat) (c : Q8) (accepted : Nat) : Statement (.offloadTargetFull core c accepted) := Nat.le_of_ble_eq_true rfl
theorem cxlRetrainFail (port : Nat) : Statement (.cxlRetrainFail port) := Nat.le_of_ble_eq_true rfl
theorem loadResponse (core t : Nat) : Statement (.loadResponse core t) := Nat.le_of_ble_eq_true rfl
theorem crossTakeWake (core t : Nat) : Statement (.crossTakeWake core t) := Nat.le_of_ble_eq_true rfl
theorem crossPostWake (core t : Nat) : Statement (.crossPostWake core t) := Nat.le_of_ble_eq_true rfl
theorem gclaimGrant (core t : Nat) : Statement (.gclaimGrant core t) := Nat.le_of_ble_eq_true rfl
theorem barWaitReturn (core t : Nat) : Statement (.barWaitReturn core t) := Nat.le_of_ble_eq_true rfl
theorem barArriveNextPhase (core t : Nat) : Statement (.barArriveNextPhase core t) := Nat.le_of_ble_eq_true rfl
theorem jctWaitReturn (core t : Nat) : Statement (.jctWaitReturn core t) := Nat.le_of_ble_eq_true rfl
theorem mileWaitReturn (core t : Nat) : Statement (.mileWaitReturn core t) := Nat.le_of_ble_eq_true rfl
theorem meetArriveReclassify (core t : Nat) : Statement (.meetArriveReclassify core t) := Nat.le_of_ble_eq_true rfl
theorem meetCombine (obj : Nat) : Statement (.meetCombine obj) := Nat.le_of_ble_eq_true rfl
theorem meetSlotReturn (core t : Nat) : Statement (.meetSlotReturn core t) := Nat.le_of_ble_eq_true rfl
theorem meetWaitReturn (core t : Nat) : Statement (.meetWaitReturn core t) := Nat.le_of_ble_eq_true rfl
theorem meetCloseNotice (obj : Nat) : Statement (.meetCloseNotice obj) := Nat.le_of_ble_eq_true rfl
theorem vwaitReevaluate (core t elem : Nat) : Statement (.vwaitReevaluate core t elem) := Nat.le_of_ble_eq_true rfl
theorem vwaitTimeout (core t : Nat) : Statement (.vwaitTimeout core t) := Nat.le_of_ble_eq_true rfl
theorem yieldEnd (core t : Nat) : Statement (.yieldEnd core t) := Nat.le_of_ble_eq_true rfl
theorem engineRecordDelivery (core t : Nat) : Statement (.engineRecordDelivery core t) := Nat.le_of_ble_eq_true rfl
theorem stewardKillTrip (core t : Nat) : Statement (.stewardKillTrip core t) := Nat.le_of_ble_eq_true rfl
theorem stewardThawEscalated (core t : Nat) : Statement (.stewardThawEscalated core t) := Nat.le_of_ble_eq_true rfl
theorem pageWalk (core t : Nat) (va : Word) (write : Bool) : Statement (.pageWalk core t va write) := Nat.le_of_ble_eq_true rfl
theorem dbgctlHalt (core t : Nat) : Statement (.dbgctlHalt core t) := Nat.le_of_ble_eq_true rfl
theorem dbgctlResume (core t : Nat) : Statement (.dbgctlResume core t) := Nat.le_of_ble_eq_true rfl
theorem dbgctlStep (core t : Nat) : Statement (.dbgctlStep core t) := Nat.le_of_ble_eq_true rfl
theorem trackHalt (core t : Nat) : Statement (.trackHalt core t) := Nat.le_of_ble_eq_true rfl
theorem gangHaltRequest (core t : Nat) : Statement (.gangHaltRequest core t) := Nat.le_of_ble_eq_true rfl
theorem dregdataRead (core : Nat) : Statement (.dregdataRead core) := Nat.le_of_ble_eq_true rfl
theorem dregdataWrite (core : Nat) (v : Word) : Statement (.dregdataWrite core v) := Nat.le_of_ble_eq_true rfl
theorem lagctlClear (core : Nat) : Statement (.lagctlClear core) := Nat.le_of_ble_eq_true rfl
theorem samplerTick (core : Nat) : Statement (.samplerTick core) := Nat.le_of_ble_eq_true rfl
theorem traceWindowStop (die : Nat) : Statement (.traceWindowStop die) := Nat.le_of_ble_eq_true rfl
theorem tracePortDropReport (die : Nat) : Statement (.tracePortDropReport die) := Nat.le_of_ble_eq_true rfl
theorem sctlRunSet (die : Nat) : Statement (.sctlRunSet die) := Nat.le_of_ble_eq_true rfl
theorem sctlRunClear (die : Nat) : Statement (.sctlRunClear die) := Nat.le_of_ble_eq_true rfl
theorem watchdogKick (die : Nat) : Statement (.watchdogKick die) := Nat.le_of_ble_eq_true rfl
theorem watchdogExpire (die : Nat) : Statement (.watchdogExpire die) := Nat.le_of_ble_eq_true rfl
theorem ssyncWrite (die : Nat) (v : Word) : Statement (.ssyncWrite die v) := Nat.le_of_ble_eq_true rfl
theorem slcapWrite (core : Nat) (v : Word) : Statement (.slcapWrite core v) := Nat.le_of_ble_eq_true rfl
theorem powerSample (watts : Nat) : Statement (.powerSample watts) := Nat.le_of_ble_eq_true rfl
theorem powerThrottleLift : Statement .powerThrottleLift := Nat.le_of_ble_eq_true rfl
theorem thermalSense (die degrees : Nat) : Statement (.thermalSense die degrees) := Nat.le_of_ble_eq_true rfl
theorem thermalCapLift (die : Nat) : Statement (.thermalCapLift die) := Nat.le_of_ble_eq_true rfl
theorem thermalTrip (die : Nat) : Statement (.thermalTrip die) := Nat.le_of_ble_eq_true rfl
theorem moduleReset : Statement .moduleReset := Nat.le_of_ble_eq_true rfl
theorem errorReport (u : UnitName) (corrected : Bool) : Statement (.errorReport u corrected) := Nat.le_of_ble_eq_true rfl
theorem targetedUnitTest (u : UnitName) (pass : Bool) : Statement (.targetedUnitTest u pass) := Nat.le_of_ble_eq_true rfl
theorem coreRemoval (core : Nat) : Statement (.coreRemoval core) := Nat.le_of_ble_eq_true rfl
theorem freezeArrival (core : Nat) : Statement (.freezeArrival core) := Nat.le_of_ble_eq_true rfl
theorem imageSeal (core : Nat) : Statement (.imageSeal core) := Nat.le_of_ble_eq_true rfl
theorem sealTimeout (core : Nat) : Statement (.sealTimeout core) := Nat.le_of_ble_eq_true rfl
theorem holdNotice (core : Nat) (q : Q8) : Statement (.holdNotice core q) := Nat.le_of_ble_eq_true rfl
theorem holdAck (core : Nat) (q : Q8) : Statement (.holdAck core q) := Nat.le_of_ble_eq_true rfl
theorem releaseNotice (core : Nat) (q : Q8) : Statement (.releaseNotice core q) := Nat.le_of_ble_eq_true rfl
theorem frozenCoreRetry (core t : Nat) : Statement (.frozenCoreRetry core t) := Nat.le_of_ble_eq_true rfl
theorem imageEngineStart (cluster : Nat) : Statement (.imageEngineStart cluster) := Nat.le_of_ble_eq_true rfl
theorem imageSaveComplete (cluster : Nat) : Statement (.imageSaveComplete cluster) := Nat.le_of_ble_eq_true rfl
theorem imageLoadComplete (cluster : Nat) : Statement (.imageLoadComplete cluster) := Nat.le_of_ble_eq_true rfl
theorem imageCommandPause (cluster : Nat) : Statement (.imageCommandPause cluster) := Nat.le_of_ble_eq_true rfl
theorem lesanRead (p : LesanPkt) : Statement (.lesanRead p) := Nat.le_of_ble_eq_true rfl
theorem lesanReadData (p : LesanPkt) : Statement (.lesanReadData p) := Nat.le_of_ble_eq_true rfl
theorem lesanWrite (p : LesanPkt) : Statement (.lesanWrite p) := Nat.le_of_ble_eq_true rfl
theorem lesanWriteAck (p : LesanPkt) : Statement (.lesanWriteAck p) := Nat.le_of_ble_eq_true rfl
theorem lesanAtomic (p : LesanPkt) : Statement (.lesanAtomic p) := Nat.le_of_ble_eq_true rfl
theorem lesanAtomicResult (p : LesanPkt) : Statement (.lesanAtomicResult p) := Nat.le_of_ble_eq_true rfl
theorem lesanMeetingArrival (p : LesanPkt) : Statement (.lesanMeetingArrival p) := Nat.le_of_ble_eq_true rfl
theorem lesanMeetingStatus (p : LesanPkt) : Statement (.lesanMeetingStatus p) := Nat.le_of_ble_eq_true rfl
theorem lesanMeetingResult (p : LesanPkt) : Statement (.lesanMeetingResult p) := Nat.le_of_ble_eq_true rfl
theorem lesanAcceptLimitNotice (p : LesanPkt) : Statement (.lesanAcceptLimitNotice p) := Nat.le_of_ble_eq_true rfl
theorem lesanAckOnly (p : LesanPkt) : Statement (.lesanAckOnly p) := Nat.le_of_ble_eq_true rfl
theorem lesanRetransmit (node : Nat) : Statement (.lesanRetransmit node) := Nat.le_of_ble_eq_true rfl
theorem lesanConnectionDown (node : Nat) : Statement (.lesanConnectionDown node) := Nat.le_of_ble_eq_true rfl
theorem ethernetFrameDrop (port : Nat) : Statement (.ethernetFrameDrop port) := Nat.le_of_ble_eq_true rfl
theorem gridEngineTransfer (core cmd : Nat) : Statement (.gridEngineTransfer core cmd) := Nat.le_of_ble_eq_true rfl
theorem cbkLoadComplete (core cmd : Nat) : Statement (.cbkLoadComplete core cmd) := Nat.le_of_ble_eq_true rfl
theorem linkCreditReturn (core : Nat) (q : Q8) : Statement (.linkCreditReturn core q) := Nat.le_of_ble_eq_true rfl
theorem clockCycle : Statement .clockCycle := Nat.le_of_ble_eq_true rfl
theorem debugAccessTimeout (core : Nat) : Statement (.debugAccessTimeout core) := Nat.le_of_ble_eq_true rfl
theorem hostMemoryAccess (a : HostAccess) : Statement (.hostMemoryAccess a) := Nat.le_of_ble_eq_true rfl
theorem cxlFlushAck (core t : Nat) : Statement (.cxlFlushAck core t) := Nat.le_of_ble_eq_true rfl

end Sys2Proof.Laws.EncodeLen
end

