-- ==== Sys2Proof/Laws/Scalar.lean ====
section
/-!
SUPPORT. How an instruction that keeps the strip open and writes a register, flags, a mask or the pc meets `Sets`, `SetsWithFlags`,
`SetsMask` and `JumpsTo`.
-/
namespace Sys2Proof.Machine
-- one proof after another: in the package as one text every proof under way holds a thread of its own
set_option Elab.async false

/-! What the visible part of a track says of the track. -/

theorem Track.x_of_visible {t w : Track} (h : t.visible = w) : t.x = w.x := by subst h; rfl

theorem Track.m_of_visible {t w : Track} (h : t.visible = w) : t.m = w.m := by subst h; rfl

theorem Track.pc_of_visible {t w : Track} (h : t.visible = w) : t.pc = w.pc := by subst h; rfl

theorem Track.arith_of_visible {t w : Track} (h : t.visible = w) : t.arith = w.arith := by subst h; rfl

theorem Track.x_of_same {t u : Track} (h : t.visible = u.visible) : t.x = u.x := (Track.x_of_visible h).trans rfl

theorem Track.m_of_same {t u : Track} (h : t.visible = u.visible) : t.m = u.m := (Track.m_of_visible h).trans rfl

theorem Track.pc_of_same {t u : Track} (h : t.visible = u.visible) : t.pc = u.pc := (Track.pc_of_visible h).trans rfl

theorem Track.arith_of_same {t u : Track} (h : t.visible = u.visible) : t.arith = u.arith := (Track.arith_of_visible h).trans rfl

theorem Track.getX_of_x {t u : Track} (h : t.x = u.x) (r : Reg) : t.getX r = u.getX r := by unfold Track.getX; rw [h]

theorem Track.getM_of_m {t u : Track} (h : t.m = u.m) (r : MReg) : t.getM r = u.getM r := by unfold Track.getM; rw [h]

theorem Track.setX_visible (t : Track) (r : Reg) (v : Word) : (t.setX r v).visible = { t.visible with x := (t.setX r v).x } := by
  unfold Track.setX; split <;> rfl

theorem Track.setM_visible (t : Track) (r : MReg) (v : Mask128) : (t.setM r v).visible = { t.visible with m := (t.setM r v).m } := by
  unfold Track.setM; split <;> rfl

/-! The state in which an own part begins. -/

theorem State.openStrip_visible (s : State) : s.openStrip.me.visible = s.me.visible := (Counts.openStrip_only s).2

theorem State.openStrip_cur (s : State) : s.openStrip.cur = s.cur := (Counts.openStrip_only s).1.cur_eq

theorem State.openStrip_x (s : State) (r : Reg) : s.openStrip.x r = s.x r :=
  Track.getX_of_x (Track.x_of_same s.openStrip_visible) r

theorem State.openStrip_pc (s : State) : s.openStrip.me.pc = s.me.pc :=
  Track.pc_of_same s.openStrip_visible

theorem State.openStrip_sameStores (s : State) : SameStores s s.openStrip := fun h => by rw [State.openStrip_of_open h]; exact ⟨rfl, rfl⟩

theorem OnlyTrack.setX (s : State) (d : Reg) (v : Word) : OnlyTrack s (s.setX d v) := OnlyTrack.modMe _ _

theorem OnlyTrack.raiseAll (l : List (Nat × Flags)) : ∀ s : State, OnlyTrack s (s.raiseAll l) := by
  induction l with
  | nil => intro s; exact OnlyTrack.rfl' s
  | cons e l ih => intro s; exact (OnlyTrack.modMe s _).trans (ih _)

/-- Raising flags at one element: what is left of the track. -/
theorem State.raiseAll_one (s : State) (f : Flags) (n : Nat) :
    (s.raiseAll [(n, f)]).me = (s.me.raise f).noteArith f n := by
  unfold State.raiseAll; rw [List.foldl_cons, List.foldl_nil, State.me_modMe]

/-! Meeting the four forms. `u` is the state that the own part leaves. -/

theorem sets_of {s : State} {i : Instr} {n : Word} {d : Reg} {v : Word} {body : State → Out} (hs : s.steady = true)
    (hi : instrCloses i = false) (hn : BitVec.ofNat 64 (instrSize i) = n) (he : exec i s = perform i body s)
    (hb : body s.openStrip = .done (s.openStrip.setX d v)) : Sets s i n d v := by
  subst hn
  have hv : (s.completes i (s.openStrip.setX d v)).me.visible =
      { s.me.visible with x := (s.openStrip.me.setX d v).x, pc := s.me.pc + BitVec.ofNat 64 (instrSize i) } := by
    rw [State.completes_visible, State.setX, State.me_modMe, Track.setX_visible, State.openStrip_visible]
  have hx : (s.completes i (s.openStrip.setX d v)).me.x = (s.openStrip.me.setX d v).x :=
    (Track.x_of_visible hv).trans rfl
  refine ⟨s.completes i (s.openStrip.setX d v), ?_, ?_, ?_, ?_, ?_⟩
  · rw [he]; exact perform_done (State.entered_of_steady hi hs) hb
  · exact ((Counts.openStrip_only s).1.trans (OnlyTrack.setX _ _ _)).trans (OnlyTrack.completes _ _ _)
  · intro h
    rw [State.completes_strip _ _ hi]
    simp [State.setX, Track.setX_strip, State.openStrip_of_open h]
  · intro r
    have : (s.completes i (s.openStrip.setX d v)).x r = (s.openStrip.me.setX d v).getX r := Track.getX_of_x hx r
    rw [this, Track.getX_setX]
    have ho : s.openStrip.me.getX r = s.x r := State.openStrip_x s r
    by_cases h : r = d <;> by_cases h2 : d = 0 <;> simp_all
  · rw [hv, hx]

theorem setsMask_of {s : State} {i : Instr} {d : MReg} {v : Mask128} {body : State → Out} (hs : s.steady = true)
    (hi : instrCloses i = false) (hn : instrSize i = 8) (he : exec i s = perform i body s)
    (hb : body s.openStrip = .done (s.openStrip.modMe fun t => t.setM d v)) : SetsMask s i d v := by
  have hv : (s.completes i (s.openStrip.modMe fun t => t.setM d v)).me.visible =
      { s.me.visible with m := (s.openStrip.me.setM d v).m, pc := s.me.pc + 8 } := by
    rw [State.completes_visible, State.me_modMe, Track.setM_visible, State.openStrip_visible, hn]; rfl
  have hx : (s.completes i (s.openStrip.modMe fun t => t.setM d v)).me.m = (s.openStrip.me.setM d v).m :=
    (Track.m_of_visible hv).trans rfl
  refine ⟨s.completes i (s.openStrip.modMe fun t => t.setM d v), ?_, ?_, ?_, ?_, ?_⟩
  · rw [he]; exact perform_done (State.entered_of_steady hi hs) hb
  · exact ((Counts.openStrip_only s).1.trans (OnlyTrack.modMe _ _)).trans (OnlyTrack.completes _ _ _)
  · intro h
    rw [State.completes_strip _ _ hi, State.me_modMe, Track.setM_strip, State.openStrip_of_open h]; exact ⟨rfl, rfl⟩
  · intro r
    have hg : (s.completes i (s.openStrip.modMe fun t => t.setM d v)).mreg r = (s.openStrip.me.setM d v).getM r := by
      unfold State.mreg Track.getM; rw [hx]
    have ho : s.openStrip.me.getM r = s.mreg r := Track.getM_of_m (Track.m_of_same s.openStrip_visible) r
    rw [hg, Track.getM_setM]
    by_cases h : r = d <;> by_cases h2 : d = 0 <;> simp_all
  · rw [hv, hx]

theorem Track.raiseElem_visible (t : Track) (f : Flags) (n : Nat) :
    ((t.raise f).noteArith f n).visible = { t.visible with arith := t.arith ||| f.toArith } := by
  unfold Track.noteArith; split <;> rfl

theorem Track.raiseElem_stores (t : Track) (f : Flags) (n : Nat) :
    ((t.raise f).noteArith f n).strip.buf = t.strip.buf ∧ ((t.raise f).noteArith f n).strip.pushes = t.strip.pushes := by
  unfold Track.noteArith; split <;> exact ⟨rfl, rfl⟩

theorem setsWithFlags_of {s : State} {i : Instr} {d : Reg} {r : Word × Flags} {body : State → Out} (hs : s.steady = true)
    (hi : instrCloses i = false) (hn : instrSize i = 4) (he : exec i s = perform i body s)
    (hb : body s.openStrip = .done ((s.openStrip.setX d r.1).raiseAll [(0, r.2)])) : SetsWithFlags s i d r := by
  have ha : s.openStrip.me.arith = s.me.arith := Track.arith_of_same s.openStrip_visible
  have hsx : (s.openStrip.me.setX d r.1).arith = s.openStrip.me.arith := by unfold Track.setX; split <;> rfl
  have hv : (s.completes i ((s.openStrip.setX d r.1).raiseAll [(0, r.2)])).me.visible =
      { s.me.visible with x := (s.openStrip.me.setX d r.1).x, pc := s.me.pc + 4, arith := s.me.arith ||| r.2.toArith } := by
    rw [State.completes_visible]
    rw [State.raiseAll_one, Track.raiseElem_visible, State.setX, State.me_modMe, Track.setX_visible,
      State.openStrip_visible, hn, hsx, ha]
    rfl
  have hx : (s.completes i ((s.openStrip.setX d r.1).raiseAll [(0, r.2)])).me.x = (s.openStrip.me.setX d r.1).x :=
    (Track.x_of_visible hv).trans rfl
  refine ⟨s.completes i ((s.openStrip.setX d r.1).raiseAll [(0, r.2)]), ?_, ?_, ?_, ?_, ?_⟩
  · rw [he]; exact perform_done (State.entered_of_steady hi hs) hb
  · exact (((Counts.openStrip_only s).1.trans (OnlyTrack.setX _ _ _)).trans (OnlyTrack.raiseAll _ _)).trans (OnlyTrack.completes _ _ _)
  · intro h
    rw [State.completes_strip _ _ hi]
    rw [State.raiseAll_one, (Track.raiseElem_stores _ _ _).1, (Track.raiseElem_stores _ _ _).2, State.setX,
      State.me_modMe, Track.setX_strip, State.openStrip_of_open h]
    exact ⟨rfl, rfl⟩
  · intro q
    have : (s.completes i ((s.openStrip.setX d r.1).raiseAll [(0, r.2)])).x q = (s.openStrip.me.setX d r.1).getX q := Track.getX_of_x hx q
    rw [this, Track.getX_setX]
    have ho : s.openStrip.me.getX q = s.x q := State.openStrip_x s q
    by_cases h : q = d <;> by_cases h2 : d = 0 <;> simp_all
  · rw [hv, hx]

/-- A jump from a state in which only registers have changed. -/
theorem jumpsTo_from {s u : State} {i : Instr} {pc : Word} {w : Option (Reg × Word)} (hi : instrCloses i = false)
    (he : exec i s = .next (s.jumps i (u.goto pc))) (ho : OnlyTrack s u) (hst : SameStores s u)
    (hu : u.me.visible = { s.me.visible with x := u.me.x })
    (hr : ∀ r, u.x r = match w with
      | some (d, v) => if r = d ∧ r ≠ 0 then v else s.x r
      | none => s.x r) : JumpsTo s i pc w := by
  have hv : (s.jumps i (u.goto pc)).me.visible = { u.me.visible with pc := pc } := by
    rw [State.jumps_visible]; unfold State.goto; rw [State.me_modMe]; rfl
  have hx : (s.jumps i (u.goto pc)).me.x = u.me.x :=
    (Track.x_of_visible hv).trans rfl
  refine ⟨s.jumps i (u.goto pc), he, ?_, ?_, ?_, ?_⟩
  · exact (ho.trans (OnlyTrack.modMe _ _)).trans (OnlyTrack.jumps _ _ _)
  · intro h
    rw [State.jumps_strip _ _ hi]; unfold State.goto; rw [State.me_modMe]; exact hst h
  · intro r; exact (Track.getX_of_x hx r).trans (hr r)
  · rw [hv, hu, hx]

theorem jumpsTo_of {s : State} {i : Instr} {pc : Word} {body : State → Out} (hs : s.steady = true) (hi : instrCloses i = false)
    (he : exec i s = perform i body s) (hb : body s.openStrip = .goes (s.openStrip.goto pc)) : JumpsTo s i pc none := by
  have hx : s.openStrip.me.x = s.me.x := Track.x_of_same s.openStrip_visible
  refine jumpsTo_from hi (by rw [he]; exact perform_goes (State.entered_of_steady hi hs) hb) (Counts.openStrip_only s).1
    s.openStrip_sameStores ?_ s.openStrip_x
  rw [State.openStrip_visible, hx]; rfl

/-- A jump that leaves a link. -/
theorem jumpsTo_link {s : State} {i : Instr} {pc : Word} {d : Reg} {v : Word} {body : State → Out} (hs : s.steady = true)
    (hi : instrCloses i = false) (he : exec i s = perform i body s) (hb : body s.openStrip = .goes ((s.openStrip.setX d v).goto pc)) :
    JumpsTo s i pc (some (d, v)) := by
  refine jumpsTo_from hi (by rw [he]; exact perform_goes (State.entered_of_steady hi hs) hb)
    ((Counts.openStrip_only s).1.trans (OnlyTrack.setX _ _ _)) (fun h => ?_) ?_ (fun r => ?_)
  · simp [State.setX, Track.setX_strip, State.openStrip_of_open h]
  · rw [State.setX, State.me_modMe, Track.setX_visible, State.openStrip_visible]
  · have hg : (s.openStrip.setX d v).x r = (s.openStrip.me.setX d v).getX r := by
      unfold State.x; rw [State.setX, State.me_modMe]
    have ho : s.openStrip.me.getX r = s.x r := State.openStrip_x s r
    rw [hg, Track.getX_setX]
    by_cases h : r = d <;> by_cases h2 : d = 0 <;> simp_all

/-- A branch that is not taken, as a jump to the next instruction. -/
theorem jumpsTo_next {s : State} {i : Instr} {body : State → Out} (hs : s.steady = true) (hi : instrCloses i = false)
    (hn : instrSize i = 4) (he : exec i s = perform i body s) (hb : body s.openStrip = .done s.openStrip) :
    JumpsTo s i (s.me.pc + 4) none := by
  have hv : (s.completes i s.openStrip).me.visible = { s.me.visible with pc := s.me.pc + 4 } := by
    rw [State.completes_visible, State.openStrip_visible, hn]; rfl
  have hx : (s.completes i s.openStrip).me.x = s.me.x :=
    (Track.x_of_visible hv).trans rfl
  refine ⟨s.completes i s.openStrip, ?_, ?_, ?_, ?_, ?_⟩
  · rw [he]; exact perform_done (State.entered_of_steady hi hs) hb
  · exact (Counts.openStrip_only s).1.trans (OnlyTrack.completes _ _ _)
  · intro h
    rw [State.completes_strip _ _ hi]; exact s.openStrip_sameStores h
  · intro r; exact Track.getX_of_x hx r
  · rw [hv, hx]; rfl

end Sys2Proof.Machine
end

