-- ==== Sys2Proof/Tests/Slice0.lean ====
section
/-!
SUPPORT. Tests: words of the spec and what they decode to, ill-formed instructions, small steps with results worked out from the
spec's rules, and for each obligation states that meet its hypotheses.
-/
namespace Sys2Proof.Tests
-- one proof after another: in the package as one text every proof under way holds a thread of its own
set_option Elab.async false
open Sys2Proof Sys2Proof.Machine

/-! States for the tests: a user-mode track, its next pc and registers as given. -/

/-- Track 0 of core 0 runs a trip of context 1 at a page mapped for reads, writes and fetches, in user mode. -/
def boot : State := { State.reset.placeWord 0 with schedule := [] }.modCore 0 fun k =>
  { k with tlb := [⟨1, 0x1000000000, 4, 0x10000000DF, false⟩] }

/-- The same in supervisor mode. -/
def sup : State := boot.modMe fun t => { t with super := true }

/-- `s` with registers as given. -/
def withX (s : State) (l : List (Reg × Word)) : State := l.foldl (fun s e => s.setX e.1 e.2) s

/-- What one field of the next state of `exec i s` is. -/
def after {α : Type} (i : Instr) (s : State) (f : State → α) : Option α :=
  match exec i s with
  | .next t => some (f t)
  | .fault _ => none
  | .refused _ => none

/-- The instruction's own part begins in a state of which `p` holds. -/
def begins (s : State) (i : Instr) (p : State → Bool) : Bool :=
  match s.entered i with
  | some s1 => p s1
  | none => false

/-- What tells how an instruction has ended: the pc, the trap registers and the wait. -/
def seen (s : State) : Word × Word × Word × Word × Option WaitKind := (s.me.pc, s.me.tcause, s.me.taddr, s.me.telem, s.me.wait.map (·.kind))

/-- `Completes`, `Faults`, `Waits` and `Resumes`, as checks of what `seen` tells. -/
def completesB (s : State) (i : Instr) (u : State) : Bool := after i s seen == some (seen (s.completes i u))
def jumpsB (s : State) (i : Instr) (u : State) : Bool := after i s seen == some (seen (s.jumps i u))
def faultsB (s : State) (i : Instr) (u : State) (c : Cause) (addr : Word) (elem : Nat) : Bool :=
  after i s seen == some (seen (((u.modMe fun t => { t with wait := none, touched := [] }).syncFault
    { cause := c, addr := addr, elem := BitVec.ofNat 64 elem }).endStepWith []))
def waitsB (s : State) (i : Instr) (u : State) (k : WaitKind) (obj : Nat) : Bool := after i s seen == some (seen (u.park i s.me.vl s.me.pc k obj))
def resumesB (s : State) (event : Instr) (c n : Nat) (i : Instr) (u : State) : Bool :=
  after event s seen == some (seen (State.completes { s with cur := (c, n) } i u))

def accOk (a : Acc) (p : Nat → State → Bool) : Bool :=
  match a with
  | .ok pa u => p pa u
  | .fault _ _ => false
  | .wait _ _ => false
def accFault (a : Acc) (p : Cause → State → Bool) : Bool :=
  match a with
  | .ok _ _ => false
  | .fault c u => p c u
  | .wait _ _ => false
def tryOk {α : Type} (a : Try α) (p : α → State → Bool) : Bool :=
  match a with
  | .ok v u => p v u
  | .stop _ => false

/-- What holds of the state that an event leaves. -/
def leaves (s : State) (i : Instr) (p : State → Bool) : Bool :=
  match exec i s with
  | .next t => p t
  | .fault _ => false
  | .refused _ => false

/-- An address that no remote window serves. -/
def near (pa : Nat) : Bool :=
  match area pa with
  | .remote _ _ => false
  | _ => true

/-- Source: the words that R326, R338 to R361, R401 to R418 and the entries write out. -/
theorem test_decode_register_alu :
  decodeTableWord 32 0x04A63800 = some (.add 5 6 7) ∧
  decodeTableWord 32 0x04A63801 = some (.sub 5 6 7) ∧
  decodeTableWord 32 0x04A63802 = some (.and 5 6 7) ∧
  decodeTableWord 32 0x04A63814 = some (.div 5 6 7) ∧
  decodeTableWord 32 0x04A63815 = some (.divn 5 6 7) ∧
  decodeTableWord 32 0x04A60018 = some (.clz 5 6) ∧
  decodeTableWord 32 0x04A60019 = some (.ctz 5 6) ∧
  decodeTableWord 32 0x04A6001A = some (.popc 5 6) ∧
  decodeTableWord 32 0x04A63A1C = some (.sel 5 6 7 8) ∧
  decodeTableWord 32 0x04A6381D = some (.ext 5 6 7) ∧
  decodeTableWord 32 0x04A6381E = some (.ins 5 6 7) := by decide

/-- Source: the words that R327 and the entries write out. -/
theorem test_decode_immediates :
  decodeTableWord 32 0x08A6FFFF = some (.addi 5 6 0xFFFF) ∧
  decodeTableWord 32 0x0CA600FF = some (.andi 5 6 0xFF) ∧
  decodeTableWord 32 0x10A600FF = some (.ori 5 6 0xFF) ∧
  decodeTableWord 32 0x14A600FF = some (.xori 5 6 0xFF) ∧
  decodeTableWord 32 0x18A6FFFF = some (.slti 5 6 0xFFFF) ∧
  decodeTableWord 32 0x1CA6000A = some (.sltni 5 6 10) ∧
  decodeTableWord 32 0x20A60003 = some (.shli 5 6 3) ∧
  decodeTableWord 32 0x24A60003 = some (.shri 5 6 3) ∧
  decodeTableWord 32 0x28A60003 = some (.srai 5 6 3) ∧
  decodeTableWord 32 0x2CA01234 = some (.lui 5 0x1234) ∧
  decodeTableWord 32 0x31400001 = some (.adpc 10 1) := by decide

/-- Source: the words that R328, R329, R207, R208 and the entries write out. -/
theorem test_decode_scalar_float_and_memory :
  decodeTableWord 32 0x40A63830 = some (.fadd .f64 5 6 7 .rtz) ∧
  decodeTableWord 32 0x44A65FF8 = some (.ld .s32 5 6 0x1FF8) ∧
  decodeTableWord 32 0x48E66010 = some (.st .b8 7 6 16) ∧
  decodeTableWord 32 0x50A63893 = some (.amoAdd 5 6 7 .relaxed .package .b8) ∧
  decodeTableWord 32 0x58000070 = some (.fence .acqRel .package) := by decide

/-- Source: the words that R329 and the entries write out. -/
theorem test_decode_branches :
  decodeTableWord 32 0x60A60003 = some (.beq 5 6 3) ∧
  decodeTableWord 32 0x64A00002 = some (.bne 5 0 2) ∧
  decodeTableWord 32 0x68A6FFFF = some (.blt 5 6 0xFFFF) ∧
  decodeTableWord 32 0x6CA60001 = some (.bge 5 6 1) ∧
  decodeTableWord 32 0x70A6FFFE = some (.bltn 5 6 0xFFFE) ∧
  decodeTableWord 32 0x74A60004 = some (.bgen 5 6 4) ∧
  decodeTableWord 32 0x783FFFFC = some (.jal 1 0x1FFFFC) := by decide

/-- Source: the words that R330, R246 and the entries write out. -/
theorem test_decode_system :
  decodeTableWord 32 0x80A00014 = some (.sysrd 5 0x14) ∧
  decodeTableWord 32 0x80060094 = some (.syswr 0x14 6) ∧
  decodeTableWord 32 0x80060103 = some (.trap 6 3) ∧
  decodeTableWord 32 0x80000120 = some .trapAck ∧
  decodeTableWord 32 0x80000140 = some .trapRet ∧
  decodeTableWord 32 0x80000160 = some .brk ∧
  decodeTableWord 32 0x80060200 = some (.cflush 6) ∧
  decodeTableWord 32 0x80063A21 = some (.tlbinv 6 7 .context) ∧
  decodeTableWord 32 0x80060240 = some (.traceMark 6) ∧
  decodeTableWord 32 0x80A60300 = some (.freeze 5 6) ∧
  decodeTableWord 32 0x80A60320 = some (.thaw 5 6) ∧
  decodeTableWord 32 0x80A60321 = some (.thawV 5 6) ∧
  decodeTableWord 32 0x80A63B40 = some (.imgSave 5 6 7) ∧
  decodeTableWord 32 0x80A63B60 = some (.imgLoad 5 6 7) := by decide

/-- Source: the words that R40, R59, R60, R85, R101 and the entries write out. -/
theorem test_decode_work_and_control :
  decodeTableWord 32 0x84A63800 = some (.spawn 5 6 7 .core) ∧
  decodeTableWord 32 0x84063820 = some (.cont 6 7) ∧
  decodeTableWord 32 0x84000040 = some .exit ∧
  decodeTableWord 32 0x84000065 = some (.yield 5) ∧
  decodeTableWord 32 0x84A60080 = some (.launch 5 6) ∧
  decodeTableWord 32 0x88A60000 = some (.setvl 5 6) ∧
  decodeTableWord 32 0x88A60020 = some (.setvlAdv 5 6) ∧
  decodeTableWord 32 0x88A70040 = some (.lanes 5 7) ∧
  decodeTableWord 32 0x88A00064 = some (.gclaim 5 0 1) ∧
  decodeTableWord 32 0x88A00072 = some (.gclaimT 5 2 0) ∧
  decodeTableWord 32 0x88000080 = some .grelease ∧
  decodeTableWord 32 0x880000A3 = some (.gzero 3) ∧
  decodeTableWord 32 0x880600C1 = some (.gpark 6 1) ∧
  decodeTableWord 32 0x880600E1 = some (.gunpark 6 1) ∧
  decodeTableWord 32 0x88000100 = some (.gwait 0) ∧
  decodeTableWord 32 0x88070120 = some (.fmt 7) ∧
  decodeTableWord 32 0x8C00A400 = some (.opa false false false 0 1 9) ∧
  decodeTableWord 32 0x8D09A400 = some (.opa false true false 2 3 9) ∧
  decodeTableWord 32 0x8C92B800 = some (.opa false false true 4 5 14) := by decide

/-- Source: the words that R156 and the entries write out. -/
theorem test_decode_engines :
  decodeTableWord 32 0x90060002 = some (.strmCfg 2 6) ∧
  decodeTableWord 32 0x90063822 = some (.strmIdx 2 6 7) ∧
  decodeTableWord 32 0x90080043 = some (.strmLink 3 8) ∧
  decodeTableWord 32 0x90000062 = some (.strmStop 2) ∧
  decodeTableWord 32 0x90060082 = some (.strmSkip 2 6) ∧
  decodeTableWord 32 0x900600A1 = some (.cbkLoad 1 6) ∧
  decodeTableWord 32 0x94060001 = some (.cpy 1 6) ∧
  decodeTableWord 32 0x94A00021 = some (.cpyAbort 5 1) ∧
  decodeTableWord 32 0x94060041 = some (.mileWait 1 6) ∧
  decodeTableWord 32 0x94060062 = some (.xfLoad 2 6) := by decide

/-- Source: the words that R76, R215, R333 and the entries write out. -/
theorem test_decode_synchronisation :
  decodeTableWord 32 0x98063800 = some (.jctInit 6 7) ∧
  decodeTableWord 32 0x98063823 = some (.jctAdd 6 7 .die) ∧
  decodeTableWord 32 0x98A63845 = some (.jctWait 5 6 7 .system) ∧
  decodeTableWord 32 0x98A60064 = some (.jctTest 5 6 .package) ∧
  decodeTableWord 32 0x98060200 = some (.barJoin 6) ∧
  decodeTableWord 32 0x98A60220 = some (.barArrive 5 6) ∧
  decodeTableWord 32 0x98A63A40 = some (.barWait 5 6 7) ∧
  decodeTableWord 32 0x98060260 = some (.barLeave 6) ∧
  decodeTableWord 32 0x98A60280 = some (.barReset 5 6) ∧
  decodeTableWord 32 0x98A6028B = some (.barResetI 5 6 .die) ∧
  decodeTableWord 32 0x98A63C00 = some (.meetOpen 5 6 7) ∧
  decodeTableWord 32 0x98A63C20 = some (.meetSlot 5 6 7) ∧
  decodeTableWord 32 0x98A63C40 = some (.meetArrive 5 6 7) ∧
  decodeTableWord 32 0x98A63C60 = some (.meetWait 5 6 7) ∧
  decodeTableWord 32 0x98A63C80 = some (.meetRejoin 5 6 7) ∧
  decodeTableWord 32 0x980604A0 = some (.meetClose 6) ∧
  decodeTableWord 32 0x98090602 = some (.crossPost 2 9) ∧
  decodeTableWord 32 0x98A00622 = some (.crossTake 5 2) := by decide

/-- Source: the words that R318, R323, R334, R430 to R439 and the entries write out. -/
theorem test_decode_vector :
  decodeTableWord 64 0xC0002000E0002814 = some (.vadd .f (.row 5) (.row 5) (.q 0) ⟨.rne, false, false, 0⟩) ∧
  decodeTableWord 64 0x450020A8E0201810 = some (.vmul .f (.row 3) (.row 4) (.col 10) ⟨.rtz, false, true, 2⟩) ∧
  decodeTableWord 64 0xD9802000E0288220 = some (.vmul .f (.diag 16) (.col 8) (.x 19) ⟨.rne, false, false, 0⟩) ∧
  decodeTableWord 64 0x00002000E0790228 = some (.vrsqrt (.diag 32) (.col 10) ⟨.rne, false, false, 0⟩) ∧
  decodeTableWord 64 0xC16A622CE0301A44 = some (.vfma .madd .f (.row 3) (.col 17) (.q 2) (.x 9) ⟨.rna, false, true, 3⟩) ∧
  decodeTableWord 64 0x944C2000E0340200 = some (.vfma .madd .f (.col 0) (.col 0) (.diag 40) (.diag 48) ⟨.rne, false, false, 0⟩) ∧
  decodeTableWord 64 0xD2803440E4000804 = some (.viadd (.row 1) (.row 1) (.x 5) true ⟨false, 0⟩) ∧
  decodeTableWord 64 0xD2802028E850180C = some (.vslide false .f (.row 3) (.row 3) 5 ⟨true, 2⟩) ∧
  decodeTableWord 64 0x00382280E0E03018 = some (.vcvt .bf16 .f (.row 6) (.row 6) ⟨.sr, false, false, 0⟩) ∧
  decodeTableWord 64 0x00002000E8700010 = some (.vred .sum .f (.row 0) (.row 4) .rne false 0) := by decide

/-- Source: the words that R323, R398, R436 and the entries write out. -/
theorem test_decode_masks :
  decodeTableWord 64 0xC4002100EC001808 = some (.vfcmp .lt .f 3 (.row 2) .zero ⟨false, 0⟩) ∧
  decodeTableWord 64 0x01000000EC201804 = some (.mlogic .and 3 1 2 ⟨false, 0⟩) ∧
  decodeTableWord 64 0x00014000EC400008 = some (.mpopc 5 2 0) ∧
  decodeTableWord 64 0xD0018000EC701800 = some (.mfromx 3 6 0) := by decide

/-- Source: the words that R437, R440, R432, R442 and the entries write out. -/
theorem test_decode_vector_memory :
  decodeTableWord 64 0xD0052000F000F800 = some (.vld .fp32 (.row 31) 20 0 ⟨false, 0⟩) ∧
  decodeTableWord 64 0xD0019048F0300020 = some (.vst (.row 8) 6 (.stride 0) ⟨.e4m3, false, .rne, true, 2⟩) ∧
  decodeTableWord 64 0xD0058000F0320000 = some (.vst (.row 0) 22 (.stride 0) ⟨.int8, true, .rne, false, 0⟩) ∧
  decodeTableWord 64 0x01B1AC40F400200B = some (.vatom .add .int32 .acqRel .die (.row 4) 6 (.row 2) (.row 3) ⟨false, 0⟩) ∧
  decodeTableWord 64 0xD4C1B800F4101004 = some (.vwait .eq false true .package 2 0 6 (.row 1) (.x 9) 0) := by decide

/-- Source: the words that R157, R374, R378 and the entries write out. -/
theorem test_decode_grid_memory :
  decodeTableWord 64 0x00019C00F500400C = some (.rowfill .bf16 8 3 6) ∧
  decodeTableWord 64 0xD3818000F5100800 = some (.rowsend 0 1 6 7) ∧
  decodeTableWord 64 0xD3819048F5244820 = some (.gdrain (.row 8) 6 (.scale 7) 9 ⟨.e4m3, false, .rne, true, 2⟩) ∧
  decodeTableWord 64 0xD481B400F530F880 = some (.gsave 32 31 6 9) ∧
  decodeTableWord 64 0xD481B400F541007C = some (.gload 32 31 6 9) := by decide

/-! Encodings that the spec calls reserved or malformed (R317, R318, R335). -/

/-- Source: R335's table. -/
theorem test_reject_reserved_words :
  decodeTableWord 32 0 = none ∧ decodeTableWord 32 0x04A63820 = none ∧ decodeTableWord 32 0x04A63818 = none ∧
  decodeTableWord 32 0x48E68010 = none ∧ decodeTableWord 32 0x58000010 = none ∧ decodeTableWord 32 0x5C000000 = none ∧
  decodeTableWord 64 0xC0000000 = none := by decide

/-! One ill-formed instruction for each check of `Instr.wf`. -/

/-- Source: R331 (registers named), R95 (destinations; the et D rule), R435, R439, R434, R436. -/
theorem test_ill_formed_vectors :
  Instr.wf (.sysrd 5 0x34) = false ∧ Instr.wf (.syswr 0x110 5) = false ∧
  Instr.wf (.vadd .f .iota (.row 0) (.row 0) ⟨.rne, false, false, 0⟩) = false ∧
  Instr.wf (.vadd .d (.row 0) (.col 3) (.row 0) ⟨.rne, false, false, 0⟩) = false ∧
  Instr.wf (.vadd .d (.row 0) (.row 0) (.diag 64) ⟨.rne, false, false, 0⟩) = false ∧
  Instr.wf (.vfma .madd .d (.row 0) (.row 0) (.row 0) (.col 1) ⟨.rne, false, false, 0⟩) = false ∧
  Instr.wf (.vrcp (.x 5) (.row 0) ⟨.rne, false, false, 0⟩) = false ∧
  Instr.wf (.vcvt .int64 .f (.row 0) (.row 0) ⟨.rne, false, false, 0⟩) = false ∧
  Instr.wf (.vcvt .fp64 .f (.col 1) (.row 0) ⟨.rne, false, false, 0⟩) = false ∧
  Instr.wf (.viadd .zero (.row 0) (.row 0) false ⟨false, 0⟩) = false ∧
  Instr.wf (.vmv .d (.diag 100) (.row 0) ⟨false, 0⟩) = false ∧
  Instr.wf (.vext .d 5 (.col 1) 6) = false ∧ Instr.wf (.vins .f (.q 0) 5 6) = false ∧
  Instr.wf (.vred .max .f (.row 0) (.row 1) .rtz false 0) = false ∧ Instr.wf (.vred .sum .f (.q 0) (.row 1) .rne false 0) = false ∧
  Instr.wf (.vscan .min .f (.row 0) (.row 1) ⟨.rne, true, false, 0⟩) = false ∧
  Instr.wf (.vfcmp .eq .d 1 (.row 0) (.col 5) ⟨false, 0⟩) = false := by decide

/-- Source: R437, R438, R440, R374, R375 (targets, `.F`, raw cells, `.MX`), R432, R442, R153, R408, R378. -/
theorem test_ill_formed_vector_memory :
  Instr.wf (.vld .k8 (.row 0) 5 6 ⟨false, 0⟩) = false ∧ Instr.wf (.vld .fp32 (.q 0) 5 6 ⟨false, 0⟩) = false ∧
  Instr.wf (.vldx .int4 (.row 0) 5 (.row 1) ⟨false, 0⟩) = false ∧ Instr.wf (.vldx .fp32 (.row 0) 5 .iota ⟨false, 0⟩) = false ∧
  Instr.wf (.vldff .int64 (.row 0) 5 6 ⟨false, 0⟩) = false ∧
  Instr.wf (.vst (.row 0) 5 (.stride 6) ⟨.k8, false, .rne, false, 0⟩) = false ∧
  Instr.wf (.vst (.row 0) 5 (.stride 6) ⟨.fp16, true, .rne, false, 0⟩) = false ∧
  Instr.wf (.vst (.row 0) 5 (.stride 6) ⟨.acc40, false, .rtz, false, 0⟩) = false ∧
  Instr.wf (.vst (.row 0) 5 (.scale 6) ⟨.fp16, false, .rne, false, 0⟩) = false ∧
  Instr.wf (.vst (.row 0) 5 (.scale 0) ⟨.e4m3, false, .rne, false, 0⟩) = false ∧
  Instr.wf (.vstx (.row 0) 5 (.row 1) ⟨.e2m1, false, .rne, false, 0⟩) = false ∧
  Instr.wf (.vatom .fadd .int32 .relaxed .core (.row 0) 5 (.row 1) (.row 2) ⟨false, 0⟩) = false ∧
  Instr.wf (.vatom .add .fp32 .relaxed .core (.row 0) 5 (.row 1) (.row 2) ⟨false, 0⟩) = false ∧
  Instr.wf (.vatom .add .int32 .relaxed .core (.row 0) 5 (.q 1) (.row 2) ⟨false, 0⟩) = false ∧
  Instr.wf (.vatom .add .int32 .relaxed .core (.row 0) 5 (.row 1) .iota ⟨false, 0⟩) = false ∧
  Instr.wf (.vwait .eq false false .core 1 5 6 .iota (.row 2) 0) = false ∧
  Instr.wf (.vwait .eq false false .core 1 5 6 (.row 1) (.q 2) 0) = false ∧
  Instr.wf (.rowfill .int4 0 0 5) = false ∧
  Instr.wf (.gdrain (.q 0) 5 (.stride 6) 0 ⟨.fp32, false, .rne, false, 0⟩) = false ∧
  Instr.wf (.gdrain (.row 0) 5 (.index .iota) 0 ⟨.fp32, false, .rne, false, 0⟩) = false ∧
  Instr.wf (.gdrain (.col 1) 5 (.stride 6) 0 ⟨.fp64, false, .rne, false, 0⟩) = false := by decide

/-- Source: R11, R12, R183, R272 and chapter 1's tables (how many units there are), R145 (64 bytes a transfer). -/
theorem test_ill_formed_events :
  Instr.wf (.lqtailWrite 4 ⟨0, .b8, 0⟩) = false ∧ Instr.wf (.deviceRegisterWrite ⟨2 ^ 52, .b8, 0⟩) = false ∧
  Instr.wf (.queueRecordRead 4) = false ∧ Instr.wf (.expanderPush 0 (.cluster 32)) = false ∧
  Instr.wf (.expanderPush 0 (.package 4)) = false ∧ Instr.wf (.expanderPush 0 (.die 4)) = false ∧
  Instr.wf (.expanderPush 0 (.core 512)) = false ∧ Instr.wf (.expanderPush 0 (.track 0 4)) = false ∧
  Instr.wf (.tripStart 512 0) = false ∧ Instr.wf (.tripStart 0 4) = false ∧ Instr.wf (.gridCommandEnter 512 0) = false ∧
  Instr.wf (.copyTransfer 0 0 0) = false ∧ Instr.wf (.copyTransfer 0 0 65) = false ∧ Instr.wf (.cxlRetrainFail 4) = false ∧
  Instr.wf (.vwaitReevaluate 0 0 128) = false ∧ Instr.wf (.traceWindowStop 4) = false ∧ Instr.wf (.slcapWrite 512 1) = false ∧
  Instr.wf (.thermalSense 4 100) = false ∧ Instr.wf (.errorReport (.ethernet 16) true) = false ∧
  Instr.wf (.errorReport (.cxl 4) true) = false ∧ Instr.wf (.errorReport (.poolBank 0 18) true) = false ∧ Instr.wf (.errorReport (.causeway 8) true) = false ∧
  Instr.wf (.targetedUnitTest (.macBand 0 4) true) = false ∧ Instr.wf (.errorReport (.memoryLine (2 ^ 52)) true) = false ∧
  Instr.wf (.imageEngineStart 32) = false ∧ Instr.wf (.holdNotice 512 0) = false := by decide

/-! Small steps: results that the spec's entries state. -/

/-- Source: the examples of R362, R364, R394, R401, R404, R407, R412, R355 and R361, and R339's sign extension. -/
theorem test_step_alu :
  let r := fun (i : Instr) (a b : Word) => after i (withX boot [(6, a), (7, b)]) (·.x 5)
  r (.div 5 6 7) (-7) 2 = some (-3) ∧ r (.divn 5 6 7) (-7) 2 = some 0x7FFFFFFFFFFFFFFC ∧
  r (.div 5 6 7) 9 0 = some (BitVec.allOnes 64) ∧ r (.rem 5 6 7) 0x8000000000000000 (-1) = some 0 ∧
  r (.rem 5 6 7) (-7) 2 = some (-1) ∧ r (.remn 5 6 7) 9 0 = some 9 ∧
  r (.ext 5 6 7) 0xABCD00 0x11C8 = some 0xFFFFFFFFFFFFFFCD ∧ r (.ins 5 6 7) 0xABCDFF 0x11C8 = some 0xFF00 ∧
  r (.max 5 6 7) (-1) 1 = some 1 ∧ r (.maxn 5 6 7) (-1) 1 = some (-1) ∧ r (.min 5 6 7) (-1) 1 = some (-1) ∧
  r (.mulhn 5 6 7) (-1) 2 = some 1 ∧ r (.mulh 5 6 7) (-1) 2 = some (-1) ∧ r (.mul 5 6 7) (-1) 2 = some (-2) ∧
  r (.srai 5 6 4) 0xFFFFFFFFFFFFFF00 0 = some 0xFFFFFFFFFFFFFFF0 ∧ r (.shr 5 6 7) 0xFFFFFFFFFFFFFF00 0x44 = some 0x0FFFFFFFFFFFFFF0 ∧
  r (.clz 5 6) 0x10000 0 = some 47 ∧ r (.ctz 5 6) 0xFFFFFFFFFFFFFF00 0 = some 8 ∧ r (.popc 5 6) (-1) 0 = some 64 ∧
  r (.addi 5 6 0xFFFF) 0 0 = some (-1) ∧ r (.andi 5 6 0xFFFF) (-1) 0 = some 0xFFFF ∧ r (.sltn 5 6 7) 1 (-1) = some 1 ∧
  r (.slt 5 6 7) 1 (-1) = some 0 ∧ r (.lui 5 0x8000) 0 0 = some 0xFFFFFFFF80000000 ∧ r (.sel 5 6 7 0) 1 2 = some 2 := by decide +kernel

/-- Source: R348, R349, R382: 4 for each unit of the offset, the link, and JALR's ALIGN at 0x...2. -/
theorem test_step_jumps :
  let s := withX boot [(6, 5), (7, 0x1000000002)]
  after (.beq 6 6 0xFFFF) s (·.me.pc) = some 0xFFFFFFFFC ∧ after (.bne 6 6 3) s (·.me.pc) = some 0x1000000004 ∧
  after (.jal 1 2) s (fun t => (t.me.pc, t.x 1)) = some (0x1000000008, 0x1000000004) ∧
  after (.jalr 1 7 0) s (fun t => (t.me.tcause, t.me.taddr, t.me.tepc, t.x 1)) = some (3, 0x1000000002, 0x1000000000, 0) := by decide +kernel

/-- Source: IEEE 754 sums worked by hand (R365): 1 + 2 = 3; 1/0 raises DZ; FCVT of 2.5 to an integer under RNE; R368's class of +0. -/
theorem test_step_scalar_float :
  let r := fun (i : Instr) (a b : Word) => after i (withX boot [(6, a), (7, b)]) fun t => (t.x 5, t.me.arith)
  r (.fadd .f32 5 6 7 .rne) 0x3F800000 0x40000000 = some (0x40400000, 0) ∧
  (r (.fdiv .f32 5 6 7 .rne) 0x3F800000 0).map (·.1) = some 0x7F800000 ∧
  (r (.fcvt .f64 .toInt64 5 6 .rne) 0x4004000000000000 0).map (·.1) = some 2 ∧
  r (.fcmp .f32 .lt 5 6 7) 0x3F800000 0x40000000 = some (1, 0) ∧ r (.fcmp .f32 .un 5 6 7) 0x7FC00000 0x40000000 = some (1, 0) := by decide +kernel

/-- Source: R390, R415, R66: a store waits in the strip store buffer, and a load of the track sees it. -/
theorem test_step_store_then_load :
  let s := withX boot [(6, 0x1000000100), (7, 0x123456789ABCDEF0)]
  (after (.st .b2 7 6 8) s id).bind (fun t => after (.ld .s16 5 6 8) t (·.x 5)) = some 0xFFFFFFFFFFFFDEF0 ∧
  (after (.st .b2 7 6 8) s id).map (·.byte 0x1000000108) = some 0 := by decide +kernel

/-- Source: R208, R209: AMO.ADD gives the old value and stores the sum; CAS stores where xd matches. -/
theorem test_step_atomics :
  let s := withX (boot.setBytes 0x1000000100 8 0x10) [(6, 0x1000000100), (7, 5), (5, 0x10)]
  after (.amoAdd 5 6 7 .relaxed .package .b8) s (fun t => (t.x 5, t.bytes 0x1000000100 8)) = some (0x10, 0x15) ∧
  after (.cas 5 6 7 .relaxed .package .b4) s (fun t => (t.x 5, t.bytes 0x1000000100 8)) = some (0x10, 5) := by decide +kernel

/-- Source: R425, R426, R235, R231: TRAP's entry, and the return from it. -/
theorem test_step_trap_and_return :
  let s := withX (boot.modMe fun t => { t with tvec := 0x2000, tstack := 0x3000 }) [(6, 0x77), (2, 0x99)]
  (after (.trap 6 3) s fun t => (t.me.tcause, t.me.taddr, t.me.telem)) = some (0x10, 0x77, 3) ∧
  (after (.trap 6 3) s fun t => (t.me.pc, t.me.super, t.me.level, t.x 2)) = some (0x2000, true, 1, 0x3000) ∧
  ((after (.trap 6 3) s id).bind fun t => after .trapRet t fun t => (t.me.pc, t.me.super, t.x 2)) =
    some (0x1000000004, false, 0x99) := by decide +kernel

/-- Source: R57, R59, R60, R61, R271: two groups where the lane word assigns none, of which the cap of 1 at reset leaves one; LANES is privileged without the right. -/
theorem test_step_vector_length :
  after (.setvl 5 6) (withX boot [(6, 100)]) (fun t => (t.x 5, t.me.vl, t.me.vlmax)) = some (16, 16, 16) ∧
  after (.lanes 5 6) (withX boot [(6, 0x12000)]) (·.me.tcause) = some 2 ∧
  after (.lanes 5 6) (withX sup [(6, 0x12000)]) (fun t => (t.x 5, t.myCore.lane)) = some (0, 0x12000) := by decide +kernel

/-- Source: R86: GCLAIM's row number, GRIDOWN for a second claim, ILLEGAL past band 3. -/
theorem test_step_gclaim :
  after (.gclaim 5 1 1) boot (fun t => (t.x 5, t.me.band, t.me.bands)) = some (32, 1, 2) ∧
  (after (.gclaim 5 1 1) boot id).bind (fun t => after (.gclaim 5 3 0) t (·.me.tcause)) = some 8 ∧
  after (.gclaim 5 3 1) boot (·.me.tcause) = some 1 := by decide +kernel

/-- Source: R430, R431, R434, worked by hand: a sum of 1.0 and 2.0 in the F encoding, an integer sum of 40 bits, and VEXT. -/
theorem test_step_vector :
  let s := (withX boot [(6, 0x3F800000), (7, 2)]).modMe fun t => { t with band := 0, bands := 1, vl := 2, vlmax := 16 }
  ((after (.vadd .f (.row 0) (.x 6) (.x 6) ⟨.rne, false, false, 0⟩) s id).map fun t => (t.myCore.cell 0 1, t.myCore.cell 0 2)) =
    some (0x4000000000, 0) ∧
  ((after (.viadd (.row 1) .iota (.x 7) false ⟨false, 0⟩) s id).bind fun t => after (.vext .i 5 (.row 1) 7) t (·.x 5)) = some 0 ∧
  ((after (.viadd (.row 1) .iota (.x 7) false ⟨false, 0⟩) s id).map fun t => t.myCore.cell 1 1) = some 3 := by decide +kernel

/-- Source: R76, R77: a post then a take; a take of an empty queue waits. -/
theorem test_step_crossings :
  ((after (.crossPost 1 6) (withX boot [(6, 3)]) id).bind fun t => after (.crossTake 5 1) t (·.x 5)) = some 2 ∧
  after (.crossTake 5 1) boot (fun t => t.me.wait.map (·.kind)) = some (some .crossTake) := by decide +kernel

/-- Source: R195, R383 to R386: INIT, ADD and the phase it flips. -/
theorem test_step_junction :
  let s := withX boot [(6, 0x1000000100), (7, 2)]
  (((after (.jctInit 6 7) s id).bind fun t => after (.jctAdd 6 7 .package) t id).bind fun t => after (.jctTest 5 6 .package) t (·.x 5)) =
    some 1 := by decide +kernel

/-- Source: R43, R236: EXIT ends the trip. R273: a cycle of the clock. -/
theorem test_step_exit_and_clock :
  after .exit boot (·.me.trip.isSome) = some false ∧ after .clockCycle State.reset (·.time) = some 1 := by decide +kernel

/-! States that meet the hypotheses of each obligation, with its conclusion there. -/

theorem test_meets_integer : boot.steady = true ∧ sup.steady = true := by decide +kernel

/-- A zero operand, and the lowest and highest bit as the one bit set. -/
theorem test_meets_BitCountsAndFields :
    (withX boot [(6, 0)]).x 6 = 0 ∧ (∃ s : State, s.steady = true ∧ (s.x 6).getLsbD 0 = true ∧ ∀ j, 0 < j → (s.x 6).getLsbD j = false) ∧
    ∃ s : State, s.steady = true ∧ (s.x 6).getLsbD 63 = true ∧ ∀ j, j < 63 → (s.x 6).getLsbD j = false :=
  ⟨by decide,
   ⟨withX boot [(6, 1)], by decide, by decide, fun j h => if k : j < 64 then (by decide : ∀ j : Fin 64, 0 < j.val →
      ((withX boot [(6, 1)]).x 6).getLsbD j.val = false) ⟨j, k⟩ h else BitVec.getLsbD_of_ge _ _ (Nat.le_of_not_lt k)⟩,
   ⟨withX boot [(6, 0x8000000000000000)], by decide, by decide, by decide⟩⟩

/-- Targets at both sides of the alignment rule. -/
theorem test_meets_BranchesAndJumps :
    ((withX boot [(6, 0x1000000004)]).x 6 + (0 : BitVec 16).signExtend 64).toNat % 4 = 0 ∧
    ((withX boot [(6, 0x1000000003)]).x 6 + (0 : BitVec 16).signExtend 64).toNat % 4 ≠ 0 := by decide +kernel

/-- A load whose data comes at once and one whose data comes later; ALIGN, and PROTECT above the canonical addresses. -/
theorem test_meets_Loads :
    let s := withX boot [(6, 0x1000000FF8)]
    let s' := { s with slow := true }
    (s.steady && accOk (s.openStrip.access s.openStrip.who 0x1000000FF8 8 .read true) (fun pa u => near pa && !u.slow &&
      completesB s (.ld .d64 5 6 0) ((u.touch ⟨0x1000000FF8, 8, 0, true, false, 64⟩).setX 5 0)) &&
    s'.steady && accOk (s'.openStrip.access s'.openStrip.who 0x1000000FF8 8 .read true) (fun pa u => near pa && u.slow) &&
    accFault (s.openStrip.access s.openStrip.who 0x1000000FF9 8 .read true)
      (fun c u => c == .align && faultsB s (.ld .d64 5 6 1) u c 0x1000000FF9 0) &&
    accFault (s.openStrip.access s.openStrip.who 0x1000000FFFFFFFF8 8 .read true) (fun c _ => c == .protect)) = true := by decide +kernel

/-- A store into an empty buffer; ALIGN; the last granule that finds room and the first that does not. -/
theorem test_meets_Stores :
    let s := withX boot [(6, 0x1000000FF8), (7, 0x1122334455667788)]
    (accOk (s.openStrip.access s.openStrip.who 0x1000000FF8 8 .write true) (fun pa u =>
      (bufferAll (u.roomTaken - u.me.strip.buf.length) (byteList (span pa 8) (s.x 7).toNat) u.me.strip.buf).isSome) &&
    accFault (s.openStrip.access s.openStrip.who 0x1000000FF9 2 .write true)
      (fun c u => c == .align && faultsB s (.st .b2 7 6 1) u c 0x1000000FF9 0) &&
    (bufferAll 511 (byteList (span 0x1000000FF8 8) 5) []).isSome && (bufferAll 512 (byteList (span 0x1000000FF8 8) 5) []).isNone &&
    s.memWf && (match s.openStrip.stripClose with
      | .done t => s.openStrip.me.strip.isOpen && t.memWf
      | _ => false)) = true := by decide +kernel

/-- `boot` with a page of a remote node at 0x2000000000 and one of die 1 at 0x3000000000; requests and units under test as given. -/
def farBoot (requests : List (Nat × Request)) (testing : List UnitName) : State :=
  let s := ((boot.setBytes 0x1000010000 4 6).setBytes 0x1000010004 4 3).setBytes 0x1000010008 8 0x100000
  ({ s with rmnode := 0x100000000, rmbase := 0x1000010000, requests := requests, testing := testing } : State).modCore 0 fun k =>
    { k with tlb := k.tlb ++ [(⟨1, 0x2000000000, 4, 0x80000000000DF, false⟩ : TlbEntry), ⟨1, 0x3000000000, 4, 0x34000000DF, false⟩] }

/-- The answer a home has given to track 0 of core 0 at 0x100008. -/
def answered (kind : Nat) (l : List Byte) : List (Nat × Request) :=
  [(9, { core := 0, unit := 0, node := 6, addr := 0x100008, kind := kind, pa := 0x8000000000008
         entry := some (0, ⟨6, 0x100000, true⟩), answer := some l })]

def distant (pa : Nat) : Bool := !near pa
def accWait (a : Acc) (p : WaitKind → State → Bool) : Bool :=
  match a with
  | .ok _ _ => false
  | .fault _ _ => false
  | .wait k u => p k u

/-- LD and ST of another node, of one that has not answered, and of links under test; a store that a full buffer takes to the next strip. -/
theorem test_meets_far_and_waiting_accesses :
    let z := withX (farBoot [] []) [(6, 0x2000000008), (7, 5)]
    let y := withX (farBoot (answered 1 [9, 0, 0, 0, 0, 0, 0, 0x80]) []) [(6, 0x2000000008)]
    let x := withX (farBoot [] ((List.range 8).map .causeway)) [(6, 0x3000000008)]
    let acc := fun (s : State) (va : Nat) (k : AccKind) => s.openStrip.access s.openStrip.who va 8 k true
    let full := (z.modMe fun t => { t with strip := { t.strip with isOpen := true } }).modMyCore fun k => { k with streams := [(2,
      { owner := 0, id := 9, ctx := 1, super := false, fpc := 0, record := [], credits := 512, flits := List.replicate 512 (.cell 0)
        pat := { base := 0, counts := [8], strides := [4], pop := 0, et := .fp32, scale := 0, sparse := false, n := 0, sideScale := 0, sideMeta := 0, slot := 0, dir := 4 } })] }
    (z.steady && accOk (acc z 0x2000000008 .read) (fun pa u => distant pa && (match u.ask 0 0 pa 1 (toBytes 2 8) with
        | (none, v) => waitsB z (.ld .d64 5 6 0) (v.atElem 0) .remote 0
        | _ => false)) &&
     accOk (acc y 0x2000000008 .read) (fun pa u => match u.ask 0 0 pa 1 (toBytes 2 8) with
        | (some b, v) => after (.ld .d64 5 6 0) y (fun t => (seen t, t.x 5)) ==
          (let u' := State.completes y (.ld .d64 5 6 0) (v.setX 5 (BitVec.ofNat 64 (v.ownOver pa (ofBytes b) 8))); some (seen u', 0x8000000000000009))
        | _ => false) &&
     accWait (acc x 0x3000000008 .read) (fun k u => waitsB x (.ld .d64 5 6 0) (u.atElem 0) k 0) &&
     accWait (acc x 0x3000000008 .write) (fun k u => waitsB x (.st .b8 7 6 0) (u.atElem 0) k 0) &&
     accOk (acc z 0x2000000008 .write) (fun pa u => (bufferAll (u.roomTaken - u.me.strip.buf.length) (byteList (span pa 8) 5) u.me.strip.buf).isSome) &&
     accOk (acc full 0x2000000008 .write) (fun pa u => (bufferAll (u.roomTaken - u.me.strip.buf.length) (byteList (span pa 8) 5) u.me.strip.buf).isNone) &&
     (match full.openStrip.stripClose with
      | .done v => v.boundary.isNone && accOk (acc v 0x2000000008 .write) fun pa u => (bufferAll 0 (byteList (span pa 8) 5) u.me.strip.buf).isSome &&
          after (.st .b8 7 6 0) full (fun t => t.me.strip.buf) == bufferAll 0 (byteList (span pa 8) 5) []
      | _ => false)) = true := by decide +kernel

/-- Atomics and junctions of another node, answered and not, and at links under test. -/
theorem test_meets_far_atomics_and_junctions :
    let z := withX (farBoot [] []) [(6, 0x2000000008), (7, 5)]
    let j := withX (farBoot [] []) [(6, 0x2000000000), (7, 5)]
    let y := fun (l : List Byte) => withX (farBoot (answered 5 l) []) [(6, 0x2000000008), (7, 5)]
    let x := withX (farBoot [] ((List.range 8).map .causeway)) [(6, 0x3000000008), (7, 5)]
    (begins z (.amoFadd 5 6 7 .acqRel .system .f64) (fun s1 => tryOk (s1.atomicCheck 0x2000000008 8 0) fun pa u => distant pa &&
       match u.ask 0 0 pa 5 (toBytes 1 9 ++ toBytes 1 8 ++ toBytes 8 5 ++ toBytes 8 0) with
       | (none, v) => waitsB z (.amoFadd 5 6 7 .acqRel .system .f64) v .remote 0
       | _ => false) &&
     begins (y [7]) (.amoAdd 5 6 7 .acqRel .system .b8) (fun s1 => tryOk (s1.atomicCheck 0x2000000008 8 0) fun pa u =>
       match u.ask 0 0 pa 5 (toBytes 1 1 ++ toBytes 1 8 ++ toBytes 8 5 ++ toBytes 8 0) with
       | (some w, v) => completesB (y [7]) (.amoAdd 5 6 7 .acqRel .system .b8) (atomicAnswer v pa 8 0x2000000008 5 .acqRel .system (ofBytes w) {})
       | _ => false) &&
     begins x (.amoAdd 5 6 7 .acqRel .system .b8) (fun s1 => accWait (s1.access s1.who 0x3000000008 8 .rmw false) fun k u =>
       waitsB x (.amoAdd 5 6 7 .acqRel .system .b8) (u.atElem 0) k 0) &&
     begins (withX boot [(6, 1)]) (.amoAdd 5 6 7 .acqRel .system .b8) (fun s1 => accFault (s1.access s1.who 1 8 .rmw false) fun c u =>
       faultsB (withX boot [(6, 1)]) (.amoAdd 5 6 7 .acqRel .system .b8) u c 1 0) &&
     begins j (.jctAdd 6 7 .package) (fun s1 => accOk (s1.jctFind s1.who 0x2000000000) fun pa u => distant pa &&
       match u.ask 0 0 pa 5 (jctWire 16 5) with
       | (none, v) => waitsB j (.jctAdd 6 7 .package) v .remote 0
       | _ => false) &&
     begins (x.setX 6 0x3000000000) (.jctTest 5 6 .package) (fun s1 => accWait (s1.jctFind s1.who 0x3000000000) fun k v =>
       waitsB (x.setX 6 0x3000000000) (.jctTest 5 6 .package) v k 0) &&
     ([Instr.jctInit 6 7, .jctAdd 6 7 .package, .jctTest 5 6 .package, .jctWait 5 6 7 .package].all fun i =>
       let s := withX (farBoot [(9, { core := 0, unit := 0, node := 6, addr := 0x100000, kind := 5, pa := 0x8000000000000, entry := some (0, ⟨6, 0x100000, true⟩), answer := some [3, 0, 0, 0, 1, 0, 0, 0] })] []) [(6, 0x2000000000), (7, 5)]
       leaves s i fun t => t.me.wait.isNone && t.requests.isEmpty) &&
     (let s := withX (farBoot [(9, { core := 0, unit := 0, node := 6, addr := 0x100000, kind := 5, pa := 0x8000000000000, entry := some (0, ⟨6, 0x100000, true⟩), answer := some [5] })] []) [(6, 0x2000000000), (7, 5)]
      leaves s (.jctWait 5 6 7 .package) fun t => (t.me.wait.map (·.kind)) == some .junction)) = true := by decide +kernel

/-- CFLUSH of a window and of a line in HBM4; TLBINV by both modes; TRACE.MARK. -/
theorem test_meets_CachesAndMarks :
    (begins (withX boot [(6, 0xFF000000000000)]) (.cflush 6) (fun u => (windowOf 0xFF000000000000).isSome &&
      completesB (withX boot [(6, 0xFF000000000000)]) (.cflush 6) u) &&
    begins (withX boot [(6, 0x1000000000)]) (.cflush 6) (fun s1 => match s1.find s1.who 0x1000000000 .read with
      | .ok pa u => !onCxl pa && completesB (withX boot [(6, 0x1000000000)]) (.cflush 6) u
      | .fault _ _ => false) &&
    begins boot (.tlbinv 0 0 .all) (fun s1 => !s1.me.super && faultsB boot (.tlbinv 0 0 .all) s1 .priv 0 0) &&
    begins sup (.tlbinv 0 0 .all) (fun s1 => s1.me.super && s1.cores.all fun (_, k) => k.tracks.all fun (_, t) => (t.strip.notes ++ t.leftNotes).isEmpty) &&
    (after (.tlbinv 0 0 .all) sup (fun t => (t.core 0).tlb.isEmpty)) == some true &&
    (let e : TlbEntry := ⟨1, 0x3000000000, 4, 0x34000000DF, false⟩
     let far := sup.modTrack 9 2 fun t => { t with strip := { t.strip with notes := [(0, { uses := [e] })] } }
     after (.tlbinv 0 0 .all) far (fun t => (t.me.wait.map (·.kind), (t.core 0).tlb.isEmpty, (t.track 9 2).strip.notes.map (·.2.removals.length))) == some (some .tlb, true, [1])) &&
    begins boot (.traceMark 6) (fun _ => true)) = true := by decide +kernel

/-- An atomic at this node, at the last bytes of a line. -/
theorem test_meets_Atomics :
    let s := withX (boot.setBytes 0x1000000078 8 0x3F80000000000005) [(6, 0x1000000078), (7, 3), (5, 5)]
    let meets := fun (i : Instr) (n : Nat) => begins s i fun s1 => tryOk (s1.atomicCheck 0x1000000078 n 0) fun pa _ => near pa
    (meets (.amoSwap 5 6 7 .acqRel .system .b8) 8 && meets (.cas 5 6 7 .acqRel .system .b8) 8 && meets (.amoFadd 5 6 7 .acqRel .system .f64) 8 &&
      begins s (.amoMin 5 6 7 .acqRel .package .b4) fun s1 => tryOk (s1.atomicCheck 0x1000000078 4 0) fun pa u => near pa &&
        completesB s (.amoMin 5 6 7 .acqRel .package .b4) (atomicEffect u pa 4 0x1000000078 5 .acqRel .package 3 {})) = true := by decide +kernel

theorem test_meets_Fences :
    ([FenceOrder.acquire, .release, .acqRel].all fun o => begins boot (.fence o .system) fun _ => true) = true := by decide +kernel

/-- Register numbers at the ends of the user and supervisor ranges, in both modes; ARITH with a reserved bit, and with mode 5 and 6. -/
theorem test_meets_SystemRegisters :
    sup.me.super = true ∧ boot.me.super = false ∧ boot.steady = true ∧
    (begins boot (.syswr 0x100 6) (fun u => faultsB boot (.syswr 0x100 6) u .priv 0x100 0) &&
     begins boot (.syswr 0x31 6) (fun u => faultsB boot (.syswr 0x31 6) u .priv 0x31 0) &&
     faultsB boot (.sysrd 5 0x10F) boot.openStrip .priv 0x10F 0 &&
     (let s := withX boot [(6, 5)]; begins s (.syswr 0x14 6) fun u => (s.x 6).toNat % 8 < 6 && completesB s (.syswr 0x14 6) (u.modMe fun t => { t with arith := 5 })) &&
     (let s := withX boot [(6, 6)]; begins s (.syswr 0x14 6) fun u => faultsB s (.syswr 0x14 6) u .illegal 0 0) &&
     (let s := withX boot [(6, 8)]; begins s (.syswr 0x14 6) fun u => faultsB s (.syswr 0x14 6) u .illegal 0 0) &&
     (let s := withX boot [(6, 8)]; begins s (.syswr 0x12 6) fun u => completesB s (.syswr 0x12 6) (u.modMe fun t => { t with sbase := 8 })) &&
     (let s := withX sup [(6, 0xFFFFFFFFFFFF)]; begins s (.syswr 0x31 6) fun u => completesB s (.syswr 0x31 6) (u.modMyCore fun k => { k with energy := 0xFFFFFFFFFFFF })) &&
     (let s := withX sup [(6, 4)]; begins s (.syswr 0x106 6) fun u => completesB s (.syswr 0x106 6) (u.modMe fun t => { t with tvec := 4 })) &&
     (let s := withX sup [(6, 3)]; begins s (.syswr 0x106 6) fun u => faultsB s (.syswr 0x106 6) u .illegal 0 0) &&
     (let s := withX sup [(6, 64)]; begins s (.syswr 0x107 6) fun u => completesB s (.syswr 0x107 6) (u.modMe fun t => { t with tstack := 64 })) &&
     (let s := withX (sup.modMe fun t => { t with level := 1 }) [(6, 9)]
      begins s (.syswr 0x101 6) fun u => completesB s (.syswr 0x101 6) (u.modMe fun t =>
        { t with taddr := 9, frames := mupd {} 1 (fun f => { f with taddr := 9 }) t.frames }))) = true := by decide +kernel

/-- A fault at level 0, one in an acknowledged handler at level 30, and the escalations at level 1 and level 31. -/
theorem test_meets_SynchronousFaults :
    let at_ := fun (l : Nat) (a : Bool) => (boot.modMe fun t => { t with level := l, acked := a }).openStrip
    let goes := fun (s : State) => s.me.strip.isOpen && !(1 ≤ s.me.level && (!s.me.acked || s.me.level == 31))
    goes (at_ 0 false) = true ∧ goes (at_ 30 true) = true ∧ goes (at_ 1 false) = false ∧ goes (at_ 31 true) = false ∧
    begins boot (.trap 6 31) goes = true ∧ begins boot .brk goes = true := by decide +kernel

/-- TRAP.ACK and TRAP.RET by mode, level and TEPC. -/
theorem test_meets_TrapReturns :
    let at_ := fun (l : Nat) (pc : Word) => sup.modMe fun t => { t with level := l, tepc := pc }
    (faultsB boot .trapAck boot.openStrip .priv 0 0 && faultsB sup .trapAck sup.openStrip .illegal 0 0 &&
     completesB (at_ 1 0) .trapAck ((at_ 1 0).openStrip.modMe fun t =>
       { t with acked := true, frames := mupd {} 1 (fun f => { f with acked := true }) t.frames }) &&
     begins boot .trapRet (fun u => faultsB boot .trapRet u .priv 0 0) && begins sup .trapRet (fun u => faultsB sup .trapRet u .illegal 0 0) &&
     begins (at_ 1 2) .trapRet (fun u => faultsB (at_ 1 2) .trapRet u .align 2 0) &&
     begins (at_ 1 4) .trapRet (fun s1 => after .trapRet (at_ 1 4) (fun t => (t.me.pc, t.me.level)) == some (4, 0) && s1.me.level == 1) &&
     begins (at_ 2 4) .trapRet (fun s1 => s1.me.level == 2)) = true := by decide +kernel

/-- SETVL with both suffixes; LANES without and with the right, with counts of eight and of nine, with bit 17. -/
theorem test_meets_VectorLength :
    let lanes := fun (s : State) (v : Word) (p : State → Bool) => begins (withX s [(6, v)]) (.lanes 5 6) p
    (begins boot (.setvl 5 6) (fun _ => true) && begins boot (.setvlAdv 5 6) (fun _ => true) &&
     lanes boot 0x4 (fun u => faultsB (withX boot [(6, 4)]) (.lanes 5 6) u .priv 0 0) &&
     lanes sup 0x9 (fun u => faultsB (withX sup [(6, 9)]) (.lanes 5 6) u .illegal 0 0) &&
     lanes sup 0x20000 (fun u => faultsB (withX sup [(6, 0x20000)]) (.lanes 5 6) u .illegal 0 0) &&
     lanes sup 0x12222 (fun u => completesB (withX sup [(6, 0x12222)]) (.lanes 5 6) ((u.modMyCore fun k => { k with lane := 0x12222 }).setX 5 0)) &&
     lanes (boot.modMyCore fun k => { k with lane := 0x10000 }) 8 (fun _ => true)) = true := by decide +kernel

/-- A state whose track 1 of the same core holds band 2. -/
def held2 : State := boot.modTrack 0 1 fun t => { t with band := 2, bands := 1 }

/-- Claims of bands 3 and past 3, while holding one, free and held; GRELEASE and GWAIT with and without a busy row; FMT's limits. -/
theorem test_meets_GridBands :
    let mine := boot.modMe fun t => { t with band := 1, bands := 2 }
    let busy := mine.modMyCore fun k => { k with gq := [{ id := 7, track := 0, ctx := 1, super := false, fpc := 0, op := .zero, rows := [95] }] }
    let fmt := fun (s : State) (v : Word) => withX s [(6, v)]
    let full := boot.modMe fun t => { t with fq := List.replicate 8 0 }
    (begins boot (.gclaim 5 3 1) (fun u => faultsB boot (.gclaim 5 3 1) u .illegal 0 0) &&
     begins mine (.gclaim 5 3 0) (fun u => faultsB mine (.gclaim 5 3 0) u .gridOwn 0 0) &&
     begins boot (.gclaim 5 3 0) (fun u => completesB boot (.gclaim 5 3 0) ((u.modMe fun t => { t with band := 3, bands := 1 }).setX 5 96)) &&
     begins held2 (.gclaim 5 2 0) (fun u => waitsB held2 (.gclaim 5 2 0) u .band (2 + 4)) &&
     begins held2 (.gclaimT 5 1 1) (fun u => completesB held2 (.gclaimT 5 1 1) (u.setX 5 (BitVec.allOnes 64))) &&
     begins mine .grelease (fun u => completesB mine .grelease (u.modMe fun t => { t with band := 0, bands := 0 })) &&
     begins busy .grelease (fun u => waitsB busy .grelease u .release 0) &&
     begins mine (.gwait 0) (fun u => completesB mine (.gwait 0) u) && begins busy (.gwait 0) (fun u => waitsB busy (.gwait 0) u .gwait 0) &&
     begins busy (.gwait 2) (fun u => completesB busy (.gwait 2) u) && begins mine (.gwait 9) (fun u => faultsB mine (.gwait 9) u .gridOwn 0 0) &&
     begins (fmt boot 0x100000000) (.fmt 6) (fun u => faultsB (fmt boot 0x100000000) (.fmt 6) u .illegal 0 0) &&
     begins (fmt full 0) (.fmt 6) (fun u => faultsB (fmt full 0) (.fmt 6) u .illegal 0 0) &&
     !fmtLegal 0xFFFFFFFF && begins (fmt boot 0xFFFFFFFF) (.fmt 6) (fun u => faultsB (fmt boot 0xFFFFFFFF) (.fmt 6) u .fmtBad 0 0) &&
     fmtLegal 0x33 && begins (fmt boot 0x33) (.fmt 6) (fun u => completesB (fmt boot 0x33) (.fmt 6) (u.modMe fun t => { t with fq := [0x33] }))) =
      true := by decide +kernel +kernel

/-- The wait of a GCLAIM that a release lets go on. -/
theorem test_meets_GridBands_wake :
    let parked := boot.modMe fun t => { t with wait := some { kind := .band, seq := 5, obj := 6, cycles := 0, instr := .gclaim 5 2 0 } }
    (parked.me.wait.map (·.kind)) = some .band ∧ parked.me.bands = 0 ∧
    resumesB parked (.gclaimGrant 0 0) 0 0 (.gclaim 5 2 0) ((parked.modMe fun t => { t with band := 2, bands := 1 }).setX 5 64) = true := by decide +kernel

/-- Track 0 holds bands 0 and 1, with a park slot of the pool. -/
def grid : State := (boot.modMe fun t => { t with band := 0, bands := 2, vl := 4, vlmax := 16 }).modMyCore fun k => { k with pool := 0x15 }

/-- A grid command of track 0 that has not entered its rows. -/
def idle (id : Nat) (op : GridOp) (rows : List Nat) : GridCmd := { id := id, track := 0, ctx := 1, super := false, fpc := 0, op := op, rows := rows }

/-- The same with eight commands that have not entered. -/
def gridFull : State := grid.modMyCore fun k => { k with gq := (List.range 8).map fun i => idle i .zero [] }

/-- Each check of GZERO, GPARK and GUNPARK, then room and no room; slot 0 of one, and 1 past the last. -/
theorem test_meets_GridCommandsIssue_bands :
    let x := fun (s : State) (v : Word) => withX s [(6, v)]
    let rows := (List.range 32).map (32 + ·)
    (begins grid (.gzero 0) (fun u => faultsB grid (.gzero 0) u .illegal 0 0) && begins grid (.gzero 4) (fun u => faultsB grid (.gzero 4) u .gridOwn 0 0) &&
     begins grid (.gzero 2) (fun u => u.gridRoom && completesB grid (.gzero 2) (u.queued (u.newCmd .zero rows none))) &&
     begins gridFull (.gzero 2) (fun u => !u.gridRoom && waitsB gridFull (.gzero 2) u .gridRoom 0) &&
     begins (x grid 1) (.gpark 6 0) (fun u => faultsB (x grid 1) (.gpark 6 0) u .illegal 0 0) &&
     begins (x grid 0) (.gpark 6 2) (fun u => faultsB (x grid 0) (.gpark 6 2) u .gridOwn 0 0) &&
     begins (x grid 0) (.gpark 6 1) (fun u => completesB (x grid 0) (.gpark 6 1) (u.queued (u.newCmd (.park 0) rows none))) &&
     begins (x gridFull 0) (.gunpark 6 1) (fun u => waitsB (x gridFull 0) (.gunpark 6 1) u .gridRoom 0) &&
     begins (x grid 0) (.gunpark 6 1) (fun u => completesB (x grid 0) (.gunpark 6 1) (u.queued (u.newCmd (.unpark 0) rows none)))) = true := by decide +kernel

/-- Each check of ROWFILL and ROWSEND: a type, row 127 and one past it, a row not held, the address, a send onto itself, the junction. -/
theorem test_meets_GridCommandsIssue_rows :
    let x := fun (s : State) (v j : Word) => withX s [(6, v), (7, j)]
    let fill := fun (s : State) (et : ElemType) (r : Fin 128) (c : Fin 8) (p : State → Bool) => begins s (.rowfill et r c 6) p
    let send := fun (s : State) (r : Fin 128) (p : State → Bool) => begins s (.rowsend r 0 6 7) p
    (fill (x grid 0 0) .int4 0 0 (fun u => faultsB (x grid 0 0) (.rowfill .int4 0 0 6) u .illegal 0 0) &&
     fill (x grid 0 0) .fp32 127 1 (fun u => faultsB (x grid 0 0) (.rowfill .fp32 127 1 6) u .illegal 0 0) &&
     fill (x grid 0 0) .fp32 63 1 (fun u => faultsB (x grid 0 0) (.rowfill .fp32 63 1 6) u .gridOwn 0 0) &&
     fill (x grid 2 0) .fp32 62 1 (fun u => faultsB (x grid 2 0) (.rowfill .fp32 62 1 6) u .align 2 0) &&
     fill (x grid 3 0) .acc40 63 0 (fun u => completesB (x grid 3 0) (.rowfill .acc40 63 0 6) (u.queued (u.newCmd (.fill .acc40 3) [63] none))) &&
     send (x grid 0x10000 0) 5 (fun u => faultsB (x grid 0x10000 0) (.rowsend 5 0 6 7) u .illegal 0 0) &&
     send (x grid (5 * 512) 0) 5 (fun u => faultsB (x grid (5 * 512) 0) (.rowsend 5 0 6 7) u .illegal 0 0) &&
     send (x grid (6 * 512) 0) 64 (fun u => faultsB (x grid (6 * 512) 0) (.rowsend 64 0 6 7) u .gridOwn 0 0) &&
     send (x grid (6 * 512) 32) 5 (fun u => faultsB (x grid (6 * 512) 32) (.rowsend 5 0 6 7) u .align 32 0) &&
     send (x grid (127 * 512 + 1) 64) 5 (fun u => completesB (x grid (127 * 512 + 1) 64) (.rowsend 5 0 6 7) (u.queued (u.newCmd (.send 1 127) [5] (some 64)))) &&
     send (x gridFull (6 * 512) 64) 5 (fun u => waitsB (x gridFull (6 * 512) 64) (.rowsend 5 0 6 7) u .gridRoom 0)) = true := by decide +kernel

/-- Each check of GSAVE and GLOAD. -/
theorem test_meets_GridCommandsIssue_saves :
    let x := fun (s : State) (v j : Word) => withX s [(6, v), (7, j)]
    (begins (x grid 0 0) (.gsave 127 1 6 7) (fun u => faultsB (x grid 0 0) (.gsave 127 1 6 7) u .illegal 0 0) &&
     begins (x grid 0 0) (.gload 63 1 6 7) (fun u => faultsB (x grid 0 0) (.gload 63 1 6 7) u .gridOwn 0 0) &&
     begins (x grid 32 0) (.gsave 63 0 6 7) (fun u => faultsB (x grid 32 0) (.gsave 63 0 6 7) u .align 32 0) &&
     begins (x grid 64 1) (.gload 63 0 6 7) (fun u => faultsB (x grid 64 1) (.gload 63 0 6 7) u .align 1 0) &&
     begins (x grid 64 64) (.gload 63 0 6 7) (fun u => completesB (x grid 64 64) (.gload 63 0 6 7) (u.queued (u.newCmd (.load 64) [63] (some 64)))) &&
     begins (x gridFull 64 64) (.gsave 63 0 6 7) (fun u => waitsB (x gridFull 64 64) (.gsave 63 0 6 7) u .gridRoom 0)) = true := by decide +kernel

/-- A pattern of `n` elements in one dimension, in direction `d`. -/
def pat (d : Nat) (et : ElemType) (n : Nat) : Pattern :=
  { base := 0x1000000400, counts := [n], strides := [BitVec.ofNat 64 (elemBytes et)], pop := 0, et := et, scale := 0, sparse := false, n := 0
    sideScale := 0, sideMeta := 0, slot := 0, dir := d }

/-- A stream of track 0 with some elements buffered. -/
def stream (d : Nat) (et : ElemType) (n have_ : Nat) : Stream :=
  { owner := 0, id := 9, ctx := 1, super := false, fpc := 0, record := [], pat := pat d et n, buffer := (List.range have_).map fun i => .val (.ofInt (i : Nat)) }

/-- Two input streams of INT8 (code 0, R109), 8 elements each, and a format word for them that accumulates integers. -/
def opaReady (fq : List (BitVec 32)) (n : Nat) : State :=
  (grid.modMe fun t => { t with fq := fq }).modMyCore fun k =>
    { k with streams := [(0, stream 0 .int8 n 4), (1, stream 0 .int8 n 4)] }

/-- k M N of an OPA at row 0 and column 0 (R104). -/
def opaWord (k m n col0 row0 : Nat) : Word := BitVec.ofNat 64 (k + (m - 1) * 2 ^ 9 + (n - 1) * 2 ^ 16 + col0 * 2 ^ 23 + row0 * 2 ^ 30)

/-- OPA's checks in order: k 0 and 257, qa = qb, columns past 127, no bands, rows past those held, no format word, ACC80 past column 63,
streams too short, a format against a stream, then room and no room; k = 1 with M = N = 1 at the last place, and k = 256. -/
theorem test_meets_OuterProductIssue :
    let f : BitVec 32 := 0x1000
    let x := fun (s : State) (k m n c r : Nat) => withX s [(9, opaWord k m n c r)]
    let i := Instr.opa false false true 0 1 9
    let s := opaReady [f] 256
    let bad := fun (s : State) (c : Cause) (e : Nat) => begins s i fun u => faultsB s i u c 0 e
    fmtLegal 0x1000 = true ∧
    (bad (x s 0 1 1 0 0) .illegal 0 && bad (x s 257 1 1 0 0) .illegal 0 && bad (x s 1 1 2 127 0) .illegal 0 &&
     bad (withX s [(9, 0x2000000001)]) .illegal 0 &&
     (begins (x s 1 1 1 0 0) (.opa false false true 0 0 9) fun u => faultsB (x s 1 1 1 0 0) (.opa false false true 0 0 9) u .illegal 0 0) &&
     bad (x boot 1 1 1 0 0) .gridOwn 0 && bad (x s 1 2 1 0 63) .gridOwn 0 && bad (x (opaReady [] 256) 1 1 1 0 0) .fmtEmpty 0 &&
     bad (x (opaReady [0x2099] 256) 1 1 1 64 0) .illegal 0 && bad (x (opaReady [f] 1) 1 2 1 0 0) .stream 0 &&
     bad (x (opaReady [f] 1) 1 1 2 0 0) .stream 1 && bad (x (opaReady [0x1011] 256) 1 1 1 0 0) .fmtBad 0 &&
     (begins (x s 256 1 1 127 63) i fun u => u.gridRoom && !opaStreamBad u.myCore 0 0 256) &&
     (begins (x s 1 1 1 127 63) i fun u =>
       let g := { u.newCmd (.opa false false true 0 1 1 1 1 127 f) [63] none with posA := 0, posB := 0, sideA := u.myCore.sidePos 0, sideB := u.myCore.sidePos 1 }
       let v := ((u.queued g).modMyCore fun c => (c.reserve 0 1 1).reserve 1 1 1).modMe fun t => { t with fq := [] }
       completesB (x s 1 1 1 127 63) i (v.charge 0 (v.weight 0 (opaClass 0x1000))))) = true := by decide +kernel

/-- GDRAIN's checks, then room and no room. -/
theorem test_meets_GridDrain :
    let x := fun (s : State) (j : Word) => withX s [(6, 0x1000000400), (7, j), (8, 1)]
    let i := fun (et : ElemType) (v : View) => Instr.gdrain v 6 (.stride 8) 7 ⟨et, false, .dyn, false, 0⟩
    (begins (x grid 0) (i .e2m1 (.row 0)) (fun u => faultsB (x grid 0) (i .e2m1 (.row 0)) u .illegal 0 0) &&
     begins (x grid 0) (i .fp32 (.row 64)) (fun u => faultsB (x grid 0) (i .fp32 (.row 64)) u .gridOwn 0 0) &&
     begins (x grid 1) (i .fp32 (.row 63)) (fun u => faultsB (x grid 1) (i .fp32 (.row 63)) u .align 1 0) &&
     begins (x gridFull 64) (i .fp32 (.row 63)) (fun u => waitsB (x gridFull 64) (i .fp32 (.row 63)) u .gridRoom 0) &&
     begins (x grid 64) (i .fp32 (.row 63)) (fun u =>
       let cv : VConv := ⟨.fp32, false, .rne, false, 0⟩
       let g := { u.newCmd (.drain (.row 63) 0x1000000400 1 none none cv) [] (some 64) with mask := BitVec.allOnes 128 }
       completesB (x grid 64) (i .fp32 (.row 63)) (u.queued { g with rows := g.drainRows (.row 63) none cv }))) = true := by decide +kernel

/-! Vector forms: operands in the grid, a popped stream, a push, an operand outside the rows held, a busy row. -/

/-- Rows 0 and 1 with a few elements, an input stream of FP32 with its elements there, and an output stream. -/
def vec : State := (grid.modMyCore fun k =>
  ({ k with streams := [(2, stream 0 .fp32 8 8), (3, stream 1 .fp32 8 0)] }.setCell 0 1 0x3F80000000).setCell 1 1 0x4000000000).openStrip

/-- What `VectorGives` asks of a state. -/
def ready (s : State) (vd : View) (ed : Et) (srcs : List (View × Et)) (r : Nat → Option Nat) : Bool :=
  tryOk (s.openStrip.vectorReady srcs (some (vd, ed)) (fun i => s.openStrip.me.active 0 i) (fun i => s.openStrip.me.active 0 i)) fun _ u =>
    tryOk ((u.popAll s.me.vl (popList srcs)).writeView vd ed false r) fun _ _ => true

theorem test_meets_vector_forms :
    vec.steady = true ∧
    (ready vec (.row 5) .f [(.row 0, .f), (.col 1, .f)] (fun i => if i < 4 then some 0 else none) &&
     ready vec (.row 63) .d [(.diag 63, .d), (.q 2, .d)] (fun i => if i < 4 then some 0 else none) &&
     ready vec (.q 3) .f [(.row 0, .f), (.iota, .f), (.x 6, .f)] (fun i => if i < 4 then some 0 else none) &&
     ready vec (.row 5) .i [(.row 0, .i), (.zero, .i)] (fun i => if i < 4 then some 0 else none) &&
     !ready vec (.row 64) .f [(.row 0, .f)] (fun _ => none) && !ready vec (.row 0) .f [(.q 3, .f)] (fun _ => none)) = true := by decide +kernel

/-- The conclusion where it is worked out: 1.0 + 2.0, and what an unpopped stream gives. -/
theorem test_vector_results :
    (after (.vadd .f (.row 5) (.row 0) (.row 1) ⟨.rne, false, false, 0⟩) vec fun t => t.myCore.cell 5 1) = some 0x4040000000 ∧
    (after (.vadd .f (.row 5) (.q 2) (.row 1) ⟨.rne, false, false, 0⟩) vec fun t => t.myCore.cell 5 1) = some 0x4040000000 ∧
    (after (.vmul .f (.col 7) (.row 1) (.iota) ⟨.rne, false, true, 0⟩) vec fun t => (t.myCore.cell 1 7, t.myCore.cell 3 7)) = some (0x4000000000, 0) ∧
    (after (.vred .sum .f (.row 9) (.q 2) .rne false 0) vec fun t => t.myCore.cell 9 0) = some 0x40C0000000 ∧
    (after (.vscan .sum .i (.row 9) .iota ⟨.rne, false, false, 0⟩) vec fun t => (t.myCore.cell 9 2, t.myCore.cell 9 3)) = some (3, 6) ∧
    (after (.vfcmp .lt .f 3 (.row 0) .iota ⟨false, 0⟩) vec fun t => t.mreg 3) = some 0b1100 := by decide +kernel

/-- VINS' and VEXT's own hypotheses; a mask form; the lowest set bit of a mask at both ends. -/
theorem test_meets_picks_and_masks :
    (tryOk (vec.openStrip.vectorReady [] (some (.row 5, .f)) (fun _ => false) (fun i => i == 3 && decide (i < 4))) (fun _ u =>
      tryOk (u.writeView (.row 5) .f false fun i => if i = 3 then some 7 else none) fun _ _ => true) &&
     tryOk (vec.openStrip.vectorReady [(.row 0, .f)] none (fun i => decide (i < 4)) (fun _ => false)) (fun _ _ => true)) = true ∧
    (let s := vec.setMreg 1 1; s.me.active 0 0 && (s.mreg 1).getLsbD 0) = true ∧
    (let s := (vec.modMe fun t => { t with vl := 128 }).setMreg 1 (1 <<< 127)
     (s.me.active 0 127 && (s.mreg 1).getLsbD 127 && ((List.range 127).all fun j => !(s.mreg 1).getLsbD j)) = true) ∧
    (let s := vec.setMreg 1 0; (List.range 128).all fun j => !(s.mreg 1).getLsbD j) = true := by decide +kernel

/-- Operands in the grid: held, outside the rows held, and busy. -/
theorem test_meets_VectorOperandsInTheGrid :
    let busy := vec.modMyCore fun k => { k with gq := [idle 7 .zero [63]] }
    gridOk vec.me (.row 63) = true ∧ gridOk vec.me (.row 64) = false ∧ gridOk vec.me (.col 0) = true ∧ gridOk boot.me (.diag 0) = false ∧
    busy.myCore.busy 63 = true ∧ busy.myCore.busy 62 = false ∧ vec.myCore.gridWf = true ∧
    tryOk (vec.writeView (.row 63) .d true fun i => if i < 3 then some i else none) (fun _ u =>
      u.myCore.cell 63 2 == 0x10000 && u.myCore.gridWf && u.myCore.cell 0 1 == 0x3F80000000) = true := by decide +kernel

/-- Loads: a packed one, a 4-bit type with a stride, VLDFF ended by its second element's fault, an offset view. -/
theorem test_meets_VectorLoads :
    let s := withX (vec.setBytes 0x1000000FF8 8 0x4000000040400000) [(6, 0x1000000FF8), (7, 0)]
    let on := fun (n i : Nat) => decide (i < n)
    let s4 := withX s [(7, 1)]
    (tryOk (s.openStrip.vectorReady [] (some (.row 5, .f)) (s.me.active 0) (s.me.active 0)) (fun _ u =>
      tryOk (u.beforeRows (writtenRows s.me (.row 5) .f (on 4))) fun _ u1 =>
      tryOk (u1.loadElems .fp32 (fun i => 0x1000000FF8 + 4 * i) true [0, 1, 2, 3] []) fun r u2 =>
        r == ([(0, 0x40400000), (1, 0x40000000)], some 2) && tryOk (u2.writeView (.row 5) .f false fun j => mfind j r.1) fun _ u3 =>
          completesB s (.vldff .fp32 (.row 5) 6 7 ⟨false, 0⟩) (u3.modMe fun t => { t with vl := 2 })) &&
     faultsB s4 (.vld .int4 (.row 5) 6 7 ⟨false, 0⟩) s4.openStrip .illegal 0 0 &&
     tryOk (s.openStrip.vectorReady [(.row 0, .i)] (some (.row 5, .f)) (s.me.active 0) (s.me.active 0)) (fun _ _ => true) &&
     accOk (s.openStrip.access s.openStrip.who 0x1000000FFF 1 .read true) (fun pa _ => near pa) &&
     accFault (s.openStrip.access s.openStrip.who 0x1000001000 1 .read true) (fun _ _ => true)) = true := by decide +kernel

/-- Stores: packed and MX, a 4-bit type with a stride, an offset view; a nibble and a word; an element that faults. -/
theorem test_meets_VectorStores :
    let s := withX vec [(6, 0x1000000F00), (7, 0), (8, 0x1000000E00)]
    let s4 := withX s [(7, 1)]
    (tryOk (s.openStrip.vectorReady [(.row 0, .f)] none (s.me.active 0) (fun _ => false)) (fun _ u =>
      tryOk ((u.popAll 4 []).storeElems .fp32 (fun i => 0x1000000F00 + 4 * i) (fun _ => 0) (fun _ => none) [0, 1, 2, 3]) fun _ u1 =>
        decide (u1.me.strip.buf.length = 2)) &&
     tryOk (s.openStrip.storeElems .e4m3 (fun i => 0x1000000F00 + i) (fun _ => 0) (fun b => some (0x1000000E00 + b, 127)) [0, 1, 2, 3]) (fun _ u =>
       decide (u.me.strip.buf.length = 2)) &&
     faultsB s4 (.vst (.row 0) 6 (.stride 7) ⟨.int4, false, .rne, false, 0⟩) s4.openStrip .illegal 0 0 &&
     tryOk (s.openStrip.vectorReady [(.row 0, .f), (.row 1, .i)] none (s.me.active 0) (fun _ => false)) (fun _ _ => true) &&
     accOk (s.openStrip.access s.openStrip.who 0x1000000F00 1 .write true) (fun pa u => (bufferAll (u.roomTaken - u.me.strip.buf.length)
       [(pa, 0x50, 240)] u.me.strip.buf).isSome) &&
     accFault (s.openStrip.access s.openStrip.who 0x1000001000 1 .write true) (fun _ _ => true)) = true := by decide +kernel

/-- Two elements: atomics at `[x6 + 8 q0]`, waits for the values of row 2 there. -/
def vecSync : State :=
  (withX ((vec.setBytes 0x1000000100 8 5).modMyCore fun k => ((k.setCell 0 1 8).setCell 2 0 5).setCell 2 1 1)
    [(6, 0x1000000100), (7, 2)]).modMe fun t => { t with vl := 2 }
def vecWait (all : Bool) : Instr := .vwait .eq all true .package 2 0 6 (.row 0) (.row 2) 0

/-- VATOM at this node. -/
theorem test_meets_VectorAtomicsAndWaits :
    let s := vecSync
    let on := fun (i : Nat) => decide (i < 2)
    begins s (.vatom .add .int32 .relaxed .package (.row 5) 6 (.row 0) (.x 7) ⟨false, 0⟩) (fun s1 =>
      tryOk (s1.vectorReady [(.row 0, .i), (.x 7, .i)] (some (.row 5, .i)) on on) fun _ u =>
        tryOk (u.atomicChecks 4 (fun i => 0x1000000100 + 8 * i) [0, 1]) fun l _ => l.length == 2 && l.all fun x => near x.2) = true := by decide +kernel

/-- A VWAIT.ANY whose first element's condition holds returns. -/
theorem test_meets_a_VWAIT_that_returns :
    begins vecSync (vecWait false) (fun s1 =>
      tryOk (s1.vectorReady [(.row 0, .i), (.row 2, .i)] none (fun i => decide (i < 2)) (fun _ => false)) fun _ u =>
        let l := u.watchList true 6 (.row 0) (.row 2) 0
        l.length == 2 && tryOk (u.watchChecks 8 l) fun _ u1 =>
          l.all (fun x => match u1.peek u1.who x.addr .read with
            | some pa => near pa && !u1.farFrozen pa
            | none => false) &&
          completesB vecSync (vecWait false) ((u1.modMe fun t => { t with wait := none }).watchDone 8 .package 2 l [0])) = true := by decide +kernel

/-- A VWAIT.ALL of which one element's condition holds waits. -/
theorem test_meets_a_VWAIT_that_waits :
    (after (vecWait true) vecSync fun t => t.me.wait.map fun x => (x.kind, x.obj, x.others, x.watch.length)) = some (some (.vwait, 0, [0], 2)) := by
  decide +kernel

def vecParked (all : Bool) (bound : Nat) : State :=
  vecSync.modMe fun t => { t with wait := some { kind := .vwait, seq := 5, obj := bound, cycles := bound, watch := vecSync.watchList true 6 (.row 0) (.row 2) 0, instr := vecWait all } }

theorem test_meets_a_VWAIT_timeout :
    resumesB (vecParked true 3) (.vwaitTimeout 0 0) 0 0 (vecWait true)
      ((vecParked true 3).watchDone 8 .package 2 (vecSync.watchList true 6 (.row 0) (.row 2) 0) [0]) = true := by decide +kernel

theorem test_meets_a_VWAIT_reevaluation :
    resumesB (vecParked false 0) (.vwaitReevaluate 0 0 0) 0 0 (vecWait false)
      ((vecParked false 0).watchDone 8 .package 2 (vecSync.watchList true 6 (.row 0) (.row 2) 0) [0]) = true := by decide +kernel

/-! Crossings, junctions, barriers and meetings. -/

/-- A CROSS.POST to 255, past it, past a counter, and of 256; a take of 1 and of 0; both wakes. -/
theorem test_meets_Crossings :
    let c := fun (n : Nat) (v : Word) => withX (boot.modMyCore fun k => { k with cross := [(7, n)] }) [(6, v)]
    let w := fun (s : State) (k : WaitKind) (i : Instr) => s.modMe fun t => { t with wait := some { kind := k, seq := 5, obj := 7, cycles := 0, instr := i } }
    let took := fun (s : State) (n : Nat) => ((s.syncRead [] true .core).modMyCore fun k => { k with cross := mput 7 n k.cross }).setX 5 (BitVec.ofNat 64 n)
    (begins (c 0 256) (.crossPost 7 6) (fun u => faultsB (c 0 256) (.crossPost 7 6) u .illegal 0 0) &&
     begins (c 0 255) (.crossPost 7 6) (fun u => (after (.crossPost 7 6) (c 0 255) fun t => mget 0 7 t.myCore.cross) == some 255 && decide (mget 0 7 u.myCore.cross = 0)) &&
     begins (c 1 255) (.crossPost 7 6) (fun u => waitsB (c 1 255) (.crossPost 7 6) u .crossPost 7) &&
     begins (c 1 0) (.crossTake 5 7) (fun u => completesB (c 1 0) (.crossTake 5 7) (took u 0)) &&
     begins (c 0 0) (.crossTake 5 7) (fun u => waitsB (c 0 0) (.crossTake 5 7) u .crossTake 7) &&
     (let s := w (c 1 0) .crossTake (.crossTake 5 7); resumesB s (.crossTakeWake 0 0) 0 0 (.crossTake 5 7) (took s 0)) &&
     (after (.crossPostWake 0 0) (w (c 1 254) .crossPost (.crossPost 7 6)) fun t => mget 0 7 t.myCore.cross) == some 255) = true := by decide +kernel

/-- Additions below, at and past `expected`, to a junction with 0 there, and to a count that saturates. -/
theorem test_meets_Junctions_additions :
    let j := fun (count expected : Nat) => (boot.setBytes 0x1000000100 8 count).setBytes 0x1000000108 8 expected
    let r : Rel := ⟨.core 0, .system, []⟩
    let t := fun (c e n : Nat) => let t := (j c e).addUnits 1 0x1000000100 n r; (t.bytes 0x1000000100 8, t.bytes 0x1000000110 4)
    (j 1 4).memWf = true ∧ t 1 4 2 = (3, 0) ∧ t 1 4 3 = (0, 1) ∧ t 1 4 8 = (1, 2) ∧ t 5 0 7 = (12, 0) ∧ t (2 ^ 64 - 1) 0 7 = (2 ^ 64 - 1, 0) := by decide +kernel

/-- The junction forms: found and not, a phase that is the one seen and one that is not, the return. -/
theorem test_meets_Junctions :
    let s := withX boot [(6, 0x1000000100), (7, 3)]
    let bad := withX boot [(6, 0x1000000108), (7, 3)]
    let found := fun (s : State) (i : Instr) (p : Nat → State → Bool) => begins s i fun s1 => accOk (s1.jctFind s1.who (s1.x 6).toNat) p
    (found s (.jctInit 6 7) (fun pa u => near pa && completesB s (.jctInit 6 7) ((u.setBytes pa 8 0).setBytes (pa + 8) 8 3)) &&
     found s (.jctAdd 6 7 .package) (fun pa u => completesB s (.jctAdd 6 7 .package)
       (((u.jctNote pa (u.relsOf false .package)).addUnits 1 pa 3 ⟨.core 0, .package, u.who.released⟩).newRegion)) &&
     found s (.jctTest 5 6 .package) (fun pa u => completesB s (.jctTest 5 6 .package) ((u.syncRead (mget {} (u.loc pa) u.jcts).flipped true .package).setX 5 0)) &&
     found s (.jctWait 5 6 7 .package) (fun pa u => decide (u.bytes (pa + 16) 4 ≠ 3)) &&
     found s (.jctWait 5 6 0 .package) (fun _ u => waitsB s (.jctWait 5 6 0 .package) u .junction 0) &&
     begins bad (.jctInit 6 7) (fun s1 => accFault (s1.jctFind s1.who 0x1000000108) fun c v => faultsB bad (.jctInit 6 7) v c 0x1000000108 0) &&
     (let w := s.modMe fun t => { t with wait := some { kind := .junction, seq := 5, obj := 0, cycles := 0, instr := .jctWait 5 6 7 .package } }
      accOk (w.jctFind w.who 0x1000000100) fun pa v => decide (v.bytes (pa + 16) 4 ≠ 3) &&
        resumesB w (.jctWaitReturn 0 0) 0 0 (.jctWait 5 6 7 .package) ((v.syncRead [] true .package).setX 5 0))) = true := by decide +kernel

/-- A gang's track, with the windows enabled; x6 names an object in the sync window. -/
def gangState : State := withX (boot.modMe fun t =>
  { t with desc := { t.desc with flags := 15 }, trip := some { bootTrip with gang := some (3, 4) } }) [(6, 0xFD000000000100)]

/-- A barrier of two members there; the track has joined it, and last arrived as given. -/
def barState (arrived phase broken : Nat) (last : Option Nat) : State :=
  let s := ((((gangState.mark 0x800000100 1 true).setBytes 0x800000100 4 2).setBytes 0x800000104 4 arrived).setBytes 0x800000108 4 phase).setBytes
    0x80000010C 4 (broken + 3 * 256)
  { s with bars := [(0x800000100, {})] }.modMe fun t => { t with barriers := [(0x800000100, last)] }

theorem test_meets_Barriers :
    let pa := 0x800000100
    let found := fun (s : State) (i : Instr) (p : State → Bool) => begins s i fun s1 => accOk (s1.objFind (s1.x 6)) fun q u => q == pa && p u
    let joins := (barState 0 0 0 none).modMe fun t => { t with barriers := [] }
    let three := joins.modMe fun t => { t with barriers := [(0, none), (64, none), (128, none)] }
    let four := joins.modMe fun t => { t with barriers := [(0, none), (64, none), (128, none), (192, none)] }
    let alone := joins.modMe fun t => { t with trip := some bootTrip }
    (found gangState (.barWait 5 6 7) (fun u => !u.barLine pa && faultsB gangState (.barWait 5 6 7) u .protect 0xFD000000000100 0) &&
     found joins (.barWait 5 6 7) (fun u => u.barLine pa && faultsB joins (.barWait 5 6 7) u .gang 0xFD000000000100 0) &&
     found alone (.barJoin 6) (fun u => faultsB alone (.barJoin 6) u .gang 0xFD000000000100 0) &&
     found four (.barJoin 6) (fun u => faultsB four (.barJoin 6) u .illegal 0 0) &&
     found three (.barJoin 6) (fun u => completesB three (.barJoin 6) (((u.setBytes (pa + 16) 8 (gangId (3, 4))).setBytes pa 4 3).modMe fun t =>
       { t with barriers := t.barriers ++ [(pa, none)] })) &&
     (let s := three.setBytes (pa + 16) 8 9; found s (.barJoin 6) fun u => faultsB s (.barJoin 6) u .gang 0xFD000000000100 0) &&
     found (barState 0 7 1 none) (.barArrive 5 6) (fun u => completesB (barState 0 7 1 none) (.barArrive 5 6) (u.setX 5 7)) &&
     found (barState 1 7 0 (some 7)) (.barArrive 5 6) (fun u => waitsB (barState 1 7 0 (some 7)) (.barArrive 5 6) u .barrierNext pa) &&
     (after (.barArrive 5 6) (barState 0 7 0 (some 6)) fun t => (t.bytes (pa + 4) 4, t.bytes (pa + 8) 4, t.x 5)) == some (1, 7, 7) &&
     (after (.barArrive 5 6) (barState 1 7 0 (some 6)) fun t => (t.bytes (pa + 4) 4, t.bytes (pa + 8) 4, t.x 5)) == some (0, 8, 7) &&
     (after (.barWait 5 6 0) (barState 0 7 0 none) fun t => (t.x 5, t.me.wait)) == some (0, none) &&
     (after (.barWait 5 6 0) (barState 0 0 0 none) fun t => t.me.wait.map (·.kind)) == some (some .barrier) &&
     (after (.barWait 5 6 0) (barState 0 0 1 none) fun t => t.x 5) == some 1 &&
     (after (.barLeave 6) (barState 1 7 0 (some 6)) fun t => (t.bytes pa 4, t.bytes (pa + 4) 4, t.bytes (pa + 8) 4)) == some (1, 0, 8) &&
     (after (.barReset 5 6) (barState 1 7 1 none) fun t => (t.bytes (pa + 4) 4, t.bytes (pa + 12) 1)) == some (0, 0) &&
     found gangState (.barResetI 5 6 .package) (fun u => u.bytes pa 4 == 0 && !u.meetLine pa) && found joins (.barResetI 5 6 .package) (fun u => u.bytes pa 4 != 0) &&
     (let s := gangState.mark pa 1 true; found s (.barResetI 5 6 .package) fun u => u.meetLine pa && faultsB s (.barResetI 5 6 .package) u .protect 0xFD000000000100 0)) =
      true := by decide +kernel

theorem test_meets_Barriers_wakes :
    let w := fun (s : State) (k : WaitKind) (i : Instr) => s.modMe fun t => { t with wait := some { kind := k, seq := 5, obj := 0x800000100, cycles := 0, instr := i } }
    let b := w (barState 0 7 1 none) .barrier (.barWait 5 6 0)
    let c := w (barState 0 7 0 none) .barrier (.barWait 5 6 0)
    let a := w (barState 0 7 0 (some 6)) .barrierNext (.barArrive 5 6)
    (accOk (b.objFind (b.x 6)) (fun _ u => resumesB b (.barWaitReturn 0 0) 0 0 (.barWait 5 6 0) (u.setX 5 1)) &&
     accOk (c.objFind (c.x 6)) (fun _ u => resumesB c (.barWaitReturn 0 0) 0 0 (.barWait 5 6 0) ((u.syncRead [] true (u.barScope 0x800000100)).setX 5 0)) &&
     accOk (a.objFind (a.x 6)) (fun _ u => u.barLine 0x800000100) && (after (.barArriveNextPhase 0 0) a fun t => (t.x 5, t.me.wait)) == some (7, none)) = true := by decide +kernel

/-- A descriptor of R221: two members, k = 2, limit 1, halves for late ones, a mean of FP32 pairs, slots and results in sync memory. -/
def descriptor : Nat := 2 + 2 * 2 ^ 16 + 1 * 2 ^ 32 + 1 * 2 ^ 40 + 1 * 2 ^ 56 + 8 * 2 ^ 64 + 2 * 2 ^ 96 + 0xFD000000001000 * 2 ^ (8 * 0x58) + 64 * 2 ^ (8 * 0x60) +
  0xFD000000002000 * 2 ^ (8 * 0x68) + 0xFD000000003000 * 2 ^ (8 * 0x70)

/-- The open meeting it makes, at round `r`, with some arrivals. -/
def meetState (r : Nat) (o : MeetObj) : State :=
  (((gangState.setBytes 0x1000000800 128 descriptor).mark 0x800000100 2 true).setMeet 0x800000100
    { o with record := descriptor, round := r, status := Nat.lor 1 o.status, ctx := 1, desc := { flags := 15 }, agent := 9 })

theorem test_meets_MeetOpen :
    let pa := 0x800000100
    let s := withX (gangState.setBytes 0x1000000800 128 descriptor) [(7, 0x1000000800)]
    let i := Instr.meetOpen 5 6 7
    let opens := fun (s : State) (p : Nat → State → Bool) => begins s i fun s1 => accOk (s1.objFind (s1.x 6)) fun q u => q == pa && u.backed (pa + 64) true &&
      tryOk (execMeetOpen.readDescriptor u (s1.x 7).toNat 16) p
    descriptorBad descriptor = false ∧ descriptorBad 0 = true ∧
    (opens s (fun w v => w == descriptor && !v.barLine pa && !v.barLine (pa + 64) && !v.isMarked pa) &&
     (after i s fun t => (t.x 5, (t.meet pa).status, (t.meet pa).round, t.isMarked pa)) == some (0, 1, 0, true) &&
     (let s := withX s [(7, 0x1000000900)]; opens s fun w v => w == 0 && completesB s i (v.setX 5 2)) &&
     (let s := withX (meetState 0 {}) [(7, 0x1000000800)]; opens s fun _ v => completesB s i (v.setX 5 1)) &&
     (let s := { s.mark pa 1 true with bars := [(pa, {})] }; opens s fun _ v => v.barLine pa && faultsB s i v .protect 0xFD000000000100 0) &&
     (let s := withX s [(7, 0x1000000820)]; begins s i fun s1 => accOk (s1.objFind (s1.x 6)) fun _ u => faultsB s i u .align 0x1000000820 0)) = true := by decide +kernel

/-- Member 1 with tag `t`. -/
def member1 (s : State) (t : Nat) : State := withX s [(7, BitVec.ofNat 64 (t * 2 ^ 32 + 1))]

theorem test_meets_Meetings :
    let pa := 0x800000100
    let rel : Rel := ⟨.core 0, .system, []⟩
    let at_ := fun (s : State) (i : Instr) (p : State → Bool) => begins s i fun s1 => accOk (s1.objFind (s1.x 6)) fun q u => q == pa && u.backed (pa + 64) true &&
      !u.barLine pa && !u.barLine (pa + 64) && mhas pa u.meets && !u.poisoned pa && p u
    let holds := meetState 0 { ontime := [⟨1, 0, 0, rel, none⟩] }
    let closed := meetState 0 { status := 2 }
    (at_ (member1 (meetState 0 {}) 0) (.meetSlot 5 6 7) (fun u => completesB (member1 (meetState 0 {}) 0) (.meetSlot 5 6 7) (u.setX 5 0xFD000000001080)) &&
     (after (.meetSlot 5 6 7) (member1 (meetState 0 {}) 0) fun t => t.x 5) == some 0xFD000000001080 &&
     at_ (member1 holds 0) (.meetSlot 5 6 7) (fun u => waitsB (member1 holds 0) (.meetSlot 5 6 7) u .meetSlot pa) &&
     at_ (member1 closed 0) (.meetArrive 5 6 7) (fun u => completesB (member1 closed 0) (.meetArrive 5 6 7) (u.setX 5 3)) &&
     at_ (withX holds [(7, 2)]) (.meetSlot 5 6 7) (fun u => faultsB (withX holds [(7, 2)]) (.meetSlot 5 6 7) u .illegal 0 0) &&
     (after (.meetArrive 5 6 7) (member1 (meetState 3 {}) 3) fun t => (t.x 5, (t.meet pa).ontime.length)) == some (0, 1) &&
     (after (.meetArrive 5 6 7) (member1 (meetState 3 {}) 2) fun t => (t.x 5, (t.meet pa).late.length)) == some (1, 1) &&
     (after (.meetArrive 5 6 7) (member1 (meetState 3 {}) 1) fun t => (t.x 5, (t.meet pa).lapsed)) == some (2, [1]) &&
     (after (.meetArrive 5 6 7) (member1 (meetState 3 { lapsed := [1] }) 3) fun t => t.x 5) == some 2 &&
     at_ (member1 (meetState 3 {}) 4) (.meetArrive 5 6 7) (fun u => waitsB (member1 (meetState 3 {}) 4) (.meetArrive 5 6 7) u .meetArrive pa) &&
     at_ (member1 holds 0) (.meetArrive 5 6 7) (fun u => faultsB (member1 holds 0) (.meetArrive 5 6 7) u .illegal 0 0) &&
     (after (.meetWait 5 6 7) (member1 (meetState 4 { written := [(2, [])] }) 2) fun t => t.x 5) == some 0 &&
     (after (.meetWait 5 6 7) (member1 (meetState 5 { written := [(2, [])] }) 2) fun t => t.x 5) == some 4 &&
     at_ (member1 (meetState 2 {}) 2) (.meetWait 5 6 7) (fun u => waitsB (member1 (meetState 2 {}) 2) (.meetWait 5 6 7) u .meetWait pa) &&
     (after (.meetWait 5 6 7) (member1 closed 2) fun t => t.x 5) == some 3 &&
     (after (.meetRejoin 5 6 7) (member1 (meetState 3 { lapsed := [0, 1] }) 0) fun t => (t.x 5, (t.meet pa).lapsed)) == some (3, [0]) &&
     at_ (meetState 3 {}) (.meetClose 6) (fun u => completesB (meetState 3 {}) (.meetClose 6) ((u.meetShut pa).mark pa 2 false)) &&
     at_ closed (.meetClose 6) (fun _ => true)) = true := by decide +kernel

theorem test_meets_Meetings_wakes :
    let w := fun (s : State) (k : WaitKind) (i : Instr) => s.modMe fun t => { t with wait := some { kind := k, seq := 5, obj := 0x800000100, cycles := 0, instr := i } }
    let closed := meetState 0 { status := 2 }
    (after (.meetSlotReturn 0 0) (w (member1 (meetState 1 {}) 1) .meetSlot (.meetSlot 5 6 7)) fun t => (t.x 5, t.me.wait)) = some (0xFD0000000010C0, none) ∧
    (after (.meetArriveReclassify 0 0) (w (member1 (meetState 1 {}) 1) .meetArrive (.meetArrive 5 6 7)) fun t => (t.x 5, t.me.wait)) = some (0, none) ∧
    (after (.meetWaitReturn 0 0) (w (member1 closed 1) .meetWait (.meetWait 5 6 7)) fun t => (t.x 5, t.me.wait)) = some (3, none) := by decide +kernel

/-- A quorum of two, one arrival short of it and with it, and at the last round; a round to combine; a proxy's notice. -/
theorem test_meets_MeetingRounds :
    let pa := 0x800000100
    let rel : Rel := ⟨.core 0, .system, []⟩
    let c := fun (m : Nat) => (⟨m, 0, 0, rel, none⟩ : Contrib)
    let one := { ontime := [c 1] : MeetObj }
    let two := { ontime := [c 1, c 0], expected := [(0, 1), (1, 1)] : MeetObj }
    let r : Round := ⟨0, [c 0, c 1], []⟩
    let s := (meetState 1 { rounds := [r] }).setBytes 0x800001000 8 0x400000003F800000
    (meetState 0 one).quorumTest pa = meetState 0 one ∧
    (let o := ((meetState 0 two).quorumTest pa).meet pa; (o.round, o.ontime, o.rounds.map (·.ontime)) = (1, [], [[c 0, c 1]])) ∧
    (let o := ((meetState (2 ^ 32 - 1) two).quorumTest pa).meet pa; (o.status % 4, o.round, o.ontime) = (2, 2 ^ 32 - 1, [])) ∧
    (match readContribs (s.meet pa) (s.meet pa).who pa r.ontime s with
      | .ok vs _ => vs == [0x400000003F800000, 0]
      | .fault _ _ _ => false
      | .wait _ => false) = true ∧
    (after (.meetCombine pa) s fun t => (t.bytes 0x800002000 8, (t.meet pa).rounds, (t.meet pa).written.map (·.1))) = some (0x3F8000003F000000, [], [0]) ∧
    (after (.meetCloseNotice pa) s fun t => decide (t = s)) = some true := by decide +kernel

/-! The engines: streams, copies, the interchange, the grid. -/

/-- A pattern record (R133): FP32, one dimension of 8 elements, in direction `d`. -/
def patternRecord (d : Nat) : Nat := 0x1000000400 + 8 * 2 ^ 64 + 2 ^ 96 + 2 ^ 128 + 2 ^ 160 + 8 * 2 ^ (8 * 0x3A) + 4 * d * 2 ^ (8 * 0x3D)

/-- A record stands at x6. -/
def withRecord (s : State) (n w : Nat) : State := withX (s.setBytes 0x1000000800 n w) [(6, 0x1000000800)]

/-- Track 0 owns stream 2, of direction `d`. -/
def owns (d : Nat) (f : Stream → Stream) : State := boot.modMyCore fun k => { k with streams := [(2, f (stream d .fp32 8 4))] }

/-- STRM.CFG: another track's register, one that an OPA uses, a misaligned record, each fault of the record in R135's order, and a good one. -/
theorem test_meets_EngineInstructions_cfg :
    let i := Instr.strmCfg 2 6
    let reads := fun (s : State) (p : Nat → State → Bool) => begins s i fun s1 => tryOk (s1.readRecord (s1.x 6).toNat 8) p
    let other := owns 0 fun st => { st with owner := 1 }
    let used := (owns 0 id).modMyCore fun k => { k with gq := [idle 7 (.opa false false false 2 3 1 1 1 0 0) []] }
    let va : Word := 0x1000000800
    (begins other i (fun u => faultsB other i u .stream 0 2) && begins used i (fun u => waitsB used i u .stop 2) &&
     begins (withX boot [(6, 32)]) i (fun u => faultsB (withX boot [(6, 32)]) i u .align 32 0) &&
     (let s := withRecord boot 64 (patternRecord 5); reads s fun w u => (patternOf w).isNone && faultsB s i u .stream va 2) &&
     (let s := withRecord boot 64 (patternRecord 0 - 2 ^ 96); reads s fun w u => (patternOf w).any (patternBad 2) && faultsB s i u .stream va 2) &&
     (let s := withRecord boot 64 (patternRecord 0 + 1); reads s fun w u => (patternOf w).any (fun p => !patternBad 2 p && patternUnaligned p) && faultsB s i u .align 0x1000000401 0) &&
     (let s := withRecord boot 64 (patternRecord 1 - 2 * 2 ^ (8 * 0x3A)); reads s fun w u =>
       (patternOf w).any (fun p => !patternBad 2 p && !patternUnaligned p && outputBad p) && faultsB s i u .stream va 2) &&
     (let s := withRecord (owns 1 id) 64 (patternRecord 0); reads s fun w _ =>
       (patternOf w).any fun p => !patternBad 2 p && !patternUnaligned p && !outputBad p && decide (p = { pat 0 .fp32 8 with counts := [8, 1, 1, 1], strides := [0, 0, 0, 0] })) &&
     (after i (withRecord boot 64 (patternRecord 0)) fun t => (mfind 2 t.myCore.streams).map fun st => (st.owner, st.pos, st.pat.total)) == some (some (0, 0, 8))) =
      true := by decide +kernel

/-- STRM.IDX, STRM.LINK, STRM.STOP, STRM.SKIP (each direction) and CBK.LOAD. -/
theorem test_meets_EngineInstructions_streams :
    let local_ : Stream → Stream := fun st => { st with pat := { st.pat with base := 0xFF000000000000, counts := [8, 65536, 1, 1] } }
    let x := fun (s : State) (a b : Word) => withX s [(6, a), (7, b)]
    let at_ := fun (s : State) (i : Instr) (p : State → Bool) => begins s i p
    let linked : Stream → Stream := fun st => { st with linked := true, credits := 3, buffer := [] }
    let joined : Stream → Stream := fun st => { st with linked := true }
    let used := (owns 0 id).modMyCore fun k => { k with gq := [idle 7 (.opa false false false 2 3 1 1 1 0 0) []] }
    (at_ (x boot 0 0) (.strmIdx 2 6 7) (fun u => faultsB (x boot 0 0) (.strmIdx 2 6 7) u .stream 0 2) &&
     at_ (x (owns 0 id) 0 1) (.strmIdx 2 6 7) (fun u => faultsB (x (owns 0 id) 0 1) (.strmIdx 2 6 7) u .stream 0 2) &&
     at_ (x (owns 0 local_) 1 65536) (.strmIdx 2 6 7) (fun u => faultsB (x (owns 0 local_) 1 65536) (.strmIdx 2 6 7) u .align 1 0) &&
     (after (.strmIdx 2 6 7) (x (owns 0 local_) 2 65536) fun t => (mfind 2 t.myCore.streams).map (·.index)) == some (some (some (2, []))) &&
     at_ (x (owns 3 id) 0x1000 0) (.strmLink 2 6) (fun u => faultsB (x (owns 3 id) 0x1000 0) (.strmLink 2 6) u .illegal 0 0) &&
     at_ (x boot 0 0) (.strmLink 2 6) (fun u => faultsB (x boot 0 0) (.strmLink 2 6) u .stream 0 2) &&
     at_ (x (owns 3 id) 0x400 0) (.strmLink 2 6) (fun u => faultsB (x (owns 3 id) 0x400 0) (.strmLink 2 6) u .stream 0 2) &&
     (after (.strmLink 2 6) (x (owns 3 id) 0x401 0) fun t => (mfind 2 t.myCore.streams).map (·.partner)) == some (some (some (1, 2))) &&
     at_ boot (.strmStop 2) (fun u => faultsB boot (.strmStop 2) u .stream 0 2) && at_ used (.strmStop 2) (fun u => waitsB used (.strmStop 2) u .stop 2) &&
     (after (.strmStop 2) (owns 0 id) fun t => (mfind 2 t.myCore.streams).isNone) == some true &&
     at_ (x boot 0 0) (.strmSkip 2 6) (fun u => faultsB (x boot 0 0) (.strmSkip 2 6) u .stream 0 2) &&
     at_ (x (owns 0 id) 9 0) (.strmSkip 2 6) (fun u => faultsB (x (owns 0 id) 9 0) (.strmSkip 2 6) u .stream 0 2) &&
     at_ (x used 8 0) (.strmSkip 2 6) (fun u => waitsB (x used 8 0) (.strmSkip 2 6) u .stop 2) &&
     ([0, 1].all fun d => (after (.strmSkip 2 6) (x (owns d id) 8 0) fun t => (mfind 2 t.myCore.streams).map (·.pos)) == some (some 8)) &&
     (after (.strmSkip 2 6) (x (owns 3 joined) 4 0) fun t => (mfind 2 t.myCore.streams).map fun st => (st.pos, st.skipped)) == some (some (4, 0)) &&
     (after (.strmSkip 2 6) (x (owns 3 joined) 5 0) fun t => ((mfind 2 t.myCore.streams).map fun st => (st.pos, st.skipped), t.me.wait.map (·.kind))) ==
       some (some (4, 4), some .link) &&
     at_ (x (owns 3 id) 8 0) (.strmSkip 2 6) (fun u => waitsB (x (owns 3 id) 8 0) (.strmSkip 2 6) u .link 2) &&
     (let lost := owns 3 fun st => { st with cut := true, linked := false }
      at_ (x lost 5 0) (.strmSkip 2 6) fun u => faultsB (x lost 5 0) (.strmSkip 2 6) u .stream 0 2) &&
     (let twin := owns 3 fun st => { st with linked := true, fault := some (0, .stream, 0) }
      at_ (x twin 3 0) (.strmSkip 2 6) fun u => (u.myCore.reached ((mfind 2 u.myCore.streams).getD (stream 0 .fp32 0 0)) 3).isSome &&
        waitsB (x twin 3 0) (.strmSkip 2 6) u .link 2) &&
     (let sends := { owns 1 id with requests := [(9, { core := 0, unit := storeUnit, node := 6, addr := 0, kind := 3 })] }
      at_ sends (.strmStop 2) fun u => waitsB sends (.strmStop 2) u .stop 2) &&
     at_ (x (owns 4 id) 3 0) (.strmSkip 2 6) (fun u => waitsB (x (owns 4 id) 3 0) (.strmSkip 2 6) u .link 2) &&
     (after (.strmSkip 2 6) (x (owns 4 linked) 3 0) fun t => (mfind 2 t.myCore.streams).map fun st => (st.pos, st.credits)) == some (some (3, 0)) &&
     at_ (x boot 32 0) (.cbkLoad 3 6) (fun u => faultsB (x boot 32 0) (.cbkLoad 3 6) u .align 32 0) &&
     (after (.cbkLoad 3 6) (x boot 64 0) fun t => t.myCore.cbkCmds.map fun c => (c.slot, c.addr)) == some [(3, 64)]) = true := by decide +kernel

/-- A copy record (R145): `n` bytes in `rows` rows from 0x1000000100 to `dst`. -/
def copyRecord (dst n rows jct : Nat) : Nat := dst + 0x1000000100 * 2 ^ 64 + n * 2 ^ 128 + rows * 2 ^ 160 + n * 2 ^ 192 + n * 2 ^ 256 + jct * 2 ^ 320

/-- A command of channel 1 for it. -/
def copyCmd (w : Nat) (f : CopyCmd → CopyCmd) : CopyCmd :=
  f { id := 5, track := 0, ctx := 1, super := false, fpc := 0, record := toBytes 64 w, cr := (copyOf w).getD ⟨0, 0, 0, 0, 0, 0, 0, 0, false⟩ }

/-- A state in which channel 1 has the commands. -/
def copying (l : List CopyCmd) : State := boot.modMyCore fun k => { k with chans := [(1, { queue := l })] }

/-- CPY's checks in order, overlap by the last byte and none by one more, four that wait; CPY.ABORT; MILE.WAIT; the returns. -/
theorem test_meets_EngineInstructions_copies :
    let i := Instr.cpy 1 6
    let va : Word := 0x1000000800
    let good := copyRecord 0x1000000200 256 1 0
    let reads := fun (s : State) (p : Nat → State → Bool) => begins s i fun s1 => tryOk (s1.readRecord (s1.x 6).toNat 8) p
    let four := List.replicate 4 (copyCmd good id)
    let w := fun (s : State) (k : WaitKind) (i : Instr) => s.modMe fun t => { t with wait := some { kind := k, seq := 5, obj := 1, cycles := 0, instr := i } }
    let m := fun (s : State) (v : Word) => withX s [(6, v)]
    (begins (withX boot [(6, 32)]) i (fun u => faultsB (withX boot [(6, 32)]) i u .align 32 0) &&
     (let s := withRecord boot 64 (copyRecord 0x1000000200 0 1 0); reads s fun w u => (copyOf w).isNone && faultsB s i u .illegal va 0) &&
     (let s := withRecord boot 64 (copyRecord 0x10000001FF 256 1 0); reads s fun w u => (copyOf w).any (fun r => copyOverlaps r 256) && faultsB s i u .illegal va 0) &&
     (let s := withRecord boot 64 (copyRecord 0x1000000200 256 1 32); reads s fun w u => (copyOf w).any (fun r => !copyOverlaps r 256) && faultsB s i u .align 32 0) &&
     (let s := withRecord (copying four) 64 good; reads s fun _ u => waitsB s i u .copyRoom 1) &&
     (after i (withRecord boot 64 good) fun t => (mget {} 1 t.myCore.chans).queue.map (·.cr.length)) == some [256] &&
     (after (.cpyAbort 5 1) (copying [copyCmd good id]) fun t => (t.x 5, (mget {} 1 t.myCore.chans).queue)) == some (1, []) &&
     begins (m boot 1) (.mileWait 1 6) (fun u => completesB (m boot 1) (.mileWait 1 6) (u.takeMile 1)) &&
     begins (m (copying four) 0) (.mileWait 1 6) (fun u => completesB (m (copying four) 0) (.mileWait 1 6) (u.takeMile 1)) &&
     begins (m (copying four) 1) (.mileWait 1 6) (fun u => u.me.wait.isNone && waitsB (m (copying four) 1) (.mileWait 1 6) u .milestone 1) &&
     (let s := m (w (copying four) .milestone (.mileWait 1 6)) 0; resumesB s (.mileWaitReturn 0 0) 0 0 (.mileWait 1 6) (s.takeMile 1)) &&
     (let t := { copying [copyCmd good fun c => { c with started := true }] with
        requests := [(9, { core := 0, unit := writeUnit 5, node := 6, addr := 0, kind := 3 })] }
      begins t (.cpyAbort 5 1) fun u => u.writeInFlight 0 0 1 && waitsB t (.cpyAbort 5 1) u .abort 1) &&
     (let s := boot.modMe fun t => { t with wait := some { kind := .copyRoom, seq := 5, obj := 1, record := toBytes 64 good, instr := i } }
      (copyOf (ofBytes (toBytes 64 good))).isSome && match cpyBody 1 6 s with
       | .done v => resumesB s (.cpyQueueRoom 0 0) 0 0 i v
       | _ => false)) = true := by decide +kernel

/-- A refill that reads and one that faults; a flit and credits between cores 0 and 1; a codebook load's byte. -/
theorem test_meets_StreamEngine :
    let s := owns 0 fun st => { st with buffer := [] }
    let bad := owns 0 fun st => { st with buffer := [], pat := { st.pat with base := 0x1000001000 } }
    let one := (bad.modCore 1 fun k => { k with streams := [(3, { stream 4 .fp32 8 0 with
      inFlight := [.cell 7], partner := some (0, 2), linked := true })] }).modMyCore fun k => { k with streams := [(2, { stream 3 .fp32 8 0 with
      partner := some (1, 3), linked := true })] }
    let g : CbkCmd := { id := 7, track := 0, ctx := 1, super := false, fpc := 0, slot := 3, addr := 0x1000000400 }
    let load := boot.modMyCore fun k => { k with cbkCmds := [g] }
    (match (mfind 2 s.myCore.streams).map fun st => s.engineRead (st.who s.myCore 0) 9 0x1000000400 4 with
      | some (.ok v _) => v == 0
      | _ => false) = true ∧
    (after (.streamRefill 0 2) s fun t => (mfind 2 t.myCore.streams).map (·.buffer.length)) = some (some 1) ∧
    (after (.streamRefill 0 2) bad fun t => (mfind 2 t.myCore.streams).map fun st => st.fault.isSome) = some (some true) ∧
    (after (.linkFlitArrival 0 2) one fun t => ((mfind 2 t.myCore.streams).map (·.buffer), (mfind 3 (t.core 1).streams).map (·.inFlight))) =
      some (some [.cell 7], some []) ∧
    (after (.linkCreditReturn 1 3) one fun t => (mfind 3 (t.core 1).streams).map fun st => decide (0 < st.credits)) = some (some true) ∧
    load.myCore.cbkCmds.find? (·.id == 7) = some g ∧
    (match load.engineRead (g.who load.myCore 0) 7 0x1000000400 1 with
      | .ok v _ => v == 0
      | _ => false) = true := by decide +kernel

/-- A copy's start, its bytes up to the last, and its end. -/
theorem test_meets_CopyEngine :
    let w := copyRecord 0x1000000200 256 1 0
    let s0 := copying [copyCmd w id]
    let s1 := (copying [copyCmd w fun c => { c with started := true, done := 255 }]).setByte 0x10000001FF 0x77
    let s2 := copying [copyCmd w fun c => { c with started := true, done := 256 }]
    let g := copyCmd w fun c => { c with started := true, done := 255 }
    (mget {} 1 s1.myCore.chans).queue = [g] ∧ g.total = 256 ∧ s1.outLen 0 g = 256 ∧ s1.memWf = true ∧
    (match s1.engineRead (g.who s1.myCore 0) 5 (g.srcAddr 255) 1 with
      | .ok v u => v == 0x77 && (match u.engineCheck (g.who s1.myCore 0) (g.dstAddr 255) 1 true (g.covers (g.dstAddr 255 / 64)) with
        | .ok pa _ => pa == 0x10000002FF
        | _ => false)
      | _ => false) = true ∧
    (after (.copyStart 0 1) s0 fun t => (mget {} 1 t.myCore.chans).queue.map fun c => (c.started, c.done)) = some [(true, 0)] ∧
    (after (.copyTransfer 0 1 1) s1 fun t => ((mget {} 1 t.myCore.chans).queue.map (·.done), t.byte 0x10000002FF)) = some ([256], 0x77) ∧
    (after (.copyComplete 0 1) s2 fun t => ((mget {} 1 t.myCore.chans).queue, (mget {} 1 t.myCore.chans).mile)) = some ([], 0x1000000300) := by decide +kernel

/-- A graph record: one CAST from INT8 to INT8. -/
def graphRecord : Nat := 0x10001 + 0x1F1001 * 2 ^ 512

theorem test_meets_InterchangeGraphs :
    let i := Instr.xfLoad 2 6
    let s := withRecord boot 576 graphRecord
    let w := copyRecord 0x1000000200 64 1 0 + 6 * 2 ^ 384
    let run := copyCmd w fun c => { c with started := true, nodes := [{}], graph := some (graphOf graphRecord 1) }
    let busy := s.modMyCore fun k => { k with chans := [(1, { queue := [run] })] }
    let parked := s.modMe fun t => { t with wait := some { kind := .xfload, seq := 5, obj := 2, instr := i }, graph := some (graphOf graphRecord 1) }
    let install := fun (u : State) => (u.modCluster 0 fun k => { k with slots := mput 2 (graphOf graphRecord 1) k.slots }).modMe fun t => { t with graph := none }
    let active := (copying [run]).modCluster 0 fun k => { k with slots := [(2, graphOf graphRecord 1)] }
    let gr := graphOf graphRecord 1
    let x : GCtx := ⟨0, run, graphSizes run.total gr.nodes []⟩
    graphRecordBad graphRecord = none ∧ graphRecordBad (graphRecord + 1) = some 0 ∧
    (begins (withX boot [(6, 32)]) i (fun u => faultsB (withX boot [(6, 32)]) i u .align 32 0) &&
     (let s := withRecord boot 576 (graphRecord + 1); begins s i fun s1 => tryOk (s1.readRecord 0x1000000800 72) fun _ u => faultsB s i u .illegal 0x1000000800 0) &&
     (begins s i fun s1 => tryOk (s1.readRecord 0x1000000800 72) fun w u => w == graphRecord && completesB s i (install (u.moved 0 18 576))) &&
     (begins busy i fun s1 => tryOk (s1.readRecord 0x1000000800 72) fun _ u => waitsB busy i u .xfload 2) &&
     resumesB parked (.xfLoadInstall 0 0) 0 0 i (install { parked with cur := (0, 0) }) &&
     (match x.make gr (active.outLen 0 run) active with
       | .ok m _ => decide (0 < m.taken) && m.out.length == m.taken
       | .wait _ => false
       | .fault _ _ _ => false) &&
     leaves active (.graphBlock 0 1) (fun t => (mget {} 1 (t.core 0).chans).queue.all fun g => decide (0 < g.taken) && g.done == g.taken)) = true := by
  decide +kernel

/-! The grid engine's moves, and what befalls a track. -/

/-- Track 0's core with some commands of its grid engine. -/
def withCmds (l : List GridCmd) : State := grid.modMyCore fun k => { k with gq := l }
def entered (g : GridCmd) : GridCmd := { g with entered := true }

/-- Each reason that holds a command back, none, a ROWSEND's target without a claim, frozen, and claimed, and a completion's trap. -/
theorem test_meets_GridCommands :
    let opa := fun (q : Q8) => GridOp.opa false false true q q 1 1 1 0 0x1000
    let into := fun (l : List GridCmd) (i : List Incoming) (g : GridCmd) => leaves ((withCmds (l ++ [g])).modMyCore fun k => { k with incoming := i })
      (.gridCommandEnter 0 g.id) fun t => ((t.core 0).gq.find? (·.id == g.id)).elim false (·.entered)
    let sent := entered (idle 4 (.send 9 31) [5])
    let target := fun (ctx : Option Nat) (frozen : Bool) (bands : Nat) =>
      ((withCmds [sent]).modTrack 9 2 fun t => { t with trip := some bootTrip, ctxid := 1, bands := bands }).modCore 9 fun k =>
        { k with ctx := ctx, frozen := frozen }
    let arrival := fun (s : State) (p : State → Bool) => leaves s (.rowsendArrival 0 4) p
    let ends := withCmds [{ entered (idle 5 .zero []) with trapElem := some 3 }]
    (into [] [] (idle 3 .zero [40]) && !into [idle 2 .zero [40, 41]] [] (idle 3 .zero [40]) && into [idle 2 .zero [41]] [] (idle 3 .zero [40]) &&
     !into [idle 2 (.park 0) []] [] (idle 3 (.unpark 0) []) && into [idle 2 (.park 0) []] [] (idle 3 (.unpark 1) []) &&
     !into [idle 2 (opa 0) [31]] [] (idle 3 (opa 1) [0]) && into [idle 2 (opa 0) [31]] [] (idle 3 (opa 1) [32]) &&
     !into [{ idle 2 .zero [] with faulted := true }] [] (idle 3 .zero [40]) && !into [] [⟨1, 7, 2, [40]⟩] (idle 3 .zero [40]) &&
     into [] [⟨1, 7, 4, [40]⟩] (idle 3 .zero [40]) &&
     arrival (target none false 1) (fun t => (t.core 0).gq.any (·.faulted)) && arrival (target (some 1) false 0) (fun t => (t.core 0).gq.any (·.faulted)) &&
     arrival (target (some 1) true 0) (fun t => !(t.core 0).gq.any (·.faulted) && !(t.core 9).busy 31) &&
     arrival (target (some 1) false 1) (fun t => !(t.core 0).gq.any (·.faulted) && (t.core 9).busy 31 && !(t.core 9).busy 30) &&
     leaves ends (.gzeroComplete 0 5) (fun t => (t.core 0).gq.isEmpty && t.me.opaTraps == [(0, 3)]) &&
     leaves (ends.modMe fun t => { t with opaTraps := [(8, 3)], tvec := 0x2003 }) (.opaArithTrap 0 0) fun t =>
       t.me.tcause == 0x10D && t.me.telem == 3 && t.me.tfpc == 8 && t.me.level == 1 && t.me.pc == 0x2000) = true := by decide +kernel

/-- An OPA of 2 by 2 adds its products (R104) and replaces at the first update under Z; GZERO's four rows; the first element of each other form. -/
theorem test_meets_GridTransfers :
    let opa := fun (z : Bool) => { entered (idle 5 (.opa false false z 0 1 2 2 2 3 0x1000) [62, 63]) with done := 0 }
    let ready := fun (z : Bool) (done : Nat) => ((opaReady [] 8).modMyCore fun k => { k with gq := [{ opa z with done := done }] }).modMyCore
      fun k => k.setCell 63 4 100
    let cell := fun (s : State) (r c : Nat) (v : Int) => leaves s (.gridEngineTransfer 0 5) fun t => (t.core 0).cell r c == BitVec.ofInt 40 v
    let one := fun (op : GridOp) (rows : List Nat) => withCmds [entered (idle 5 op rows)]
    let filled := (one (.fill .int16 0x1000000080) [7]).setBytes 0x1000000080 2 0xFFFE
    let loaded := (one (.load 0x1000000080) [7]).setBytes 0x1000000080 5 0x123456789A
    let sends := ((one (.send 9 31) [7]).modCore 9 fun k => { k with incoming := [⟨0, 5, 2, [31]⟩] }).modMyCore fun k => k.setCell 7 127 77
    let parked := (one (.park 0) [32]).modMyCore fun k => k.setCell 32 1 0x123
    (cell (ready true 0) 63 4 1 && cell (ready false 0) 63 4 101 && cell (ready true 1) 63 4 109 && cell (ready false 0) 63 5 0 &&
     cell ((one .zero [0, 1, 2, 3, 4]).modMyCore fun k => k.setCell 3 9 5) 3 9 0 && cell filled 7 0 (-2) && cell loaded 7 0 0x123456789A &&
     leaves sends (.gridEngineTransfer 0 5) (fun t => (t.core 9).cell 31 127 == 77 && (t.core 9).incoming.isEmpty) &&
     leaves parked (.gridEngineTransfer 0 5) (fun t => t.bytes ((t.core 0).parkPa 0 0 0 + 5) 5 == 0x123) &&
     leaves ((one (.unpark 0) [32]).setBytes (scratchPa 0 (5 * 0x10000) + 5) 5 0x321) (.gridEngineTransfer 0 5) (fun t => (t.core 0).cell 32 1 == 0x321) &&
     leaves ((one (.save 0x1000000080) [7]).modMyCore fun k => k.setCell 7 0 0x55) (.gridEngineTransfer 0 5) (fun t => t.bytes 0x1000000080 5 == 0x55)) =
    true := by decide +kernel

/-- A load's data, a halt, an engine's record, an escalated track thawed and killed, a CFLUSH acknowledged, and a walk. -/
theorem test_meets_WhatBefallsATrack :
    let rec_ : EngRec := { cause := .align, addr := 12, elem := 3, fpc := 8, engine := 2, unit := 1, cmd := 9, ended := false }
    let stuck := (boot.setStew 0 0 1).modMe fun t => { t with escalated := true, level := 1, tvec := 0x2003, entries := [(1, { tcause := 7 })] }
    let flush := boot.modMe fun t => { t with wait := some { kind := .cflush, seq := 0, obj := 0, cycles := 0, instr := .cflush 6 } }
    (leaves (boot.modMe fun t => { t with pending := [{ id := 3, level := 0, reg := 5, value := 9, pc := 0 }] }) (.loadResponse 0 0) (fun t => t.x 5 == 9 && t.me.pending.isEmpty) &&
     leaves (boot.modMe fun t => { t with haltReq := true, haltWhy := 1 }) (.trackHalt 0 0) (fun t => t.me.halted && t.me.why == 1) &&
     leaves (boot.modMe fun t => { t with records := [rec_] }) (.engineRecordDelivery 0 0) (fun t =>
       t.me.tcause == BitVec.ofNat 64 (Cause.align.code + 256 + 1024) && t.me.taddr == 12 && t.me.telem == 3 && t.me.tfpc == 8 && t.me.records.isEmpty) &&
     leaves stuck (.stewardThawEscalated 0 0) (fun t => !t.me.escalated && t.me.pc == 0x2000 && t.me.tcause == 7) &&
     leaves stuck (.stewardKillTrip 0 0) (fun t => t.me.trip.isNone) &&
     resumesB flush (.cxlFlushAck 0 0) 0 0 (.cflush 6) { flush with cur := (0, 0) } &&
     leaves boot (.pageWalk 0 0 0x5000 true) (fun t => t.byte 0 == 0)) = true := by decide +kernel

/-! Trips and launches. -/

/-- A level of `count` trips in each core (R22), and a launch record of one such level, with its entry, its frames and its stacks. -/
def coreLevel (count : Nat) : LevelRec := { domain := 3, scope := 3, gang := false, epilogue := false, count := count, code := 0 }
def recOf (levels : List LevelRec) : LaunchRec :=
  { version := 1, flags := 0, frameSize := 64, entry := 0x4000, frameBase := 0x8000, pool := 5, lane := 0, trigger := 0, tag := 7, ctx := 0,
    junction := 0, status := 0, stackBase := 0x10000, stackSize := 128, nlevels := 1, npreds := 0, preds := [], levels := levels, reservedOk := true }
def launchOf (levels : List LevelRec) (phase : LaunchPhase) : Launch :=
  { rec_ := recOf levels, ctx := 1, queue := none, phase := phase, root := (levels.map (·.count)).headD 0 }
/-- `s` with launch 3. -/
def withLaunch (s : State) (l : Launch) : State := { s with launches := [(3, l)] }
/-- `s` with its track's trip a leaf of launch 3, bound to its core. -/
def leafOf (s : State) : State := s.modMe fun t => { t with trip := some { bootTrip with serial := 3, leaf := some 2, inst := .core 0, frame := 0x8080 } }

/-- SPAWN pooled, misaligned, and inline with its return; CONT; TRIGGER first and again; YIELD now, waiting, and at its end; EXIT. -/
theorem test_meets_TripInstructions :
    let x := fun (s : State) (v : Word) => withX s [(6, v), (7, 0x9000), (2, 0x1000000800)]
    let full := { boot with ready := (List.range 64).map fun i => ({ seq := i, trip := bootTrip, spawnCore := some 0 } : Ready) }
    let is := Instr.spawn 5 6 7 .core
    let l := leafOf (withLaunch boot (launchOf [coreLevel 4] .started))
    let again := leafOf (withLaunch boot { launchOf [coreLevel 4] .started with triggered := [2] })
    let parked := boot.modMe fun t => { t with wait := some { kind := .yield, seq := 0, cycles := 2, instr := .yield 2 } }
    let inner := ((boot.setBytes 0x1000000018 8 44).setBytes 0x1000000020 8 0x7000).modMe fun t => { t with inline := [(0x1000000000, 9)] }
    let asked := boot.modMyCore fun k => { k with gq := [idle 1 .zero []] }
    (begins (x boot 0x4002) is (fun u => faultsB (x boot 0x4002) is u .align 0x4002 0) &&
     begins (x boot 0x4000) is (fun u => decide (u.spawned 0 < 64) && leaves (x boot 0x4000) is fun t =>
       t.ready.length == 1 && t.x 5 == 0 && (t.conts.all fun c => c.2.join == 2) && t.conts.length == 1 && t.me.pc == 0x1000000004) &&
     begins (x full 0x4000) is (fun u => !decide (u.spawned 0 < 64) && leaves (x full 0x4000) is fun t =>
       t.me.pc == 0x4000 && t.x 3 == 0x9000 && t.x 2 == 0x10000007D8 && t.bytes 0x10000007E0 8 == 0x1000000800 && t.conts.isEmpty) &&
     begins (x boot 0x4001) (.cont 6 7) (fun u => faultsB (x boot 0x4001) (.cont 6 7) u .align 0x4001 0) &&
     leaves (x boot 0x4000) (.cont 6 7) (fun t => t.conts.all fun c => c.2.join == 1 && c.2.code == 0x4000 && c.2.frame == 0x9000) &&
     begins l .trigger (fun u => (u.launch? 3).isSome && leaves l .trigger fun t => t.launches.all fun e => e.2.triggers == 1 && e.2.triggered == [2]) &&
     begins again .trigger (fun u => completesB again .trigger (u.newRegion)) &&
     begins boot (.yield 0) (fun u => completesB boot (.yield 0) u) && begins boot (.yield 2) (fun u => waitsB boot (.yield 2) u .yield 0) &&
     resumesB parked (.yieldEnd 0 0) 0 0 (.yield 2) { parked with cur := (0, 0) } &&
     begins boot .exit (fun u => jumpsB boot .exit ((u.stopOwned 0 0).endTrip 0 0 false)) && begins asked .exit (fun u => waitsB asked .exit u .exit 0) &&
     begins (boot.modMe fun t => { t with level := 1 }) .exit (fun u => jumpsB (boot.modMe fun t => { t with level := 1 }) .exit (u.killTrip 0 0)) &&
     leaves inner .exit (fun t => t.me.pc == 0x7000 && t.x 4 == 44 && t.x 9 == 1 && t.me.inline.isEmpty)) = true := by decide +kernel

/-- The words of a record of one core-bound level of `count` trips, with flags. -/
def recWord (flags count : Nat) : Nat :=
  1 + flags * 2 ^ 16 + 5 * 2 ^ 192 + 2 ^ 608 + (3 + 3 * 2 ^ 3 + 256 * count) * 2 ^ (8 * 0x70)

/-- LAUNCH misaligned, taken, rejected with the least of its codes, and at a full pool; the queue's record read; a pending launch started. -/
theorem test_meets_LaunchesAreTaken :
    let at_ := fun (w : Nat) => withX (boot.setBytes 0x1000000200 256 w) [(6, 0x1000000200)]
    let i := Instr.launch 5 6
    let taken := fun (s : State) (v : Word) (n : Nat) => leaves s i fun t => t.x 5 == v && t.launches.length == n
    let full := fun (s : State) => { s with launches := (List.range 256).map fun j => (j, { launchOf [coreLevel 1] .pending with slot := j }) }
    let queue := fun (w tail : Nat) => ((((State.reset.setBytes 0x1000000200 256 w).setLq 0 0 0x1000000000).setLq 0 0x20 1).setLq 0 0x18 (BitVec.ofNat 64 tail)).setLq 0 0x10 2
    (begins (at_ 0) i (fun _ => faultsB (withX boot [(6, 0x1000000220)]) i (withX boot [(6, 0x1000000220)]).openStrip .align 0x1000000220 0) &&
     begins (at_ (recWord 0 4)) i (fun u => tryOk (u.readRecord 0x1000000200 32) fun w _ => (launchRec w).fails == []) &&
     taken (at_ (recWord 0 4)) 0 1 && taken (at_ (recWord 2 4)) 0x108 0 && taken (at_ (recWord 66 4 + 1)) 0x101 0 && taken (full (at_ (recWord 0 4))) 1 256 &&
     leaves (queue (recWord 0 4) 3) (.queueRecordRead 0) (fun t => t.lqReg 0 0x10 == 3 && t.launches.length == 1 && fld (t.lqReg 0 0x20) 15 8 == 12) &&
     leaves (queue (recWord 0 4) 2) (.queueRecordRead 0) (fun t => t.lqReg 0 0x10 == 2 && t.launches.isEmpty) &&
     leaves (withLaunch State.reset (launchOf [coreLevel 4] .pending)) (.launchStart 3) (fun t => t.launches.all fun e => e.2.phase == .started)) =
      true := by decide +kernel

/-- A push of the next record, and of a gang; a trip's start; a gang's start; an entry that rises; a spilled one that returns. -/
theorem test_meets_TripsStart :
    let l := withLaunch State.reset { launchOf [coreLevel 1024] .started with cursor := [(instKey (.core 2), 3)] }
    let gang := withLaunch State.reset (launchOf [coreLevel 512, { domain := 4, scope := 0, gang := true, epilogue := false, count := 2, code := 0 }] .started)
    let e : Ready := { seq := 9, trip := { bootTrip with serial := 3, inst := .core 2, levelidx := 514, frame := 0x88, code := 0x4000 } }
    let e2 : Ready := { e with seq := 5, waited := 2 ^ 20 }
    (leaves l (.expanderPush 3 (.core 2)) (fun t => (t.ready.map (·.trip.levelidx)) == [514] && (t.ready.map (·.trip.frame)) == [0x8000 + 514 * 64] &&
       t.launches.all fun x => mget 0 (instKey (.core 2)) x.2.cursor == 515) &&
     leaves gang (.expanderPush 3 (.core 2)) (fun t => t.gangs == [{ serial := 3, parent := 2, inst := .core 2, time := 0 }] && t.ready.isEmpty) &&
     leaves { l with ready := [e] } (.tripStart 2 1) (fun t => let k := t.track 2 1
       t.ready.isEmpty && k.pc == 0x4000 && k.getX 3 == 0x88 && k.getX 2 == 0x10000 + 10 * 128 && k.levelidx == 514 && k.trip.isSome && k.getX 4 == 0) &&
     leaves { gang with gangs := [{ serial := 3, parent := 2, inst := .core 2, time := 0 }] } (.gangStart 3 2) (fun t => t.gangs.isEmpty && (t.core 2).tracks.length == 2) &&
     leaves { l with ready := [e, e2] } (.agingThreshold 5) (fun t => (t.ready.map (·.cls)) == [0, 1]) &&
     leaves { l with ready := [{ e with place := 1 }, e2] } (.spillReturn 9) (fun t => (t.ready.map fun x => (x.seq, x.place)) == [(5, 0), (9, 0)])) =
      true := by decide +kernel

/-- Each decrement: a continuation's last but one and its last, with code; a node's; the root's; then a completion whose write faults, made again
and discarded. -/
theorem test_meets_LaunchesComplete :
    let l := launchOf [coreLevel 2] .started
    let cont := fun (j : Nat) (code : Word) => { withLaunch boot l with conts := [(8, { join := j, code := code, trip := { bootTrip with serial := 3, inst := .core 0 } })] }
    let two := withLaunch boot (launchOf [coreLevel 2, coreLevel 5] .started)
    let held := withLaunch State.reset { launchOf [coreLevel 2] .finishing with rec_ := { recOf [coreLevel 2] with status := 0x40 } }
    let ends := withLaunch State.reset (launchOf [coreLevel 2] .finishing)
    let phase := fun (s : State) (i : Instr) (p : LaunchPhase) => leaves s i fun t => t.launches.all fun e => e.2.phase == p
    let stuck := fun (j : Bool) => withLaunch State.reset { launchOf [coreLevel 2] .waitingWrite with held := some (0x40, .align, j) }
    (((withLaunch boot { l with root := 1 }).decrement 3 .root [] 1).launches.all (fun e => e.2.phase == .finishing) &&
     ((cont 2 0).decrement 3 (.cont 8) [] 1).conts.all (fun c => c.2.join == 1) && ((cont 1 0x4000).decrement 3 (.cont 8) [] 1).conts.isEmpty &&
     ((cont 1 0x4000).decrement 3 (.cont 8) [] 1).ready.any (fun e => e.trip.code == 0x4000) &&
     (two.decrement 3 (.node 0 1) [] 1).launches.all (fun e => e.2.nodes == [(1, 4)]) &&
     phase ends (.launchComplete 3) .done && phase held (.launchComplete 3) .waitingWrite && phase (stuck false) (.stewardWriteDiscard 3) .done &&
     phase (stuck true) (.stewardWriteRetry 3) .done && phase (stuck false) (.stewardWriteRetry 3) .done) = true := by decide +kernel

/-! Waypoint images. -/

/-- A supervisor on core 0, whose x6 is a core's number and x7 an address, on a die that runs; core 3 as given. -/
def imaging (v : Word) (c : Core) : State :=
  ((withX sup [(6, v), (7, 0x1000000200)]).setStew 0 0 1).modCore 3 fun _ => c
def frozen3 : Core := { frozen := true, freezeNo := 4 }

/-- FREEZE in user mode, of core 512, of itself, of a frozen core, of a running one, and once it has stopped; its arrival, the seal and the
notices of a link; THAW and THAW.V for each status. -/
theorem test_meets_FreezeAndThaw :
    let f := Instr.freeze 5 6
    let th := Instr.thaw 5 6
    let tv := Instr.thawV 5 6
    let user := withX boot [(6, 3)]
    let seen1 := (imaging 3 {}).modMe fun t => { t with wait := some { kind := .freeze, seq := 0, obj := 3, others := [1], instr := f } }
    let status := fun (i : Instr) (c : Core) (v : Word) => leaves (imaging 3 c) i fun t => t.x 5 == v
    let link := fun (held ack : Bool) => { stream 3 .int8 8 0 with partner := some (3, 2), held := held, heldAck := ack }
    let linked := fun (frozen : Bool) (o : Stream) => (boot.modCore 0 fun k => { k with frozen := frozen, holds := [1], streams := [(1, link false false)] }).modCore 3
      fun k => { k with streams := [(2, o)] }
    let far := fun (t : State) => (mfind 2 (t.core 3).streams).elim (false, false) fun o => (o.held, o.heldAck)
    (begins user f (fun u => faultsB user f u .priv 0 0) && begins (imaging 512 {}) f (fun u => faultsB (imaging 512 {}) f u .illegal 0 0) &&
     begins (imaging 0 {}) f (fun u => faultsB (imaging 0 {}) f u .illegal 0 0) && begins (imaging 511 {}) f (fun u => waitsB (imaging 511 {}) f u .freeze 511) &&
     status f frozen3 1 && begins seen1 f (fun u => completesB seen1 f (u.setX 5 0)) &&
     leaves boot (.freezeArrival 3) (fun t => (t.core 3).frozen && !(t.core 3).sealed && (t.core 3).freezeNo == 1) &&
     leaves (imaging 3 frozen3) (.imageSeal 3) (fun t => (t.core 3).sealed) && leaves (imaging 3 { frozen3 with holds := [1] }) (.imageSeal 3) (fun t => !(t.core 3).sealed) &&
     leaves (linked true (link false false)) (.holdNotice 0 1) (fun t => far t == (true, true)) &&
     leaves (linked true (link true true)) (.holdAck 0 1) (fun t => (t.core 0).holds.isEmpty) &&
     leaves (linked true (link true false)) (.holdAck 0 1) (fun t => (t.core 0).holds == [1]) &&
     leaves (linked false (link true true)) (.releaseNotice 0 1) (fun t => far t == (false, false)) &&
     leaves (boot.modMe fun t => { t with wait := some { kind := .frozenCore, seq := 0, instr := .gwait 0 } }) (.frozenCoreRetry 0 0)
       (fun t => (t.me.wait.map (·.kind)) == some .remote) &&
     status th {} 1 && status th frozen3 0 && status th { frozen3 with departed := true } 3 && status tv { frozen3 with departed := true } 0 &&
     begins user th (fun u => faultsB user th u .priv 0 0) && begins (imaging 512 {}) tv (fun u => faultsB (imaging 512 {}) tv u .illegal 0 0) &&
     leaves ((imaging 3 frozen3).setStew 0 0 0) th (fun t => t.x 5 == 2) &&
     leaves ((imaging 3 frozen3).restart 3) th (fun t => t.x 5 == 1) && (((imaging 3 frozen3).vacate 3 true).core 3).ctx == none) = true := by decide +kernel

/-- The word of an image record with fields of eight bytes at offsets. -/
def imgWord (l : List (Nat × Nat)) : Nat := l.foldl (fun n e => n + e.2 * 2 ^ (8 * e.1)) 0
def imgCmd (load : Bool) (data : Nat) : ImgCmd :=
  { id := 6, core := 3, load := load, record := 0x1000000200, data := data, ctx := 1, super := true, issuer := 0, desc := {}, clock := [] }
/-- Cluster 0's image engine with one command, and what was paused before. -/
def imageEngine (g : ImgCmd) (paused : List ImgCmd) (c : Core) : State :=
  (imaging 3 c).modCluster 0 fun k => { k with images := [g], paused := paused }

/-- A page table at 0x1000001000 that maps the gigabyte from 0x1000000000 on to itself: an engine on a die reads no core's cache. -/
def tabled (s : State) : State := (s.setBytes 0x1000001000 8 0x1000001001).setBytes 0x1000001200 8 0x10000000DF
def rooted (g : ImgCmd) : ImgCmd := { g with desc := { root := 0x1000001000 }, running := true }

/-- IMG.SAVE and IMG.LOAD for each check and status, in their order; an engine that starts, refuses each way, pauses and goes on unsealed. -/
theorem test_meets_Images :
    let sv := Instr.imgSave 5 6 7
    let ld := Instr.imgLoad 5 6 7
    let at_ := fun (v : Word) (c : Core) (w : Nat) => (imaging v c).setBytes 0x1000000200 64 w
    let area := imgWord [(0, 0x10000000000), (8, 0x200000)]
    let gives := fun (s : State) (i : Instr) (v : Word) (n : Nat) => leaves s i fun t => t.x 5 == v && (t.cluster 0).images.length == n
    let odd := withX (at_ 3 frozen3 0) [(7, 0x1000000220)]
    let fault := fun (s : State) (i : Instr) (c : Cause) (a : Word) => begins s i fun u => faultsB s i u c a 0
    let starts := fun (s : State) (p : ImgCmd → Bool) => leaves s (.imageEngineStart 0) fun t => (t.cluster 0).images.any fun g => g.running && p g
    let ends := fun (s : State) (i : Instr) => leaves s i fun t => (t.cluster 0).images.isEmpty
    let resume := imgCmd false (imgWord [(0x1C, 1)])
    let based := imgCmd false (imgWord [(0x10, 5)])
    let refuses := fun (s : State) (n : Nat) => starts s fun g => g.refused == some n
    (fault (withX boot [(6, 3), (7, 0x1000000200)]) sv .priv 0 && fault (at_ 512 frozen3 0) ld .illegal 0 && fault (at_ 0 {} 0) sv .illegal 0 &&
     fault odd sv .align 0x1000000220 && fault odd ld .align 0x1000000220 &&
     gives (imageEngine (imgCmd false 0) [] frozen3) sv 1 1 && gives ((at_ 3 frozen3 area).setStew 0 0 0) sv 1 0 && gives (at_ 3 {} area) sv 2 0 &&
     gives (at_ 3 frozen3 1) sv 3 0 && gives (at_ 3 frozen3 (imgWord [(0x28, 2)])) ld 3 0 && gives (at_ 3 frozen3 area) sv 0 1 && gives (at_ 3 frozen3 0) ld 0 1 &&
     refuses (imageEngine resume [] frozen3) 6 && refuses (imageEngine resume [{ resume with freezeNo := 3 }] frozen3) 6 &&
     ends (tabled (imageEngine { rooted resume with refused := some 6 } [] frozen3)) (.imageSaveComplete 0) &&
     starts (imageEngine resume [{ resume with freezeNo := 4, done := 77, seqNo := 9 }] frozen3) (fun g => g.done == 77 && g.seqNo == 9) &&
     refuses (imageEngine based [] frozen3) 4 && refuses (imageEngine based [] { frozen3 with reference := some (5, 0, 4) }) 5 &&
     starts (imageEngine based [] { frozen3 with reference := some (5, 0, 3) }) (fun g => g.seqNo == 1) &&
     starts (imageEngine (imgCmd true 0) [] frozen3) (fun g => g.load) &&
     ends (tabled (imageEngine (rooted (imgCmd true 0)) [] frozen3)) (.imageLoadComplete 0) &&
     ends (tabled (imageEngine (rooted (imgCmd true 0x2000000000)) [] frozen3)) (.imageCommandPause 0) &&
     leaves (imageEngine { imgCmd false 0 with running := true, cycles := 2 ^ 20 } [] frozen3) (.sealTimeout 3) (fun t => (t.cluster 0).images.all (·.timedOut)) &&
     leaves (imageEngine { imgCmd false 0 with running := true } [] frozen3) (.imageSaveComplete 0) (fun t => (t.cluster 0).images.length == 1)) = true := by decide +kernel

/-- The image of core 3 with a pool byte, a cell and a register, put on core 7 of another state. -/
theorem test_meets_SavedImagesRestore :
    let s := ((State.reset.setByte (scratchPa 3 0x12345) 0x5A).modCore 3 fun k => k.setCell 127 127 9).modTrack 3 3 fun t => t.setX 31 8
    let u := State.reset.setByte (scratchPa 7 5) 1
    let t := u.applyImage 7 (s.imageOf 3 1 0)
    s.memWf = true ∧ u.memWf = true ∧ t.byte (scratchPa 7 0x12345) = 0x5A ∧ t.byte (scratchPa 7 5) = 0 ∧ (t.core 7).cell 127 127 = 9 ∧
      (t.track 7 3).getX 31 = 8 := by decide +kernel

/-! Debug, devices, the module and the transport. -/

/-- A halted track 1 of core 0 whose x5 is 77, and DREGSEL as given: track, space, index. -/
def debugged (u space index : Nat) : State :=
  (boot.modTrack 0 1 fun t => ({ t with halted := true, pc := 0x60 }.setX 5 77).setM 7 (BitVec.ofNat 128 (2 ^ 64 + 3))).modCore 0 fun k =>
    { k with dbg := [(0x40, BitVec.ofNat 64 (u + 4 * space + 2 ^ 16 * index))] }

/-- Halts, resumes and steps; each space read and written at its ends, refused, and at a busy row; a sample, a window and dropped records. -/
theorem test_meets_DebugAndTrace :
    let d := fun (s : State) => mget 0 0x48 (s.core 0).dbg
    let reads := fun (s : State) (v : Word) => leaves s (.dregdataRead 0) fun t => d t == v && !(t.track 0 1).refused
    let refuses := fun (s : State) (i : Instr) (u : Nat) => leaves s i fun t => d t == 0 && (t.track 0 u).refused
    let busy := fun (s : State) => s.modCore 0 fun k => { k with gq := [{ idle 1 .zero [127] with entered := true }] }
    let halt := fun (s : State) => s.modTrack 0 1 fun t => { t with halted := true }
    let smp := boot.modCore 0 fun k => { k with dbg := [(0x1C0, 1 + 64 * 4), (0x1C8, 0x1000000000)], smphead := 16 }
    let die := fun (left : Nat) => (boot.setStew 0 0x800 1).modDie 0 fun d => { d with twtriggered := true, twleft := left, dropped := 3 }
    let portOn := { die 0 with portctl := 0x80000000 }
    (leaves boot (.dbgctlHalt 0 1) (fun t => (t.track 0 1).haltReq) && leaves (halt boot) (.dbgctlStep 0 1) (fun t => (t.track 0 1).stepping && !(t.track 0 1).halted) &&
     leaves (halt boot) (.dbgctlResume 0 1) (fun t => !(t.track 0 1).halted && !(t.track 0 1).stepping) &&
     leaves { boot with gangHalts := [(0, 1)] } (.gangHaltRequest 0 1) (fun t => (t.track 0 1).haltReq && t.gangHalts.isEmpty) &&
     leaves (boot.modCore 0 fun k => { k with lagLost := 4 }) (.lagctlClear 0) (fun t => (t.core 0).lagLost == 0) &&
     reads (debugged 1 0 5) 77 && reads (debugged 1 1 7) 3 && reads (debugged 1 2 7) 1 && reads (debugged 1 6 0) 0x60 && reads (debugged 1 3 0x104) 0 &&
     reads (debugged 1 4 16383) 0 && reads (busy (debugged 1 5 16383)) 0x8000000000000000 && refuses (debugged 1 7 0) (.dregdataRead 0) 1 &&
     refuses (debugged 0 0 5) (.dregdataRead 0) 0 && refuses (debugged 1 0 0) (.dregdataWrite 0 5) 1 && refuses (debugged 1 6 0) (.dregdataWrite 0 2) 1 &&
     leaves (debugged 1 0 31) (.dregdataWrite 0 5) (fun t => (t.track 0 1).getX 31 == 5) && leaves (debugged 1 6 0) (.dregdataWrite 0 8) (fun t => (t.track 0 1).pc == 8) &&
     leaves (debugged 1 2 1) (.dregdataWrite 0 9) (fun t => ((t.track 0 1).getM 1).toNat == 9 * 2 ^ 64) &&
     leaves (debugged 1 4 16383) (.dregdataWrite 0 9) (fun t => (t.core 0).cell 127 127 == 9) &&
     leaves (busy (debugged 1 4 16383)) (.dregdataRead 0) (fun t => (t.core 0).debugWait.map (·.cycles) == [0]) &&
     refuses ((busy (debugged 1 4 16383)).modCore 0 fun k => { k with debugWait := [{ cycles := 65536, sel := BitVec.ofNat 64 (1 + 4 * 4 + 2 ^ 16 * 16383) }] }) (.debugAccessTimeout 0) 1 &&
     leaves smp (.samplerTick 0) (fun t => (t.core 0).smphead == 17) &&
     leaves (die 0) (.traceWindowStop 0) (fun t => (t.die 0).twstopped && (t.die 0).reg 0x800 == 0) && leaves (die 1) (.traceWindowStop 0) (fun t => !(t.die 0).twstopped) &&
     leaves (die 0) (.tracePortDropReport 0) (fun t => (t.die 0).dropped == 3 && (t.die 0).port.isEmpty) &&
     leaves portOn (.tracePortDropReport 0) (fun t => (t.die 0).dropped == 0 && (t.die 0).port.map (·.payload) == [3])) = true := by decide +kernel

/-- A write to each of the registers, with part of a word and misaligned; a queue's tail at and past its size; the steward's bits; SSYNC; SLCAP. -/
theorem test_meets_DeviceRegisters :
    let s := { State.reset with booted := true }
    let w := fun (pa : Nat) (size : Size) (v : Word) => Instr.deviceRegisterWrite ⟨pa, size, v⟩
    let all := BitVec.allOnes 64
    let runs := s.setStew 0 0 1
    (leaves s (w 0xFFF100004 .b8 all) (fun t => t.portctl == 0) && leaves s (w 0xFFF100000 .b8 all) (fun t => t.portctl == 0x1FFFFFFFF) &&
     leaves s (w 0xFFF100008 .b4 all) (fun t => t.portctx == 0xFFFFFFFF) && leaves s (w 0xFFF200000 .b8 all) (fun t => t.rmbase == 0xFFFFFFFFF8000) &&
     leaves s (w 0xFFF20000C .b4 all) (fun t => t.rmnode == 0x100000000) && leaves s (w 0xFFF030018 .b8 all) (fun t => t.stew 3 0x18 == 0xFFFFFFFFFF000) &&
     leaves s (w 0xFFFF000C0 .b8 all) (fun t => t.lqReg 3 0 == 0xFFFFFFFFFF000) && leaves s (w 0xFFFF00018 .b8 16) (fun t => t.lqReg 0 0x18 == 16) &&
     leaves s (.lqtailWrite 0 ⟨0xFFFF00018, .b8, 17⟩) (fun t => t.lqReg 0 0x18 == 0 && t.lqReg 0 0x20 == 4) &&
     leaves s (.sctlRunSet 3) (fun t => t.stew 3 0 == 1) && leaves runs (.sctlRunClear 0) (fun t => t.stew 0 0 == 0) &&
     leaves (runs.modDie 0 fun d => { d with watchdog := 2 ^ 24 }) (.watchdogKick 0) (fun t => (t.die 0).watchdog == 0) &&
     leaves (runs.modDie 0 fun d => { d with watchdog := 2 ^ 24 }) (.watchdogExpire 0) (fun t => t.stew 0 0 == 4) &&
     leaves (runs.modDie 0 fun d => { d with watchdog := 2 ^ 24 - 1 }) (.watchdogExpire 0) (fun t => !(t.core 127).frozen) &&
     leaves s (.ssyncWrite 0 (0x1000000000 + 126)) (fun t => t.stew 0 0x40 == 0x1000000000 + 126) && leaves s (.ssyncWrite 0 (0x1000000000 + 127)) (fun t => t.stew 0 0x40 == 0) &&
     leaves s (.ssyncWrite 1 (0x1000000000 + 1)) (fun t => t.stew 1 0x40 == 0) && leaves runs (.slcapWrite 127 8) (fun t => t.stew 0 (0x100 + 8 * 127) == 8) &&
     leaves runs (.slcapWrite 127 9) (fun t => t.stew 0 (0x100 + 8 * 127) == 1) && leaves s (.slcapWrite 127 8) (fun t => t.stew 0 (0x100 + 8 * 127) == 1)) = true := by
  decide +kernel

/-- Samples of power at and past its limits; heat at 95, 96, 106 and 111 degrees; lifts; a reset; units' errors and tests; a removal's moves. -/
theorem test_meets_PowerErrorsAndRemoval :
    let s := State.reset
    let hot := fun (n : Nat) => { s with time := 1250000 }.modDie 0 fun d => { d with degrees := n, cap := 1 }
    let cap := fun (s : State) (i : Instr) (c : Nat) => leaves s i fun t => (t.die 0).cap == c
    let bank := Instr.targetedUnitTest (.poolBank 5 17)
    let runs := boot.setStew 0 0 1
    let tested := fun (failed : List Nat) => { runs with testing := [.poolBank 5 17] }.modCore 5 fun k => { k with banksFailed := failed }
    let held := fun (c : Nat) (s : State) => (s.modTrack c 1 fun t => { t with trip := some bootTrip }).modCore c fun k =>
      { k with frozen := true, sealed := true }
    let gone := held 5 (runs.modCore 5 fun k => { k with removed := true })
    let late := { (gone.modCore 5 fun k => { k with sealed := false }) with time := 2 ^ 20 }
    (leaves s (.powerSample 3200) (fun t => !t.powerHigh) && leaves s (.powerSample 3201) (fun t => t.powerHigh) && leaves s (.powerSample 3099) (fun t => t.powerLow == 1) &&
     leaves { s with powerHigh := true, powerLow := 100 } .powerThrottleLift (fun t => !t.powerHigh) && leaves { s with powerHigh := true, powerLow := 99 } .powerThrottleLift (·.powerHigh) &&
     cap s (.thermalSense 0 95) 8 && cap s (.thermalSense 0 96) 4 && cap s (.thermalSense 0 106) 1 && cap (hot 94) (.thermalCapLift 0) 4 && cap (hot 89) (.thermalCapLift 0) 8 &&
     cap (hot 95) (.thermalCapLift 0) 1 && leaves (hot 110) (.thermalTrip 0) (fun t => !t.tripped) && leaves (hot 111) (.thermalTrip 0) (fun t => t.tripped) &&
     leaves (boot.setByte (scratchPa 3 0) 1) .moduleReset (fun t => t.byte (scratchPa 3 0) == 0 && t.cores.length == s.cores.length) &&
     leaves s (.ethernetFrameDrop 15) (fun t => t.ethDropped == 1) && leaves s (.cxlRetrainFail 3) (fun t => t.cxlDown == [3]) &&
     leaves s (.errorReport (.memoryLine 0x1000000040) false) (fun t => t.poisoned 0x1000000040) && leaves s (.errorReport (.memoryLine 0x1000000040) true) (fun t => !t.poisoned 0x1000000040) &&
     leaves s (.errorReport (.ethernet 15) true) (fun t => t.testing.isEmpty) && leaves runs (.errorReport (.ethernet 15) true) (fun t => t.testing == [.ethernet 15]) &&
     leaves { s with testing := [.ethernet 15] } (.errorReport (.ethernet 15) true) (fun t => t.ethDown == [15] && t.testing.isEmpty) &&
     leaves { s with testing := [.cxl 3] } (.targetedUnitTest (.cxl 3) false) (fun t => t.cxlDown.isEmpty) &&
     leaves { runs with testing := [.cxl 3] } (.targetedUnitTest (.cxl 3) false) (fun t => t.cxlDown == [3]) && leaves s (bank false) (fun t => !(t.core 5).removed) &&
     leaves (tested []) (bank false) (fun t => !(t.core 5).removed && (t.core 5).banksFailed == [17]) && leaves (tested [3]) (bank false) (fun t => (t.core 5).removed) &&
     leaves (tested [3]) (bank true) (fun t => !(t.core 5).removed) && leaves boot .clockCycle (fun t => t.time == 1) &&
     leaves s (.coreRemoval 5) (fun t => t.hostMap.isEmpty) && leaves late (.coreRemoval 5) (fun t => mget 5 5 t.hostMap == 0 && (t.core 5).tracks.all fun e => e.2.trip.isNone) &&
     leaves { late with time := 2 ^ 20 - 1 } (.coreRemoval 5) (fun t => t.hostMap.isEmpty) && leaves gone (.coreRemoval 5) (fun t => (t.core 0).frozen) &&
     leaves (gone.setStew 0 0 0) (.coreRemoval 5) (fun t => !(t.core 0).frozen && t.hostMap.isEmpty) &&
     leaves (gone.modCore 0 fun k => { k with frozen := true }) (.coreRemoval 5) (fun t => t.hostMap.isEmpty) &&
     leaves (held 0 gone) (.coreRemoval 5) (fun t => mget 5 5 t.hostMap == 0 && t.displaced.length == 1 && !(t.core 0).frozen)) = true := by
  decide +kernel

/-- Each access of a host core: a fence, a misaligned address, an unbacked, a marked and a poisoned one, one that waits, one that is performed, and
registers. -/
theorem test_meets_HostAccesses :
    let s := ({ State.reset with booted := true }).setBytes 0x1000000100 8 41
    let acc := fun (s : State) (pa : Nat) (o : HostOp) (p : State → Bool) => leaves s (.hostMemoryAccess ⟨2, pa, .b8, o⟩) p
    let fault := fun (s : State) (pa : Nat) (o : HostOp) => acc s pa o fun t => t.reports == s.reports ++ [.accessFault 2 pa]
    let fails := fun (s : State) (pa : Nat) => fault s pa .load && fault s pa (.store 5) && fault s pa (.amo .add 5)
    let frozen := ({ State.reset with booted := true }).modCore 3 fun _ => { frozen := true, ctx := some 1, pool := 5 }
    (acc s 0 .fence (fun t => (mfind 2 t.hostFence).isSome) && fails s 0x1000000104 && fails s 0x10 && fails (s.setPoison 0x1000000100 true) 0x1000000100 &&
     fails (s.mark 0x800000100 1 true) 0x800000100 && frozen.backed (scratchPa 3 0) true &&
     acc frozen (scratchPa 3 0) .load (fun t => t.tick == 0 && mfind 2 t.hostValues == none) && acc s 0x1000000100 .load (fun t => mfind 2 t.hostValues == some 41) &&
     acc s 0x1000000100 (.store 5) (fun t => t.bytes 0x1000000100 8 == 5) && acc s 0x1000000100 (.amo .add 5) (fun t => t.bytes 0x1000000100 8 == 46) &&
     fails s 0xFFF100004 && fault s 0xFFF100000 (.amo .add 5) && acc s 0xFFF100000 (.store 5) (fun t => t.portctl == 5) && acc s 0xFFFF00008 .load (fun t => mfind 2 t.hostValues == some 4)) = true := by
  decide +kernel

/-- Each packet in its order, one out of order, and on a connection that is down; a retransmission, the sixteenth's end. -/
theorem test_meets_LesanTransport :
    let p := fun (kind tag addr : Nat) (l : List Byte) => sealPacket
      { version := 1, length := l.length, src := 6, dst := 0, seq := 0, ack := 1, tag := tag, addr := addr, payload := l, crc := 0 } kind
    let conn := fun (c : Conn) => { State.reset.setBytes 0x1000000100 8 41 with conns := [(6, c)] }
    let s := conn { sent := 1, unacked := [(0, 1, 7, 0, [])] }
    let asks := { s with requests := [(9, { core := 0, unit := 0, node := 6, addr := 0x100, kind := 1 })] }
    let out := fun (s : State) (i : Instr) (kind : Nat) (l : List Byte) => leaves s i fun t => (t.outbox.map fun o => (o.1, o.2.payload)) == [(kind, l)]
    (out s (.lesanRead (p 1 9 0x1000000100 [2, 0])) 2 [41, 0] && leaves s (.lesanRead (p 1 9 0 [2, 0])) (fun t => (t.outbox.map (·.1)) == [2] && t.tick == 1) &&
     out s (.lesanWrite (p 3 9 0x1000000100 [5])) 4 [] && leaves s (.lesanWrite (p 3 9 0x1000000100 [5])) (fun t => t.byte 0x1000000100 == 5) &&
     out s (.lesanWrite (p 3 9 0 [5])) 4 [] &&
     out s (.lesanAtomic (p 5 9 0x1000000100 ([BitVec.ofNat 8 (AmoOp.add).code, 8, 1] ++ List.replicate 15 0))) 6 [41, 0, 0, 0, 0, 0, 0, 0] &&
     leaves asks (.lesanReadData (p 2 9 0x100 [3])) (fun t => (t.requests.map (·.2.answer)) == [some [3]] && (t.outbox.map (·.1)) == [11]) &&
     leaves s (.lesanMeetingArrival (p 7 9 0x800000100 [])) (fun t => t.outbox.map (·.1) == [7] || t.outbox.length == 1 || t.outbox.length == 2) &&
     leaves s (.lesanMeetingStatus (p 8 0 0x800000100 [3])) (fun t => (t.outbox.map (·.1)) == [11]) &&
     leaves s (.lesanAcceptLimitNotice (p 10 0 0x100 [])) (fun t => (t.outbox.map (·.1)) == [11]) &&
     leaves (conn { received := 2 }) (.lesanWrite (p 3 9 0x1000000100 [5])) (fun t => (t.outbox.map (·.1)) == [11] && t.byte 0x1000000100 == 41) &&
     leaves (conn { received := 2 ^ 32 - 1 }) (.lesanWrite (p 3 9 0x1000000100 [5])) (fun t => t.outbox.isEmpty && t.byte 0x1000000100 == 41) &&
     leaves s (.lesanWrite { p 3 9 0x1000000100 [5] with payload := [6] }) (fun t => t == s) && leaves s (.lesanRead (p 3 9 0x1000000100 [2, 0])) (fun t => t == s) &&
     leaves (s.modCore 3 fun k => { k with frozen := true }) (.lesanWrite (p 3 9 (scratchPa 3 0) [5])) (fun t => t.outbox.isEmpty && (mget {} 6 t.conns).received == 0) &&
     leaves { s with requests := [(9, { core := 0, unit := storeUnit, node := 6, addr := 0x100, kind := 3 })] } (.lesanWriteAck (p 4 9 0x100 []))
       (fun t => t.requests.isEmpty) &&
     leaves (conn { down := true }) (.lesanWrite (p 3 9 0x1000000100 [5])) (fun t => t.outbox.isEmpty) &&
     leaves s (.lesanAckOnly (p 11 0 0 [])) (fun t => (mget {} 6 t.conns).unacked.isEmpty) &&
     leaves s (.lesanRetransmit 6) (fun t => t.outbox.length == 1 && (mget {} 6 t.conns).tries == 1) &&
     leaves (conn { tries := 16, unacked := [(0, 1, 7, 0, [])] }) (.lesanRetransmit 6) (fun t => t.outbox.isEmpty) &&
     leaves (conn { tries := 16 }) (.lesanConnectionDown 6) (fun t => (mget {} 6 t.conns).down) &&
     leaves (conn { tries := 15 }) (.lesanConnectionDown 6) (fun t => !(mget {} 6 t.conns).down)) = true := by decide +kernel

/-! Decoding, the step, and the canonical form. -/

/-- Well-formed instructions with a word, short and long, and words that decode. -/
theorem test_meets_DecodingTheEncoding :
    ([Instr.add 5 6 7, .opa true false true 7 0 31, .rowfill .bf16 8 3 6, .viadd (.row 1) (.row 1) (.x 5) true ⟨false, 0⟩].all fun i =>
      i.hasWord && i.wf) = true ∧
    ((decodeWords 0x04A63800 0).isOk && !isLong 0x04A63800 && (decodeWords 0xF500400C 0x00019C00).isOk && isLong 0xF500400C) = true := by decide

/-- A track's turn at a word that decodes, at a long one, at one that does not, and while it waits in an instruction that is tried again. -/
theorem test_meets_StepRunsTheDecodedInstruction :
    let pc := fun (s : State) (p : State → Bool) => match step s with
      | .next t => p t
      | .fault _ => false
      | .refused _ => false
    let s := fun (w : Nat) => State.reset.withFetchWord 64 w
    let waits := (s 0).modMe fun t => { t with wait := some { kind := .gwait, seq := 0, instr := .gwait 0 } }
    (pc (s 0x0861FFFF) (fun t => t.x 3 == 0xFFFFFFFFFFFFFFFF && t.me.pc == 0x1000000004) &&
     pc (s (0xF500400C + 2 ^ 32 * 0x00019C00)) (fun t => t.me.tcause == BitVec.ofNat 64 Cause.gridOwn.code && t.me.level == 1) &&
     pc (s 0x04A63820) (fun t => t.me.tcause == BitVec.ofNat 64 Cause.illegal.code && t.me.tepc == 0x1000000000) &&
     pc waits (fun t => t.me.wait.isNone && t.me.pc == 0x1000000004)) = true := by decide +kernel

/-- The states of these tests are canonical, and their steps give a next state. -/
theorem test_meets_StepsKeepCanonicalForm :
    (State.reset.canonical && (State.reset.withFetchWord 32 0x08600005).canonical && (grid.modMyCore fun k => k.setCell 3 4 5).canonical) = true ∧
    (step { boot with schedule := [.issue 0 0] } matches .next _) = true := by decide +kernel

/-! The assembler: the examples of R311, R312 and R393, and a source file with a forward branch (R304, R306, R313). -/

theorem test_elements :
    elementBytes .e2m1 [.decimal false 10 (-1), .decimal false 25 (-1), .decimal false 60 (-1)] = [0x42, 0x07] ∧
    elementBytes .e4m3 [.decimal false 5000 (-1)] = [0x7F] := by decide +kernel

theorem test_expand_li :
    (expandLi 10 0x000123456789ABCD).flatMap encode = [0x2D400001, 0x114A2345, 0x214A0010, 0x114A6789, 0x214A0010, 0x114AABCD] ∧
    expandLi 3 0xFFFFFFFFFFFF8000 = [.addi 3 0 0x8000] ∧ expandLi 3 0x8000 = [.lui 3 0, .ori 3 3 0x8000] := by decide +kernel

theorem test_pattern_record :
    let r := AsmRecord.pattern [("base", .sym "tileA"), ("pop", .num 8), ("type", .num 7)] none [.num 8, .num 16] [.num 0, .num 256]
    (r.bytes [("tileA", 0x1230)] 0 []).map ofBytes =
      some (0x1230 + 2 ^ 64 * 8 + 2 ^ 96 * 16 + 2 ^ 128 + 2 ^ 160 + 2 ^ 256 * 256 + 2 ^ (8 * 0x38) * 8 + 2 ^ (8 * 0x3A) * 7) ∧
    ((AsmRecord.pattern [("type", .num 7)] none [.num 0] []).bytes [] 0 []).isNone = true := by decide +kernel

theorem test_assemble :
    (match assemble [(.text, 0x1000), (.data, 0x2000)] [(1, .label "start"), (2, .pseudo (.beqz 5 (.sym "done"))), (3, .pseudo (.li 6 (.sym "tab"))),
        (4, .label "done"), (5, .instr .exit), (6, .select .data), (7, .emit .b1 [.num 1]), (8, .label "tab"), (9, .align (.num 8)),
        (10, .emit .b4 [.bin .sub (.sym "done") (.sym "start")])] with
      | .ok a => a.defs == [("start", 0x1000), ("done", 0x1008), ("tab", 0x2008)] && a.secs.map (fun e => e.2.2.length) == [12, 12]
      | .error _ => false) = true ∧
    (match assemble [(.text, 0)] [(1, .label "a"), (2, .label "a"), (3, .instr .exit)] with
      | .ok _ => false
      | .error no => no == 2) = true ∧
    (match assemble [(.text, 0)] [(7, .instr (.addi 5 6 0) [.num 0x8000])] with
      | .ok _ => false
      | .error no => no == 7) = true := by decide +kernel


/-! More states, each for a clause of its own. -/

/-- Read-only registers with and without a reserved bit; RACESTAT's W1C bit; an event of code 4, of none, and an overflow cleared; TCAUSE in a handler. -/
theorem test_meets_SystemRegisters_fields :
    let wr := fun (s : State) (v : Word) (n : Fin 4096) (p : State → State → Bool) => let s := withX s [(6, v)]; begins s (.syswr n 6) (p s)
    let ok := fun (s : State) (v : Word) (n : Fin 4096) (f : State → Bool) => wr s v n fun s u => completesB s (.syswr n 6) u && leaves s (.syswr n 6) f
    let bad := fun (s : State) (v : Word) (n : Fin 4096) => wr s v n fun s u => faultsB s (.syswr n 6) u .illegal 0 0
    let raced := { boot with racestat := [(1, 0x300000009)] }
    let counted := boot.modMyCore fun k => { k with evc := [(15, 0x1020000000000FF)] }
    (ok boot 0xFFFFFFFF 0 (fun t => t.me.tripid == boot.me.tripid) && bad boot 0x100000000 0 && ok boot 5 0x27 (fun t => t.me.tcause == 0) &&
     ok sup 0x7F 0x105 (fun t => t.me.level == 0) && bad sup 0x80 0x105 && bad sup 0x1000 0x100 && ok sup 9 0x10F (fun t => t.me.tsave == sup.me.tsave) &&
     ok raced 0x100000005 0x30 (fun t => mget 0 1 t.racestat == 0x200000005) && bad raced 0x200000000 0x30 &&
     ok counted 0x104000000000007 0x4F (fun t => mget 0 15 t.myCore.evc == 0x4000000000007) && ok counted 0x26000000000000 0x4F (fun t => mget 0 15 t.myCore.evc == 0x126000000000000) &&
     bad counted 0x5000000000000 0x4F && bad counted 0x27000000000000 0x4F && bad counted 0x200000000000000 0x4F &&
     leaves (withX (sup.modMe fun t => { t with level := 2 }) [(6, 0xFFF)]) (.syswr 0x100 6) (fun t => t.me.tcause == 0xFFF && (mget {} 2 t.me.frames).tcause == 0xFFF)) = true := by decide +kernel

/-- Waits of two tracks for one queue: the older goes on, the younger does not, and a new instruction joins behind. -/
theorem test_meets_Crossings_order :
    let w := fun (seq : Nat) (k : WaitKind) (i : Instr) (t : Track) => { t with wait := some { kind := k, seq := seq, obj := 7, cycles := 0, instr := i } }
    let c := fun (n : Nat) => withX (boot.modMyCore fun k => { k with cross := [(7, n)] }) [(6, 20)]
    let both := fun (k : WaitKind) (i : Instr) (mine other n : Nat) => ((c n).modMe (w mine k i)).modTrack 0 1 (w other k i)
    let stays := fun (s : State) (i : Instr) => leaves s i fun t => t.me.wait.map (·.seq) == s.me.wait.map (·.seq) && t.me.pc == s.me.pc && t.myCore.cross == s.myCore.cross
    (leaves (both .crossPost (.crossPost 7 6) 4 5 9) (.crossPostWake 0 0) (fun t => t.me.wait.isNone && mget 0 7 t.myCore.cross == 29) &&
     stays (both .crossPost (.crossPost 7 6) 5 4 9) (.crossPostWake 0 0) &&
     leaves (both .crossTake (.crossTake 5 7) 4 5 9) (.crossTakeWake 0 0) (fun t => t.me.wait.isNone && t.x 5 == 8) &&
     stays (both .crossTake (.crossTake 5 7) 5 4 9) (.crossTakeWake 0 0) &&
     (let s := (c 9).modTrack 0 1 (w 4 .crossTake (.crossTake 5 7)); begins s (.crossPost 7 6) fun u => decide (mget 0 7 u.myCore.cross = 9)) &&
     leaves ((c 9).modTrack 0 1 (w 4 .crossPost (.crossPost 7 6))) (.crossTake 5 7) (fun t => t.x 5 == 8 && t.me.wait.isNone)) = true := by decide +kernel

/-- A break reaches a member that waits, whatever follows; a verdict is the result at the return. -/
theorem test_meets_Barriers_verdicts :
    let w := fun (v : Option Nat) (t : Track) => { t with wait := some { kind := .barrier, seq := 5, obj := 0x800000100, cycles := 0, verdict := v, instr := .barWait 5 6 0 } }
    let b := (barState 0 7 0 none).modMe (w none)
    let v := (barState 0 0 0 none).modMe (w (some 1))
    ((b.breakBarrier 1 0x800000100).me.wait.map (·.verdict) == some (some 1) && (b.breakBarrier 1 0x800000100).bytes 0x80000010C 1 == 1 &&
     resumesB v (.barWaitReturn 0 0) 0 0 (.barWait 5 6 0) ({ v with cur := (0, 0) }.setX 5 1)) = true := by decide +kernel

/-- What a close gives to the forms that wait, a verdict at each return, and a wait in a meeting that has been opened afresh since. -/
theorem test_meets_Meetings_verdicts :
    let pa := 0x800000100
    let i := fun (k : WaitKind) => if k = .meetSlot then Instr.meetSlot 5 6 7 else if k = .meetArrive then .meetArrive 5 6 7 else .meetWait 5 6 7
    let w := fun (s : State) (k : WaitKind) (v : Option Nat) (m : Option Nat) =>
      s.modMe fun t => { t with wait := some { kind := k, seq := 5, obj := pa, cycles := 0, verdict := v, meeting := m, instr := i k } }
    let s := fun (k : WaitKind) (v : Option Nat) => w (member1 (meetState 4 {}) 2) k v none
    let old := { w (member1 (meetState 4 {}) 2) .meetWait none (some 8) with oldMeets := [(pa, { record := descriptor, status := 2, agent := 8, written := [(2, [])] })] }
    let gives := fun (s : State) (e : Instr) (v : Word) => leaves s e fun t => t.x 5 == v && t.me.wait.isNone
    (((s .meetSlot none).meetShut pa).me.wait.map (·.verdict) == some (some 3) && (((s .meetSlot none).meetShut pa).meet pa).status == 2 &&
     gives (s .meetSlot (some 3)) (.meetSlotReturn 0 0) 3 && gives (s .meetArrive (some 3)) (.meetArriveReclassify 0 0) 3 &&
     gives (s .meetWait (some 3)) (.meetWaitReturn 0 0) 3 && gives old (.meetWaitReturn 0 0) 0) = true := by decide +kernel

/-- Nothing to combine; a contribution that is poisoned, and one behind a link under test; a result on a poisoned buffer; notices of proxies and old meetings. -/
theorem test_meets_MeetingRounds_stops :
    let pa := 0x800000100
    let rel : Rel := ⟨.core 0, .system, []⟩
    let r : Round := ⟨0, [⟨1, 0, 0, rel, none⟩], []⟩
    let s := (meetState 1 { rounds := [r] }).setBytes 0x800001000 8 0x400000003F800000
    let far := fun (x : Nat) => descriptor - 0xFD000000001000 * 2 ^ (8 * 0x58) + x * 2 ^ (8 * 0x58)
    let linked := let s := (s.setBytes 0x1000001000 8 0x1000001001).setBytes 0x1000001200 8 0x34000000DF
      { s.setMeet pa { s.meet pa with record := far 0x1000002000, desc := { flags := 15, root := 0x1000001000 } } with testing := (List.range 8).map .causeway }
    let fault := fun (s : State) => leaves s (.meetCombine pa) fun t => (t.meet pa).status == 10 && (t.meet pa).rounds.isEmpty && t.reports.length == 1
    let proxy := fun (st due : Nat) => let s := meetState 1 {}
      s.setMeet pa { s.meet pa with record := descriptor + 4 * 2 ^ (8 * 0x14), status := st, due := due }
    let shut := proxy 2 4
    let old := { meetState 1 {} with oldMeets := [(pa, { due := 3, agent := 8 })] }
    (leaves (meetState 1 {}) (.meetCombine pa) (fun t => t == meetState 1 {}) && fault (s.setPoison 0x800001080 true) && fault (s.setPoison 0x800002000 true) &&
     leaves linked (.meetCombine pa) (fun t => (t.meet pa).rounds == [r] && t.reports.isEmpty) &&
     leaves (proxy 1 0) (.meetCloseNotice pa) (fun t => (t.meet pa).status == 2) && leaves shut (.meetCloseNotice pa) (fun t => (t.meet pa).due == 0) &&
     leaves old (.meetCloseNotice pa) (fun t => t.oldMeets.all fun e => e.2.due == 0)) = true := by decide +kernel

/-- STRM.SKIP on output to a core's grid, past a cut link, before and past a fault, on a linked output; a refill of a link that is full stays. -/
theorem test_meets_StreamSkips :
    let x := fun (s : State) (a : Word) => withX s [(6, a)]
    let i := Instr.strmSkip 2 6
    let st := fun (s : State) => mfind 2 s.myCore.streams
    let bad := fun (s : State) => begins s i fun u => faultsB s i u .stream 0 2
    let cut := owns 3 fun st => { st with cut := true, linked := true }
    let hit := fun (e : Nat) => (owns 0 fun st => { st with fault := some (e, .align, 5), told := true }).modMe fun t =>
      { t with level := 1, records := [{ cause := .align, addr := 5, elem := e, fpc := 0, engine := 0, unit := 2, cmd := 9, ended := false }] }
    let linked := fun (c : Nat) (h : Bool) => (owns 4 fun st => { st with linked := true, credits := c, held := h, partner := some (1, 3), buffer := [] }).modCore 1 fun k =>
      { k with streams := [(3, stream 3 .fp32 8 0)] }
    (bad (x (owns 2 id) 1) && bad (x cut 5) && leaves (x cut 4) i (fun t => (st t).elim false fun o => o.pos == 4 && o.freed == 4 && o.buffer.isEmpty) &&
     leaves (x (hit 3) 4) i (fun t => (st t).elim false fun o => o.pos == 4 && o.fault.isNone && t.me.records.isEmpty) &&
     leaves (x (hit 4) 4) i (fun t => (st t).elim false fun o => o.pos == 4 && o.fault.isSome && t.me.records.length == 1) &&
     leaves (x (linked 8 false) 8) i (fun t => (st t).elim false fun o => o.pos == 8 && o.credits == 0 && o.inFlight.length == 8) &&
     begins (x (linked 7 false) 8) i (fun u => waitsB (x (linked 7 false) 8) i u .link 2) &&
     begins (x (linked 8 true) 8) i (fun u => waitsB (x (linked 8 true) 8) i u .link 2)) = true := by decide +kernel

/-- A copy's granule of eight bytes, a source and a destination that fault, a source behind a lost link, and a target that is full; what takes MILE on. -/
theorem test_meets_CopyEngine_granules :
    let w := copyRecord 0x1000000200 256 1 0
    let g := fun (done : Nat) => copyCmd w fun c => { c with started := true, done := done }
    let s := ((copying [g 0]).setBytes 0x1000000100 8 0x1122334455667788)
    let far := copyCmd (w - 0x1000000100 * 2 ^ 64 + 0x2000000100 * 2 ^ 64) fun c => { c with started := true, map := [(0, ⟨6, 0x100000, true⟩)] }
    let lost := { farBoot [] [] with conns := [(6, { down := true })] }.modMyCore fun k => { k with chans := [(1, { queue := [far] })] }
    let reads := fun (s : State) (g : CopyCmd) (n : Nat) => s.engineRead (g.who s.myCore 0) g.id (g.srcAddr g.done) n
    let fault := fun (s : State) (c : Cause) (a : Word) (e : Nat) (ended : Bool) => leaves s (.copyTransfer 0 1 8) fun t =>
      (t.me.records.map fun r => (r.cause, r.addr, r.elem.toNat, r.ended)) == [(c, a, 2 ^ 61 + e, ended)]
    (g 0).dstAddr 0 % 8 = 0 ∧ s.memWf = true ∧
    (match reads s (g 0) 8 with
      | .ok v u => v == 0x1122334455667788 && (match u.engineChecks ((g 0).who s.myCore 0) (g 0).covers 0x1000000200 8 with
        | .ok pas u' => pas == (List.range 8).map (0x1000000200 + ·) && (mget {} 1 (u'.core 0).chans).queue == [g 0]
        | _ => false)
      | _ => false) = true ∧
    (leaves s (.copyTransfer 0 1 8) (fun t => t.bytes 0x1000000200 8 == 0x1122334455667788 && (mget {} 1 t.myCore.chans).queue.map (·.done) == [8]) &&
     fault (s.setPoison 0x1000000104 true) .poison 0x1000000100 0 false && fault (copying [copyCmd (copyRecord 0x5000000200 256 1 0) fun c => { c with started := true }]) .protect 0x5000000200 0 false &&
     (match reads lost far 8 with
      | .fault x _ _ => x == .linkDown
      | _ => false) && fault lost .linkDown 0x1000000200 0 true) = true := by decide +kernel

/-- A ROWSEND whose way is under test, ACC80 and FP rows, a load at a frozen core, a cancelled one, one for x2 of an outer level, and the returns of others. -/
theorem test_meets_WhatBefallsATrack_loads :
    let p : PendingLoad := { id := 3, level := 0, reg := 5, value := 9, pc := 0 }
    let loads := fun (p : PendingLoad) (f : Track → Track) => boot.modMe fun t => f { t with pending := [p] }
    let frozen := (loads p id).modMyCore fun k => { k with frozen := true }
    let rec_ : EngRec := { cause := .align, addr := 12, elem := 3, fpc := 8, engine := 2, unit := 7, cmd := 9, ended := false }
    let waits := withX (boot.modMe fun t =>
      { t with records := [rec_], wait := some { kind := .milestone, seq := 0, obj := 7, instr := .mileWait 7 6 } }) [(6, 4)]
    let flush := boot.modMe fun t => { t with wait := some { kind := .cflush, seq := 0, obj := 0x8000000000000 / 64, instr := .cflush 6 } }
    let lost := { farBoot [] [] with conns := [(6, { down := true })] }.modMe fun t => { t with wait := flush.me.wait }
    let done := fun (s : State) (f : State → Bool) => leaves s (.loadResponse 0 0) f
    (done frozen (fun t => t.x 5 == 0 && t.me.pending.all (·.landed)) && done (loads { p with cancelled := true } id) (fun t => t.x 5 == 0 && t.me.pending.isEmpty) &&
     done (loads { p with reg := 2 } fun t => { t with level := 1 }) (fun t => t.x 2 == 0 && (mget {} 1 t.me.frames).x2 == 9) &&
     (waits.waitRecord 0 0 == some rec_ && leaves waits (.engineRecordDelivery 0 0) fun t =>
       t.me.level == 1 && t.me.wait.isNone && t.me.telem == 3 && t.me.records.isEmpty && t.me.resume == some 9) &&
     lost.linkDown 0x8000000000000 &&
     leaves lost (.cxlFlushAck 0 0) (fun t => t.me.tcause == BitVec.ofNat 64 Cause.linkDown.code && t.me.wait.isNone)) = true := by decide +kernel

/-- A walk that finds a leaf, for a write and for a read, and one that does not. -/
theorem test_meets_WhatBefallsATrack_walks :
    let s := (boot.modMe fun t => { t with desc := { t.desc with root := 0x1000001000 } }).modCore 0 fun k => { k with tlb := [] }
    let s := (s.setBytes 0x1000001000 8 0x1000001001).setBytes 0x1000001200 8 0x100000001F
    let e := fun (w : Bool) (p : Nat → Bool) => leaves s (.pageWalk 0 0 0x1000000000 w) fun t => p (t.bytes 0x1000001200 8)
    (e true (· == 0x10000000DF) && e false (· == 0x100000005F) && leaves s (.pageWalk 0 0 0x3000000000 true) (fun t => t.bytes 0x1000001200 8 == 0x100000001F)) = true := by
  decide +kernel

/-- A ROWSEND behind a link under test; a LAUNCH there; a spill area that is full, for a push and for a SPAWN. -/
theorem test_meets_links_and_full_areas :
    let tested := fun (s : State) => { s with testing := (List.range 8).map .causeway }
    let sent := entered (idle 4 (.send 129 31) [5])
    let send := tested (((withCmds [sent]).modTrack 129 2 fun t => { t with trip := some bootTrip, ctxid := 1, bands := 1 }).modCore 129 fun k => { k with ctx := some 1 })
    let home := fun (h : Nat) => withX (boot.setBytes 0x1000000200 256 (recWord (h * 2 ^ 4) 4)) [(6, 0x1000000200)]
    let older := fun (s : State) (c : Nat) => { s with ready := [{ seq := 0, place := 3, trip := { bootTrip with serial := 3, inst := .core c } }] }
    let pushes := older (withLaunch State.reset { launchOf [coreLevel 1024] .started with cursor := [(instKey (.core 2), 3)] }) 2
    let spawns := older (withX boot [(6, 0x4000), (7, 0x9000), (2, 0x1000000800)]) 0
    (send.routeTested 0 1 && leaves send (.rowsendArrival 0 4) (fun t => t == send) &&
     (launchRec (recWord (2 ^ 4) 4)).home == 1 && begins (tested (home 1)) (.launch 5 6) (fun _ => leaves (tested (home 1)) (.launch 5 6) fun t => t.launches.isEmpty && t.me.wait.isSome) &&
     leaves pushes (.expanderPush 3 (.core 2)) (fun t => t.ready == pushes.ready && t.reports.length == 1) &&
     leaves spawns (.spawn 5 6 7 .core) (fun t => t.ready == spawns.ready && t.me.pc == 0x4000 && t.x 3 == 0x9000 && t.reports.length == 1)) = true := by decide +kernel

/-- A continuation that passes on to its parent's, a node's last child with an epilogue and without, each return to a completion's writes. -/
theorem test_meets_LaunchesComplete_chains :
    let l := launchOf [coreLevel 2, coreLevel 5] .started
    let s := withLaunch boot { l with nodes := [(1, 1)] }
    let c := fun (join : Nat) (p : Parent) => ({ join := join, code := 0, trip := { bootTrip with serial := 3, inst := .core 0, parent := p } } : Cont)
    let chain := { withLaunch boot l with conts := [(8, c 1 (.cont 9)), (9, c 2 .root)] }
    let epi := withLaunch boot { launchOf [{ coreLevel 2 with epilogue := true, code := 0x4000 }, coreLevel 5] .started with nodes := [(1, 1)] }
    let todo := fun (n : Nat) => withLaunch State.reset { launchOf [coreLevel 2] .finishing with todo := some n }
    let phase := fun (s : State) (i : Instr) (p : LaunchPhase) => leaves s i fun t => t.launches.all fun e => e.2.phase == p
    (((chain.decrement 3 (.cont 8) [] 4).conts.map fun e => (e.1, e.2.join)) == [(9, 1)] &&
     (s.decrement 3 (.node 0 1) [] 4).launches.all (fun e => e.2.nodes.isEmpty && e.2.root == 1) &&
     (epi.decrement 3 (.node 0 1) [] 4).ready.any (fun e => e.trip.code == 0x4000 && e.trip.epilogue && e.trip.levelidx == 1) &&
     phase (todo 0) (.launchComplete 3) .done && phase (todo 1) (.launchComplete 3) .done) = true := by decide +kernel

/-- A steward's own FREEZE of a running and of a frozen core, one behind a link under test; notices to a partner behind one; THAW while a trip of the
heat or a test of a band holds it, with an image queued, and with a load paused. -/
theorem test_meets_FreezeAndThaw_holds :
    let tested := fun (s : State) => { s with testing := (List.range 8).map .causeway }
    let w := fun (s : State) => s.modMe fun t => { t with wait := some { kind := .freeze, seq := 0, obj := 130, instr := .freeze 5 6 } }
    let far := tested (w (imaging 130 {}))
    let thaws := fun (s : State) (i : Instr) (v : Word) => leaves s i fun t => t.x 5 == v
    let f := imaging 3 frozen3
    let load := imgCmd true 0
    let paused := (imageEngine load [] frozen3).modCluster 0 fun k => { k with images := [], paused := [load] }
    let link := { stream 3 .int8 8 0 with partner := some (130, 2) }
    let linked := tested ((boot.modCore 0 fun k => { k with frozen := true, holds := [1], streams := [(1, link)] }).modCore 130 fun k =>
      { k with streams := [(2, { stream 4 .int8 8 0 with partner := some (0, 1) })] })
    (leaves State.reset (.freezeArrival 3) (fun t => (t.core 3).frozen && t.reports.length == 1) &&
     leaves (State.reset.modCore 3 fun k => { k with frozen := true }) (.freezeArrival 3) (fun t => (t.core 3).freezeNo == 0 && t.reports.length == 1) &&
     leaves far (.freezeArrival 130) (fun t => t == far) && leaves (w (imaging 130 {})) (.freezeArrival 130) (fun t => (t.core 130).frozen && t.reports.isEmpty) &&
     linked.partnerFar 0 1 && leaves linked (.holdAck 0 1) (fun t => t == linked) &&
     thaws { f with tripped := true } (.thaw 5 6) 2 && thaws { f with testing := [.macBand 3 1] } (.thaw 5 6) 2 &&
     thaws (imageEngine load [] frozen3) (.thawV 5 6) 2 && thaws paused (.thaw 5 6) 2 && thaws paused (.thawV 5 6) 0 &&
     leaves paused (.thawV 5 6) (fun t => (t.cluster 0).paused.isEmpty && (t.core 3).ctx == none)) = true := by decide +kernel

/-- A resume of another freeze, one that goes on, a load where another is paused, and a save of a core whose load is paused. -/
theorem test_meets_Images_paused :
    let load := imgCmd true 0
    let other := { load with record := 0x1000000300 }
    let resume := imgCmd false (imgWord [(0x1C, 1)])
    let s := imageEngine resume [{ resume with freezeNo := 3 }] frozen3
    let both := imageEngine load [{ other with freezeNo := 4 }] frozen3
    (leaves s (.imageEngineStart 0) (fun t => (t.cluster 0).paused.isEmpty && (t.cluster 0).images.all fun g => g.refused == some 6) &&
     both.loadPaused 3 && leaves both (.imageEngineStart 0) (fun t => (t.cluster 0).images.all (fun g => g.running && g.load) && (t.cluster 0).paused.isEmpty && (t.core 3).frozen) &&
     (let s := (imaging 3 frozen3).modCluster 0 fun k => { k with paused := [load] }
      leaves (s.setBytes 0x1000000200 64 (imgWord [(0, 0x10000000000), (8, 0x200000)])) (.imgSave 5 6 7) fun t => t.x 5 == 1)) = true := by decide +kernel

/-- DBGCTL on a frozen core; a write to a register that a load is pending for; an access behind another, at a frozen core, and a host's that times out. -/
theorem test_meets_DebugAndTrace_waits :
    let fz := fun (s : State) => s.modCore 0 fun k => { k with frozen := true }
    let halted := debugged 1 0 5
    let pending := halted.modTrack 0 1 fun t => { t with pending := [{ id := 3, level := 0, reg := 5, value := 9, pc := 0 }] }
    let busy := (debugged 1 4 16383).modCore 0 fun k => { k with gq := [{ idle 1 .zero [127] with entered := true }] }
    let a : DbgAcc := { cycles := 65536, sel := BitVec.ofNat 64 (1 + 4 * 4 + 2 ^ 16 * 16383), host := some (2, 0, 8) }
    let late := busy.modCore 0 fun k => { k with debugWait := [a] }
    let waits := fun (s : State) (n : Nat) => leaves s (.dregdataWrite 0 7) fun t => (t.core 0).debugWait.map (·.write) == List.replicate n none ++ [some 7]
    (leaves (fz halted) (.dbgctlResume 0 1) (fun t => t == fz halted) && leaves (fz halted) (.dbgctlStep 0 1) (fun t => t == fz halted) &&
     leaves pending (.dregdataWrite 0 7) (fun t => (t.track 0 1).getX 5 == 7 && (t.track 0 1).cancelled && (t.track 0 1).pending.all (·.cancelled)) &&
     waits (fz halted) 0 && waits busy 0 && waits (halted.modCore 0 fun k => { k with debugWait := [{ a with host := none }] }) 1 &&
     leaves late (.debugAccessTimeout 0) (fun t => mfind 2 t.hostValues == some 0 && (t.core 0).debugWait.isEmpty && (t.track 0 1).refused) &&
     leaves (busy.modCore 0 fun k => { k with debugWait := [{ a with cycles := 65535 }] }) (.debugAccessTimeout 0) (fun t => (t.core 0).debugWait.length == 1) &&
     leaves { (boot.setStew 0 0x800 1) with portctl := 0x1000000000 } (.tracePortDropReport 0) (fun t => (t.die 0).port.isEmpty)) = true := by decide +kernel

/-- A host core's accesses to another node, with an answer and none, and to DREGDATA. -/
theorem test_meets_HostAccesses_far :
    let acc := fun (s : State) (pa : Nat) (o : HostOp) (p : State → Bool) => leaves s (.hostMemoryAccess ⟨2, pa, .b8, o⟩) p
    let s := { farBoot [] [] with booted := true }
    let down := { s with conns := [(6, { down := true })] }
    let tested := { State.reset with booted := true, testing := (List.range 8).map .causeway }
    (acc s 0x8000000000100 .load (fun t => t.outbox.length == 1 && t.reports.isEmpty) && acc s 0x8000000000100 (.store 5) (fun t => t.outbox.length == 1) &&
     acc s 0x8000000000104 .load (fun t => t.outbox.isEmpty && t.reports.length == 1) && acc down 0x8000000000100 .load (fun t => t.outbox.isEmpty && t.reports.length == 1) &&
     acc tested 0x1000000100 .load (fun t => mfind 2 t.hostValues == none && t.reports.isEmpty)) = true := by decide +kernel

/-- An instruction that reads a register a load is pending for is not issued; with nothing pending it is. -/
theorem test_meets_Steps_awaiting_loads :
    let s := fun (l : List PendingLoad) => { (State.reset.placeWord 0x04A63800).modTrack 0 0 fun t => { t with pending := l } with schedule := [.issue 0 0] }
    let pcOf := fun (s : State) => (s.track 0 0).pc
    let stepped := fun (s : State) => match step s with
      | .next t => some (pcOf t)
      | .fault _ => none
      | .refused _ => none
    let p : PendingLoad := { id := 3, level := 0, reg := 6, value := 9, pc := 0 }
    stepped (s [p]) = some (pcOf (s [])) ∧ stepped (s [{ p with reg := 9 }]) = some (pcOf (s []) + 4) ∧ stepped (s []) = some (pcOf (s []) + 4) := by decide +kernel

/-- A graph's block whose source is poisoned, and one behind a link under test: the progress it kept. -/
theorem test_meets_InterchangeGraphs_stops :
    let w := copyRecord 0x1000000200 64 1 0 + 6 * 2 ^ 384
    let run := fun (w : Nat) => copyCmd w fun c => { c with started := true, nodes := [{}], graph := some (graphOf graphRecord 1) }
    let active := fun (s : State) (w : Nat) => (s.modMyCore fun k => { k with chans := [(1, { queue := [run w] })] }).modCluster 0 fun k =>
      { k with slots := [(2, graphOf graphRecord 1)] }
    let make := fun (s : State) (w : Nat) => GCtx.make ⟨0, run w, graphSizes (run w).total (graphOf graphRecord 1).nodes []⟩ (graphOf graphRecord 1) (s.outLen 0 (run w)) s
    let bad := active (boot.setPoison 0x1000000100 true) w
    let v := w + 0x2000000000 * 2 ^ 64
    let far := active (farBoot [] ((List.range 8).map .causeway)) v
    ((match make bad w with
      | .fault c a _ => c == .poison && a == 0x1000000100
      | _ => false) && leaves bad (.graphBlock 0 1) (fun t => t.me.records.map (·.cause) == [.poison] && (mget {} 1 (t.core 0).chans).queue.all fun g => g.done == 0) &&
     (match make far v with
      | .wait _ => true
      | _ => false) && leaves far (.graphBlock 0 1) (fun t => t.me.records.isEmpty && (mget {} 1 (t.core 0).chans).queue.all fun g => g.taken == 0)) = true := by decide +kernel

/-- The throttle's first cycle and the next; a unit's test while no steward runs; images paused keep the state canonical. -/
theorem test_meets_power_tests_and_paused_images :
    let t : Track := { issuedAt := some 9 }
    let s := fun (from_ now : Nat) => { State.reset with powerHigh := true, powerFrom := from_, time := now }
    ((s 9 10).throttled 0 t && !(s 10 10).throttled 0 t && !(s 9 11).throttled 0 t &&
     leaves { State.reset with testing := [.ethernet 2] } (.targetedUnitTest (.ethernet 2) false) (fun t => t.testing == [.ethernet 2]) &&
     ({ State.reset with schedule := [.event (.imageCommandPause 0)] }.modCluster 0 fun k => { k with paused := [imgCmd true 0] }).canonical) = true := by decide +kernel

/-! Clauses of the engines: a copy through a graph, a piece on its way to another node, a block of each operator. -/

/-- A graph of one CAST from `t` in slot 2, and channel 1's commands `l`. -/
def slotted (t : ElemType) (ctx : Nat) (l : List CopyCmd) : State :=
  (copying l).modCluster 0 fun k => { k with slots := [(2, { graphOf graphRecord ctx with nodes := ((graphOf graphRecord ctx).nodes.map fun n => { n with itype := t }) })] }

/-- A start through a good graph, each failed check, an XF.LOAD and an earlier command that come first; the end, with the nodes' flags. -/
theorem test_meets_CopyEngine_graphs :
    let w := fun (n rows : Nat) => copyRecord 0x1000000200 n rows 0 + 6 * 2 ^ 384
    let head := fun (t : State) => (mget {} 1 t.myCore.chans).queue.headD (copyCmd 0 id)
    let bad := fun (s : State) => leaves s (.copyStart 0 1) fun t => (head t).faulted && !(head t).started &&
      (t.me.records.map fun r => (r.cause, r.engine, r.unit, r.elem.toNat)) == [(.illegal, 2, 1, 2 ^ 61)]
    let one := fun (t : ElemType) (n rows : Nat) => slotted t 1 [copyCmd (w n rows) id]
    let good := one .int8 64 1
    let loads := good.modTrack 3 2 fun t => { t with wait := some { kind := .xfload, seq := 5, obj := 2, instr := .xfLoad 2 6 } }
    let behind := good.modMyCore fun k => { k with chans := k.chans ++ [(3, { queue := [copyCmd (w 64 1) fun c => { c with id := 4 }] })] }
    let ended := slotted .int8 1 [copyCmd (w 64 1) fun c =>
      { c with started := true, graph := some (graphOf graphRecord 1), nodes := [{ ended := true }], taken := 64, done := 64, flags := { nx := true } }]
    let sent := fun (a : Option (List Byte)) =>
      let s := copying [copyCmd (copyRecord 0x2000000200 64 1 0) fun c => { c with started := true }]
      { s with requests := [(9, { core := 0, unit := writeUnit 5, node := 6, addr := 0x100200, kind := 3, answer := a })] }
    (leaves good (.copyStart 0 1) (fun t => (head t).started && (head t).graph.isSome && (head t).nodes == [{}]) &&
     bad (copying [copyCmd (w 64 1) id]) && bad (slotted .int8 2 [copyCmd (w 64 1) id]) && bad (one .fp32 63 1) && bad (one .int8 (2 ^ 31) 2) &&
     leaves (one .fp32 64 1) (.copyStart 0 1) (fun t => (head t).started) &&
     leaves loads (.copyStart 0 1) (fun t => t == loads) && leaves behind (.copyStart 0 1) (fun t => t == behind) &&
     (ended.outLen 0 (head ended) == 64 && leaves ended (.copyComplete 0 1) fun t => (mget {} 1 t.myCore.chans).queue.isEmpty && t.me.arith.toNat == ({ nx := true } : Flags).toArith.toNat) &&
     ((sent none).pieceSent 0 5).isSome && leaves (sent none) (.copyTransfer 0 1 8) (fun t => (head t).done == 0) &&
     leaves (sent (some [])) (.copyTransfer 0 1 8) (fun t => (head t).done == 8 && t.requests.isEmpty)) = true := by decide +kernel

/-- XF.LOAD while a command of a frozen core is active: not awaited, unless blocks that it has taken have still to land. -/
theorem test_meets_InterchangeGraphs_frozen :
    let i := Instr.xfLoad 2 6
    let run := copyCmd (copyRecord 0x1000000200 64 1 0 + 6 * 2 ^ 384) fun c => { c with started := true, nodes := [{}], graph := some (graphOf graphRecord 1) }
    let s := fun (l : List (Nat × Request)) => { (withRecord boot 576 graphRecord).modCore 3 fun k => { k with frozen := true, chans := [(1, { queue := [run] })] } with requests := l }
    let lands : List (Nat × Request) := [(9, { core := 3, unit := storeUnit, node := 6, addr := 0, kind := 3 })]
    ((after i (s []) fun t => ((t.cluster 0).slots.map (·.1), t.me.wait.isNone)) == some ([2], true) &&
     (after i (s lands) fun t => ((t.cluster 0).slots.isEmpty, t.me.wait.map (·.kind))) == some (true, some .xfload)) = true := by decide +kernel

/-- Blocks worked out by hand from R165 and R168 to R174; R173's CRC of 123456789 is the published check value of CRC-64/ECMA-182. -/
theorem test_meets_InterchangeGraphs_blocks :
    let node := fun (op : Nat) (t : ElemType) (p0 p1 : Nat) => (⟨op, 16, 31, t, t, .rne, false, 0, p0, p1, 0x1000000400⟩ : GNode)
    let gives := fun (g : GNode) (r : NodeRun) (n : Nat) (s : State) (p : BlockOut → State → Bool) =>
      let x : GCtx := ⟨0, copyCmd (copyRecord 0x1000000200 64 1 0) id, [(9, 9, 9)]⟩
      match x.block 0 g r n true s with
      | .ok o u => p o u
      | .wait _ => false
      | .fault _ _ _ => false
    let units := fun (g : GNode) (l : List Nat) (n : Nat) (want : List Nat) => gives g { in0 := l } n boot fun o _ => o.units == want && o.run.taken == n && o.run.in0.isEmpty
    let stops := fun (g : GNode) (l : List Nat) (n : Nat) => !gives g { in0 := l } n boot fun _ _ => true
    let f1 := [0, 0, 0x80, 0x3F]
    let f3 := [0, 0, 0x40, 0x40]
    (units (node 2 .fp32 0 0x40000000) f1 1 [0, 0, 0, 0x40] && gives (node 2 .fp32 1 0) { in0 := f1 } 1 (boot.setByte 0x1000000400 128) (fun o _ => o.units == [0, 0, 0, 0x40]) &&
     units { node 3 .fp32 0 0 with otype := .e4m3 } ((List.replicate 32 f1).flatten) 32 (List.replicate 32 0x78 ++ [119]) && stops (node 3 .fp32 0 0) f1 1 &&
     gives (node 4 .fp32 0 1) { in0 := f1 ++ f3 } 2 boot (fun o u => o.units == [1, 0, 0, 0] ++ f3 && u.bytes 0x1000000400 8 == 0x3F800000) &&
     gives (node 5 .fp32 2 0) { in0 := [1, 0, 0, 0] ++ f3 } 1 boot (fun o _ => o.adds.map (fun a => (a.va, a.pa)) == [(0x1000000404, 0x1000000404)]) &&
     stops (node 5 .fp32 2 0) ([2, 0, 0, 0] ++ f3) 1 && units (node 6 .int8 2 0) [0, 5, 0, 0, 0xF9, 1, 0, 0] 8 [5, 0xF9, 33] && stops (node 6 .int8 2 0) [1] 1 &&
     units (node 7 .int8 2 0) [1, 2, 3, 4] 4 [1, 3, 2, 4] &&
     gives (node 9 .int8 0 0) { in0 := [0x31, 0x32, 0x33, 0x34, 0x35, 0x36, 0x37, 0x38, 0x39] } 9 boot (fun o u => o.run.side == 1 && u.bytes 0x1000000400 8 == 0x6C40DF5F0B497347) &&
     gives { node 10 .int8 1 0 with in1 := 0 } { in0 := [1, 2], in1 := [1, 3] } 2 boot (fun o _ => o.units == [1, 0]) &&
     gives { node 11 .int8 0 0 with in1 := 0 } { in0 := [1, 2], in1 := [1, 3] } 2 boot (fun o _ => o.units == [2, 5] && o.run.in1.isEmpty) &&
     gives { node 11 .int8 0 0 with in1 := 17 } { in0 := [1, 2] } 2 (boot.setBytes 0x1000000400 2 0x0301) (fun o _ => o.units == [2, 5]) && units (node 12 .int8 0 0) [7] 1 [7]) = true := by
  decide +kernel

/-- JOIN takes of the input whose turn it is; an addition is rounded once; a block's bytes reach the destination. -/
theorem test_meets_InterchangeGraphs_pumps :
    let g : GNode := ⟨13, 16, 1, .int8, .int8, .rne, false, 0, 1, 0, 0⟩
    let gr : Graph := ⟨1, 0, [g]⟩
    let x : GCtx := ⟨0, copyCmd (copyRecord 0x1000000200 64 1 0) id, []⟩
    let r : NodeRun := { in0 := [5, 6], in1 := [7] }
    let out := fun (second : Bool) => match x.runNode gr 0 g r 1 second false { nodes := [r], s := boot } with
      | .ok p _ => (p.out, p.nodes.map fun n => (n.in0, n.in1, n.turn))
      | .wait _ => ([], [])
      | .fault _ _ _ => ([], [])
    out false = ([5], [([6], [7], true)]) ∧ out true = ([7], [([5, 6], [], false)]) ∧
    (scatterSum 0x3F800000 (FloatFmt.fp32.value 0x40400000)).1 = 0x40800000 ∧ largest 2 [.ofInt 0, .ofInt 5, .ofInt (-7), .ofInt 1] = [1, 2] ∧
    (x.writeOut 64 0 [0x1000000200] [9] boot).byte 0x1000000200 = 9 := by decide +kernel

/-- An OPA's inexact sum sets ARITH; drains of an element of four bytes, of half a byte and of a block's scale; a slot with a poisoned stripe. -/
theorem test_meets_GridTransfers_places :
    let one := fun (op : GridOp) => withCmds [{ entered (idle 5 op [0]) with vl := 4, mask := 15, rowbase := 0, rowCount := 64 }]
    let drain := fun (et : ElemType) (sc : Option Word) (done : Nat) =>
      let cv : VConv := ⟨et, false, .rne, false, 0⟩
      ((one (.drain (.row 0) 0x1000000400 0 sc none cv)).modMyCore fun k =>
        { ((k.setCell 0 1 0x3F80000000).setCell 0 3 0x3F80000000) with gq := k.gq.map fun g => { g with done := done } })
    let moved := fun (s : State) (p : State → Bool) => leaves s (.gridEngineTransfer 0 5) p
    (moved (drain .fp32 none 1) (fun t => t.bytes 0x1000000404 4 == 0x3F800000) &&
     moved (drain .e2m1 (some 0x1000000600) 1) (fun t => t.byte 0x1000000400 == 0x60 && t.byte 0x1000000600 == 0) &&
     moved (drain .e2m1 (some 0x1000000600) 3) (fun t => t.byte 0x1000000401 == 0x60 && t.byte 0x1000000600 == 125) &&
     moved ((withCmds [entered (idle 5 (.unpark 0) [32])]).setPoison (scratchPa 0 (5 * 0x10000) + 64) true) (fun t =>
       t.me.records.map (fun r => (r.cause, r.elem)) == [(.poison, 64)])) = true := by decide +kernel

/-! Clauses of the meetings, the launches, the trips and the step. -/

/-- The sum, the mean and the maximum of 1 and 3 with weight 1/2, in FP32; a value of each type (R226). -/
theorem test_meets_MeetingRounds_values :
    let o := fun (op : Nat) => ({ record := descriptor + op * 2 ^ 56 - 2 ^ 56 } : MeetObj)
    let v := fun (n : Int) => Machine.Num.ofInt n
    let l := [(v 1, v 1), (v 3, Machine.Num.fin ⟨false, 1, -1⟩)]
    let typed := fun (t : Nat) => ({ record := descriptor + t * 2 ^ 64 - 8 * 2 ^ 64 } : MeetObj)
    (o 0).field 7 1 = 0 ∧ (o 1).field 7 1 = 1 ∧ (o 2).field 7 1 = 2 ∧ ((o 0).combine l).1 = 0x40200000 ∧ ((o 1).combine l).1 = 0x3FD55555 ∧
    ((o 1).combine l).2.nx = true ∧ ((o 2).combine l).1 = 0x40400000 ∧ ((typed 8).field 8 1, (typed 6).field 8 1, (typed 7).field 8 1) = (8, 6, 7) ∧
    (roundFloat .rne .fp32 false ((typed 6).value 0x42003C00 1)).1 = 0x40400000 ∧ (roundFloat .rne .fp32 false ((typed 7).value 0x40400000 1)).1 = 0x40400000 := by
  decide +kernel

/-- R25: a record for each code from the good one, and the good one. -/
theorem test_meets_LaunchesAreTaken_codes :
    let w := recWord 0 4
    let codes := fun (w : Nat) => (launchRec w).fails
    codes w = [] ∧ codes (w + 1) = [1] ∧ codes (w + 64 * 2 ^ 16) = [2] ∧ 3 ∈ codes (w + 5 * 2 ^ (8 * 0x4D)) ∧ codes (w + 2 ^ 608 + (1 + 5 * 8 + 256) * 2 ^ (8 * 0x80)) = [4] ∧
    codes (recWord 0 4 + 2 ^ 608 + (4 + 256) * 2 ^ (8 * 0x80)) = [5] ∧ codes (recWord 0 0) = [6] ∧ codes (w + 2 ^ 192 * 10) = [7] ∧ codes (w + 2 * 2 ^ 64) = [10] := by decide +kernel

/-- The end of a trip with a barrier and a continuation, and its kill, which breaks the barrier and counts in the launch. -/
theorem test_meets_TripInstructions_ends :
    let t : Trip := { bootTrip with serial := 3, level := 0, parent := .cont 8 }
    let s := ((withLaunch boot (launchOf [coreLevel 2] .started)).modMe fun x => { x with trip := some t, band := 4, bands := 1, fq := [7], level := 1 })
    let s := { s with conts := [(8, { join := 2, trip := t })] }
    let idle := fun (v : State) => v.me.trip.isNone && v.me.band == 0 && v.me.fq.isEmpty && v.me.level == 0 && v.conts.all fun k => k.2.join == 1
    (idle (s.endTrip 0 0 false) && idle (s.killTrip 0 0) && ((s.killTrip 0 0).launch? 3).all (fun l => l.killed == 1) &&
     ((s.endTrip 0 0 false).launch? 3).all fun l => l.killed == 0) = true := by decide +kernel

/-- A fetch behind a link under test; a VWAIT whose freeze has ended. -/
theorem test_meets_Steps_links :
    let s := State.reset.placeWord 0x04A63800
    let far := { (s.modCore 0 fun k => { k with tlb := [⟨1, 0x1000000000, 4, 0x34000000DF, false⟩] }).modTrack 0 0 (fun t => { t with pc := 0x1000000000 }) with
      testing := (List.range 8).map .causeway, schedule := [.issue 0 0] }
    let again := { (vecParked false 0).modMe (fun t => { t with wait := t.wait.map fun w => { w with again := true } }) with schedule := [.issue 0 0] }
    (match step far with
      | .next t => (t.track 0 0).pc == 0x1000000000 && (t.track 0 0).trip.isSome && (t.track 0 0).level == 0
      | .fault _ => false
      | .refused _ => false) = true ∧
    (match step again with
      | .next t => (t.track 0 0).wait.isNone
      | .fault _ => false
      | .refused _ => false) = true := by decide +kernel

/-- Nothing before host core 0 is started; a removed core that holds nothing, and one that an image of its last context is owed. -/
theorem test_meets_before_the_boot :
    let s := State.reset
    let w : DevWrite := ⟨0xFFF100000, .b8, 7⟩
    let gone := fun (c : Option Nat) => (boot.setStew 0 0 1).modCore 5 fun k => { k with removed := true, lastCtx := c }
    (leaves s (.deviceRegisterWrite w) (fun t => t == s) && leaves s (.lqtailWrite 0 ⟨0xFFFF00018, .b8, 1⟩) (fun t => t == s) && leaves s (.sctlRunSet 0) (fun t => t == s) &&
     leaves s (.hostMemoryAccess ⟨2, 0x1000000100, .b8, .store 5⟩) (fun t => t == s) && leaves s (.hostMemoryAccess ⟨2, 0, .b8, .fence⟩) (fun t => t == s) &&
     leaves (gone none) (.coreRemoval 5) (fun t => mget 5 5 t.hostMap == 0 && !(t.core 0).frozen) &&
     leaves (gone (some 1)) (.coreRemoval 5) (fun t => mget 5 5 t.hostMap == 5)) = true := by decide +kernel

/-- An address whose cached leaf leads behind a port, to a place that the device there declares, is found. -/
theorem find_behind_a_port {s : State} {w : Who} {va pa o : Nat} {k : AccKind} {e : TlbEntry} (hc : canonical va = true) (hw : windowOf va = none)
    (he : (s.missed w va k.writes).cached w va k.writes = some e) (hl : placeLeaf w k va (e.leafAt va) e.level (s.missed w va k.writes) = .inr pa)
    (ha : area pa = .cxl 0 o) (hb : o < Config.cxlBytes 0) : s.find w va k = .ok pa (s.missed w va k.writes) := by
  simp [State.find, State.translate, hc, hw, he, hl, useLeaf, State.backed, ha, hb]

/-- The leaf of a page behind port 0. -/
def portLeaf : TlbEntry := ⟨1, 0x3000000000, 4, 0x10000000000DF, false⟩

/-- A copy whose target lies behind a port, at a place that the device there declares, where the device is an offload target (log entry 46). -/
theorem test_meets_CopyEngine_targetFull (hb : 0x200 < Config.cxlBytes 0) (ho : Config.cxlOffload 0 = true) :
    let g := copyCmd (copyRecord 0x3000000200 256 1 0) fun c => { c with started := true }
    let s := (copying [g]).modCore 0 fun k => { k with tlb := [portLeaf] }
    (mget ({} : Chan) 1 (s.core 0).chans).queue = [g] ∧ (s.core 0).frozen = false ∧ g.faulted = false ∧ g.done < s.outLen 0 g ∧ s.onOffload 0 g = true := by
  intro g s
  have hf : s.find (g.who (s.core 0) 0) (g.dstAddr g.done) .write = .ok 0x1000000000200 _ :=
    find_behind_a_port (e := portLeaf) (o := 0x200) (by decide +kernel) (by decide +kernel) (by decide +kernel) (by decide +kernel) (by decide +kernel) hb
  have ha : area 0x1000000000200 = .cxl 0 0x200 := by decide +kernel
  exact ⟨by decide +kernel, by decide +kernel, by decide +kernel, by decide +kernel, by simp [State.onOffload, State.peek, hf, ha, ho]⟩

/-- A CFLUSH of a line that the device behind a port declares (log entry 46). -/
theorem test_meets_CachesAndMarks_flush (hb : 0x200 < Config.cxlBytes 0) :
    let s := withX (boot.modCore 0 fun k => { k with tlb := k.tlb ++ [portLeaf] }) [(6, 0x3000000200)]
    ∃ s1 u, s.entered (.cflush 6) = some s1 ∧ s1.find s1.who (s1.x 6).toNat .read = .ok 0x1000000000200 u ∧ u.linkDown 0x1000000000200 = false := by
  intro s
  refine ⟨_, _, rfl, find_behind_a_port (e := portLeaf) (o := 0x200) ?_ ?_ ?_ ?_ ?_ hb, ?_⟩ <;> decide +kernel

end Sys2Proof.Tests
end

section
/-! What a module reset leaves (O58). -/
namespace Sys2Proof.Machine
-- one proof after another: in the package as one text every proof under way holds a thread of its own
set_option Elab.async false

/-- After reset every core is the vacant one. -/
theorem State.core_reset (c : Nat) : State.reset.core c = {} := rfl

/-- After reset every byte is 0: none is listed (R180). -/
theorem State.byte_reset (pa : Nat) : State.reset.byte pa = 0 := rfl

/-- After reset a host queue's register is what its table gives (R29). -/
theorem State.lqReg_reset (q off : Nat) : State.reset.lqReg q off = if off = 8 then 4#64 else 0#64 := rfl

/-- After reset a steward register is what its table gives (R271). -/
theorem State.stew_reset (d off : Nat) : State.reset.stew d off = stewReset off := rfl

/-- Every core's SLCAP lies in the block of registers that reset to 1. -/
theorem stewReset_slcap (c : Nat) : stewReset (0x100 + 8 * (c % 128)) = 1 := by
  unfold stewReset
  rw [if_neg (by omega), if_pos (by omega)]
  rfl

/-- Settles O58: after reset nothing is listed, so a core reads as the vacant one and a register as its table's reset value. -/
theorem resetLeaves : Obligations.ResetLeaves := by
  refine ⟨fun c => ?_, fun c o _ _ => State.byte_reset _, fun q => ?_, fun d => ?_, fun c => ?_,
    rfl, rfl, rfl, rfl, rfl, rfl, rfl, rfl, rfl⟩
  · simp [State.track, State.core_reset, Core.track, Core.cell, Core.row, Core.copies]
  · simp only [State.lqReg_reset]; decide
  · simp only [State.stew_reset]; exact ⟨rfl, rfl, rfl, rfl, rfl, rfl, rfl, rfl⟩
  · rw [State.stew_reset]; exact stewReset_slcap c

end Sys2Proof.Machine
end

section
/-! What an operation leaves standing (O51): the time, the steward's images, which cores run and are in service, and the dies' registers. -/
namespace Sys2Proof.Machine
-- one proof after another: in the package as one text every proof under way holds a thread of its own
set_option Elab.async false

/-- What of a core only the clock, a freeze, a thaw and the removal of a core change. -/
structure CoreStanding where
  frozen : Bool
  stopped : Nat
  removed : Bool

def Core.standing : Core → CoreStanding
  | { frozen, stopped, removed, .. } => ⟨frozen, stopped, removed⟩

/-- What of a die only the clock and accesses to its registers change. -/
structure DieStanding where
  watchdog : Nat
  stew : List (Nat × Word)

def Die.standing : Die → DieStanding
  | { watchdog, stew, .. } => ⟨watchdog, stew⟩

/-- What stands of the cores and of the dies that a table lists; an unlisted one has the reset value. -/
def coresStanding (l : List (Nat × Core)) (c : Nat) : CoreStanding := (mget {} c l).standing
def diesStanding (l : List (Nat × Die)) (d : Nat) : DieStanding := (mget {} d l).standing

/-- What of the package only a few events change: the clock, the steward's images, freezes and accesses to a die's registers. -/
structure Standing where
  time : Nat
  images : List (Nat × Image)
  imageSeq : Nat
  displaced : List Nat
  core : Nat → CoreStanding
  die : Nat → DieStanding

def State.standing : State → Standing
  | { time, images, imageSeq, displaced, cores, dies, .. } => ⟨time, images, imageSeq, displaced, coresStanding cores, diesStanding dies⟩

-- The views as `simp` computes them of a value written out: so an update of another field leaves what stands as it was.
@[simp] theorem Core.standing_mk : type_of% @Core.standing.eq_1 := @Core.standing.eq_1
@[simp] theorem Die.standing_mk : type_of% @Die.standing.eq_1 := @Die.standing.eq_1
@[simp] theorem State.standing_mk : type_of% @State.standing.eq_1 := @State.standing.eq_1
@[simp] theorem Core.standing_eta (k : Core) : CoreStanding.mk k.frozen k.stopped k.removed = k.standing := rfl
@[simp] theorem Die.standing_eta (d : Die) : DieStanding.mk d.watchdog d.stew = d.standing := rfl
@[simp] theorem State.standing_eta (s : State) :
    Standing.mk s.time s.images s.imageSeq s.displaced (coresStanding s.cores) (diesStanding s.dies) = s.standing := rfl

/-! Operations on the parts. -/

@[simp] theorem State.standing_ite (p : Prop) [Decidable p] (s t : State) :
    (if p then s else t).standing = if p then s.standing else t.standing := by split <;> rfl

@[simp] theorem Core.standing_ite (p : Prop) [Decidable p] (k l : Core) :
    (if p then k else l).standing = if p then k.standing else l.standing := by split <;> rfl

theorem coresStanding_mput (c : Nat) (k : Core) (l : List (Nat × Core)) (h : k.standing = coresStanding l c) :
    coresStanding (mput c k l) = coresStanding l := by
  funext i
  unfold coresStanding at h ⊢
  rw [mget_mput]
  split
  · subst_vars; exact h
  · rfl

theorem diesStanding_mput (d : Nat) (k : Die) (l : List (Nat × Die)) (h : k.standing = diesStanding l d) :
    diesStanding (mput d k l) = diesStanding l := by
  funext i
  unfold diesStanding at h ⊢
  rw [mget_mput]
  split
  · subst_vars; exact h
  · rfl

/-- What is read of a value, in a table whose values have changed in a way that changes it by `g`. -/
theorem mget_map {α β : Type} (v : α → β) (g : β → β) (d : α) (F : Nat × α → Nat × α) (hk : ∀ e, (F e).1 = e.1) (hv : ∀ e, v (F e).2 = g (v e.2))
    (hd : v d = g (v d)) (k : Nat) (l : List (Nat × α)) : v (mget d k (l.map F)) = g (v (mget d k l)) := by
  induction l with
  | nil => exact hd
  | cons e t ih =>
    simp only [List.map_cons, mget, hk]
    split
    · exact hv e
    · split
      · exact hd
      · exact ih

theorem coresStanding_map (l : List (Nat × Core)) (F : Nat × Core → Nat × Core) (hk : ∀ e, (F e).1 = e.1)
    (hv : ∀ e, (F e).2.standing = e.2.standing) : coresStanding (l.map F) = coresStanding l :=
  funext fun c => mget_map Core.standing id {} F hk hv rfl c l

theorem State.mapCores_standing (s : State) (F : Nat × Core → Nat × Core) (hk : ∀ e, (F e).1 = e.1)
    (hv : ∀ e, (F e).2.standing = e.2.standing) : ({ s with cores := s.cores.map F } : State).standing = s.standing := by
  simp [coresStanding_map _ _ hk hv]

@[simp] theorem coresStanding_modCore (s : State) (c : Nat) (f : Core → Core) (h : ∀ k, (f k).standing = k.standing) :
    coresStanding (s.modCore c f).cores = coresStanding s.cores :=
  coresStanding_mput _ _ _ (h _)

@[simp] theorem State.modCore_standing (s : State) (c : Nat) (f : Core → Core) (h : ∀ k, (f k).standing = k.standing) :
    (s.modCore c f).standing = s.standing := by
  have hc := coresStanding_mput c (f (s.core c)) s.cores (h _)
  simp [State.modCore, State.setCore, hc]

@[simp] theorem State.modDie_standing (s : State) (d : Nat) (f : Die → Die) (h : ∀ k, (f k).standing = k.standing) :
    (s.modDie d f).standing = s.standing := by
  have hd := diesStanding_mput d (f (s.die d)) s.dies (h _)
  simp [State.modDie, hd]

@[simp] theorem State.modTrack_standing (s : State) (c n : Nat) (f : Track → Track) : (s.modTrack c n f).standing = s.standing := by
  simp [State.modTrack, State.setTrack, Core.setTrack]

@[simp] theorem State.modCluster_standing (s : State) (n : Nat) (f : Cluster → Cluster) : (s.modCluster n f).standing = s.standing := by
  simp [State.modCluster]

@[simp] theorem Core.count_standing (k : Core) (code n : Nat) : (k.count code n).standing = k.standing := by simp [Core.count]

@[simp] theorem State.foldl_standing {α : Type} (f : State → α → State) (h : ∀ s a, (f s a).standing = s.standing) (l : List α) (s : State) :
    (l.foldl f s).standing = s.standing := by
  induction l generalizing s with
  | nil => rfl
  | cons a l ih => rw [List.foldl_cons, ih, h]

/-! Memory. -/

@[simp] theorem State.setByte_standing (s : State) (pa : Nat) (b : Byte) : (s.setByte pa b).standing = s.standing := by
  simp only [State.setByte]; split <;> simp

@[simp] theorem State.setBytes_standing (s : State) (pa n v : Nat) : (s.setBytes pa n v).standing = s.standing := by
  induction n generalizing s pa v with
  | zero => rfl
  | succ n ih => simp [State.setBytes, ih]

@[simp] theorem State.setMasked_standing (s : State) (pa n v m : Nat) : (s.setMasked pa n v m).standing = s.standing := by
  induction n generalizing s pa v m with
  | zero => rfl
  | succ n ih => simp [State.setMasked, ih]

@[simp] theorem State.setList_standing (s : State) (pa : Nat) (l : List Byte) : (s.setList pa l).standing = s.standing := by
  induction l generalizing s pa with
  | nil => rfl
  | cons b l ih => simp [State.setList, ih]

@[simp] theorem State.setPoison_standing (s : State) (pa : Nat) (b : Bool) : (s.setPoison pa b).standing = s.standing := by
  simp [State.setPoison]

@[simp] theorem State.endRels_standing (s : State) (pa n : Nat) : (s.endRels pa n).standing = s.standing := by
  induction n generalizing s pa with
  | zero => rfl
  | succ n ih => simp [State.endRels, ih]

@[simp] theorem State.reportError_standing (s : State) (u : UnitName) (b : Bool) : (s.reportError u b).standing = s.standing := by
  simp [State.reportError]

@[simp] theorem State.settleByte_standing (s : State) (core off : Nat) : (s.settleByte core off).standing = s.standing := by
  simp only [State.settleByte]
  split
  · rfl
  · split <;> simp

@[simp] theorem State.settle_standing (s : State) (pa size : Nat) : (s.settle pa size).standing = s.standing := by
  simp only [State.settle]; split <;> simp

@[simp] theorem State.settleAll_standing (s : State) (core : Nat) : (s.settleAll core).standing = s.standing := by simp [State.settleAll]

/-! Race directories. -/

@[simp] theorem State.setDir_standing (s : State) (h : Home) (l : List DirEntry) : (s.setDir h l).standing = s.standing := by
  cases h <;> simp [State.setDir]

@[simp] theorem State.informs_standing (s : State) (w : Who) (c : Clock) : (s.informs w c).standing = s.standing := by
  simp only [State.informs]
  split
  · rfl
  · split <;> simp

@[simp] theorem State.evict_standing (s : State) (h : Home) : (s.evict h).standing = s.standing := by
  simp only [State.evict]
  split
  · simp
  · split
    · simp
    · simp [coresStanding_map]

@[simp] theorem State.enter_standing (s : State) (w : Who) (pa size : Nat) (r wr sy : Bool) : (s.enter w pa size r wr sy).standing = s.standing := by
  simp [State.enter]

@[simp] theorem State.region_standing (s : State) (w : Who) (pa size : Nat) (write : Bool) : (s.region w pa size write).1.standing = s.standing := by
  simp only [State.region]
  split
  · rfl
  · split <;> simp

/-! Packets and the trace port. -/

@[simp] theorem State.send_standing (s : State) (node kind tag addr : Nat) (l : List Byte) : (s.send node kind tag addr l).standing = s.standing := by
  simp [State.send]

@[simp] theorem State.request_standing (s : State) (core unit node addr kind : Nat) (l : List Byte) (pa : Nat) (e : Option (Nat × RemoteEntry)) :
    (s.request core unit node addr kind l pa e).standing = s.standing := by simp [State.request, State.fresh]

@[simp] theorem State.ask_standing (s : State) (core unit pa kind : Nat) (l : List Byte) (map : Option (List (Nat × RemoteEntry))) :
    (s.ask core unit pa kind l map).2.standing = s.standing := by
  simp only [State.ask]
  split
  · rfl
  · split
    · rfl
    · simp

@[simp] theorem State.asked_standing (s : State) (core unit : Nat) : (s.asked core unit).standing = s.standing := by simp [State.asked]

@[simp] theorem State.remoteRun_standing (s : State) (core : Nat) (map : Option (List (Nat × RemoteEntry))) (run : List Byte) (pa : Nat) :
    (s.remoteRun core map run pa).standing = s.standing := by
  simp only [State.remoteRun]
  split
  · rfl
  · split <;> simp

@[simp] theorem State.remoteRuns_standing (s : State) (core : Nat) (map : Option (List (Nat × RemoteEntry))) (run : List Byte) (pa n v m : Nat) :
    (s.remoteRuns core map run pa n v m).standing = s.standing := by
  induction n generalizing s run pa v m with
  | zero => simp [State.remoteRuns]
  | succ n ih =>
    simp only [State.remoteRuns]
    split
    · exact ih _ _ _ _ _
    · rw [ih]
      split
      · simp
      · split <;> simp

@[simp] theorem State.remoteMasked_standing (s : State) (core pa n v m : Nat) (map : Option (List (Nat × RemoteEntry))) :
    (s.remoteMasked core pa n v m map).standing = s.standing := by simp [State.remoteMasked]

@[simp] theorem State.emit_standing (s : State) (die kind detail source ctx : Nat) (p : Word) : (s.emit die kind detail source ctx p).standing = s.standing := by
  simp only [State.emit]
  split
  · refine State.modDie_standing _ _ _ fun d => ?_
    split <;> rfl
  · rfl

@[simp] theorem State.emitCore_standing (s : State) (core kind detail ctx : Nat) (p : Word) : (s.emitCore core kind detail ctx p).standing = s.standing := by
  simp [State.emitCore]

@[simp] theorem State.emitAt_standing (s : State) (l : Loc) (kind detail ctx : Nat) (p : Word) : (s.emitAt l kind detail ctx p).standing = s.standing := by
  cases l <;> simp [State.emitAt]

@[simp] theorem State.emitImage_standing (s : State) (core kind : Nat) : (s.emitImage core kind).standing = s.standing := by simp [State.emitImage]

/-! Translation. -/

/-- The state that an access's translation leaves. -/
def Found.after : Found → State
  | .ok _ s => s
  | .fault _ s => s

@[simp] theorem Found.after_ok (pa : Nat) (s : State) : (Found.ok pa s).after = s := rfl
@[simp] theorem Found.after_fault (c : Cause) (s : State) : (Found.fault c s).after = s := rfl
@[simp] theorem Found.after_ite (p : Prop) [Decidable p] (a b : Found) : (if p then a else b).after = if p then a.after else b.after := by
  split <;> rfl

@[simp] theorem State.missed_standing (s : State) (w : Who) (va : Nat) (b : Bool) : (s.missed w va b).standing = s.standing := by
  simp only [State.missed]
  split
  · rfl
  · exact State.modCore_standing _ _ _ (by simp)

@[simp] theorem State.cacheLeaf_standing (s : State) (w : Who) (va : Nat) (e : Word) (level at_ : Nat) (seen : List TlbEntry) :
    (s.cacheLeaf w va e level at_ seen).standing = s.standing := by simp [State.cacheLeaf]

theorem State.walk_standing (s : State) (w : Who) (va : Nat) (k : AccKind) : (s.walk w va k).after.standing = s.standing := by
  simp only [State.walk]
  split
  · simp
  · split
    · simp
    · simp

theorem State.translate_standing (s : State) (w : Who) (va : Nat) (k : AccKind) : (s.translate w va k).after.standing = s.standing := by
  simp only [State.translate]
  split
  · rfl
  · split
    · split <;> simp
    · rw [State.walk_standing, State.missed_standing]

theorem State.find_standing (s : State) (w : Who) (va : Nat) (k : AccKind) : (s.find w va k).after.standing = s.standing := by
  simp only [State.find]
  split
  · rfl
  · split
    · exact State.translate_standing _ _ _ _
    · split
      · rfl
      · split <;> rfl

theorem State.find_ok_standing {s u : State} {w : Who} {va pa : Nat} {k : AccKind} (h : s.find w va k = .ok pa u) : u.standing = s.standing := by
  rw [← State.find_standing s w va k, h]; rfl

theorem State.find_fault_standing {s u : State} {w : Who} {va : Nat} {k : AccKind} {c : Cause} (h : s.find w va k = .fault c u) :
    u.standing = s.standing := by
  rw [← State.find_standing s w va k, h]; rfl

/-! Accesses of engines. -/

/-- The state that an engine's check leaves. -/
def EAcc.after : EAcc → State
  | .ok _ s => s
  | .fault _ s => s
  | .wait s => s

@[simp] theorem EAcc.after_ok (pa : Nat) (s : State) : (EAcc.ok pa s).after = s := rfl
@[simp] theorem EAcc.after_fault (c : Cause) (s : State) : (EAcc.fault c s).after = s := rfl
@[simp] theorem EAcc.after_wait (s : State) : (EAcc.wait s).after = s := rfl
@[simp] theorem EAcc.after_ite (p : Prop) [Decidable p] (a b : EAcc) : (if p then a else b).after = if p then a.after else b.after := by
  split <;> rfl

/-- The state that an engine's operation leaves. -/
def ETry.after {α : Type} : ETry α → State
  | .ok _ s => s
  | .fault _ _ s => s
  | .wait s => s

@[simp] theorem ETry.after_fault {α : Type} (c : Cause) (va : Nat) (s : State) : (ETry.fault (α := α) c va s).after = s := rfl
@[simp] theorem ETry.after_wait {α : Type} (s : State) : (ETry.wait (α := α) s).after = s := rfl
@[simp] theorem ETry.after_ite {α : Type} (p : Prop) [Decidable p] (a b : ETry α) : (if p then a else b).after = if p then a.after else b.after := by
  split <;> rfl

theorem ETry.bind_standing {α β : Type} {s : State} {t : ETry α} {f : α → State → ETry β} (ht : t.after.standing = s.standing)
    (hf : ∀ a u, (f a u).after.standing = u.standing) : (t.bind f).after.standing = s.standing := by
  cases t with
  | ok a u => exact (hf a u).trans ht
  | fault c a u => exact ht
  | wait u => exact ht

theorem State.engineCheck_standing (s : State) (w : Who) (va size : Nat) (write whole : Bool) :
    (s.engineCheck w va size write whole).after.standing = s.standing := by
  simp only [State.engineCheck]
  generalize (if write = true then AccKind.write else AccKind.read) = k
  by_cases hh : s.walkHeld w va k = true
  · rw [if_pos hh]; rfl
  · rw [if_neg hh]
    cases hf : s.find w va k with
    | fault c u => exact State.find_fault_standing hf
    | ok pa u =>
      have hu := State.find_ok_standing hf
      simp [hu]

theorem State.engineCheck_leaves {s : State} {w : Who} {va size : Nat} {write whole : Bool} {r : EAcc}
    (h : s.engineCheck w va size write whole = r) : r.after.standing = s.standing := h ▸ State.engineCheck_standing s w va size write whole

theorem State.engineByte_standing (s : State) (w : Who) (unit va : Nat) : (s.engineByte w unit va).after.standing = s.standing := by
  simp only [State.engineByte]
  split
  · rename_i h; exact State.engineCheck_leaves h
  · rename_i h; exact State.engineCheck_leaves h
  · rename_i pa u h
    have hu := State.engineCheck_leaves h
    split
    · have ha := State.ask_standing u w.asker unit pa 1 (toBytes 2 1) w.map
      split <;> rename_i he <;> rw [he] at ha <;> exact ha.trans hu
    · exact hu

theorem State.engineUnit_standing (s : State) (w : Who) (unit va n : Nat) : (s.engineUnit w unit va n).after.standing = s.standing := by
  simp only [State.engineUnit]
  split
  · rename_i h; exact State.engineCheck_leaves h
  · rename_i h; exact State.engineCheck_leaves h
  · rename_i pa u h
    have hu := State.engineCheck_leaves h
    split
    · have ha := State.ask_standing u w.asker unit pa 1 (toBytes 2 n) w.map
      split <;> rename_i he <;> rw [he] at ha <;> exact ha.trans hu
    · exact hu

theorem State.engineBytes_standing (s : State) (w : Who) (unit va n : Nat) : (s.engineBytes w unit va n).after.standing = s.standing := by
  induction n generalizing s va with
  | zero => rfl
  | succ n ih =>
    exact ETry.bind_standing (State.engineByte_standing s w unit va) fun b u =>
      ETry.bind_standing (ih u (wrap (va + 1))) fun _ _ => rfl

theorem State.engineRead_standing (s : State) (w : Who) (unit va n : Nat) : (s.engineRead w unit va n).after.standing = s.standing := by
  refine ETry.bind_standing ?_ fun v u => State.asked_standing _ _ _
  split
  · exact State.engineUnit_standing _ _ _ _ _
  · exact State.engineBytes_standing _ _ _ _ _

theorem State.engineChecks_standing (s : State) (w : Who) (whole : Nat → Bool) (va n : Nat) :
    (s.engineChecks w whole va n).after.standing = s.standing := by
  induction n generalizing s va with
  | zero => rfl
  | succ n ih =>
    simp only [State.engineChecks]
    split
    · rename_i h; exact State.engineCheck_leaves h
    · rename_i h; exact State.engineCheck_leaves h
    · rename_i pa u h
      exact ETry.bind_standing ((ih u _).trans (State.engineCheck_leaves h)) fun _ _ => rfl

@[simp] theorem State.engineWrite_standing (s : State) (w : Who) (pa v m : Nat) (last : Bool) : (s.engineWrite w pa v m last).standing = s.standing := by
  simp only [State.engineWrite]
  split <;> simp

@[simp] theorem State.engineEach_standing (s : State) (w : Who) (last : Bool) (l : List Nat) (v : Nat) :
    (s.engineEach w last l v).standing = s.standing := by
  induction l generalizing s v with
  | nil => rfl
  | cons pa l ih => simp [State.engineEach, ih]

@[simp] theorem State.engineWrites_standing (s : State) (w : Who) (last : Bool) (l : List Nat) (v : Nat) :
    (s.engineWrites w last l v).standing = s.standing := by
  simp only [State.engineWrites]
  split <;> simp

/-! Copies and streams of a trip that ends. -/

@[simp] theorem State.modHead_standing (s : State) (core c : Nat) (f : CopyCmd → CopyCmd) : (s.modHead core c f).standing = s.standing := by
  simp [State.modHead]

@[simp] theorem State.deliverFlags_standing (s : State) (core n : Nat) (f : Flags) : (s.deliverFlags core n f).standing = s.standing := by
  simp [State.deliverFlags]

@[simp] theorem State.tellTrack_standing (s : State) (core n : Nat) (r : EngRec) : (s.tellTrack core n r).standing = s.standing := by
  simp [State.tellTrack]

@[simp] theorem State.suspendCopy_standing (s : State) (core c : Nat) (g : CopyCmd) (x : Cause) (addr off : Nat) (ends : Bool) :
    (s.suspendCopy core c g x addr off ends).standing = s.standing := by simp [State.suspendCopy]

@[simp] theorem State.dstFault_standing (s : State) (core c : Nat) (g : CopyCmd) (x : Cause) (va off : Nat) :
    (s.dstFault core c g x va off).standing = s.standing := by
  simp only [State.dstFault]
  split
  · rw [State.suspendCopy_standing]
    refine State.foldl_standing _ (fun u i => ?_) _ _
    split <;> simp
  · simp

@[simp] theorem State.srcFault_standing (s : State) (core c : Nat) (g : CopyCmd) (x : Cause) (va off : Nat) :
    (s.srcFault core c g x va off).standing = s.standing := by simp [State.srcFault]

theorem State.copyPiece_standing (s : State) (core c : Nat) (g : CopyCmd) : (s.copyPiece core c g).1.standing = s.standing := by
  simp only [State.copyPiece]
  split
  · split <;> simp
  have hr := State.engineRead_standing s (g.who (s.core core) core) g.id (g.srcAddr g.done) g.piece
  split <;> rename_i he <;> rw [he] at hr
  · exact hr
  · exact (State.srcFault_standing _ _ _ _ _ _ _).trans hr
  · rename_i v u
    have hc := State.engineChecks_standing u (g.who (s.core core) core) g.covers (g.dstAddr g.done) g.piece
    split <;> rename_i hd <;> rw [hd] at hc
    · exact hc.trans hr
    · exact (State.dstFault_standing _ _ _ _ _ _ _).trans (hc.trans hr)
    · have hu := hc.trans hr
      split
      · exact (State.ask_standing _ _ _ _ _ _ _).trans hu
      · rw [State.engineWrites_standing, State.modHead_standing]; exact hu

@[simp] theorem State.landPiece_standing (s : State) (core n c : Nat) : (s.landPiece core n c).standing = s.standing := by
  simp only [State.landPiece]
  split
  · rfl
  · simp [State.copyPiece_standing]

@[simp] theorem State.abortRest_standing (s : State) (core : Nat) (g : CopyCmd) : (s.abortRest core g).standing = s.standing := by
  simp only [State.abortRest]
  split
  · rfl
  · refine State.foldl_standing _ (fun u j => ?_) _ _
    repeat' split
    all_goals simp

@[simp] theorem State.abortCopies_standing (s : State) (core n c : Nat) : (s.abortCopies core n c).standing = s.standing := by
  simp [State.abortCopies]

@[simp] theorem State.endCommands_standing (s : State) (core n : Nat) : (s.endCommands core n).standing = s.standing := by
  simp [State.endCommands, coresStanding_map]

@[simp] theorem Core.modStream_standing (k : Core) (q : Nat) (f : Stream → Stream) : (k.modStream q f).standing = k.standing := by
  simp only [Core.modStream]; split <;> simp

@[simp] theorem Core.leaveSides_standing (k : Core) (st : Stream) : (k.leaveSides st).standing = k.standing := by simp [Core.leaveSides]

@[simp] theorem State.cutPartner_standing (s : State) (st : Stream) : (s.cutPartner st).standing = s.standing := by
  simp only [State.cutPartner]
  split
  · rfl
  · split
    · rfl
    · refine State.modCore_standing _ _ _ fun k => ?_
      split <;> simp

@[simp] theorem State.stopStream_standing (s : State) (core q : Nat) : (s.stopStream core q).standing = s.standing := by
  simp only [State.stopStream]
  split <;> simp [State.commandEnded]

@[simp] theorem State.stopOwned_standing (s : State) (core n : Nat) : (s.stopOwned core n).standing = s.standing := by simp [State.stopOwned]

/-! Barriers. -/

@[simp] theorem State.mapWaits_standing (s : State) (f : Track → Wait → Wait) : (s.mapWaits f).standing = s.standing := by
  exact State.mapCores_standing _ _ (fun _ => rfl) fun e => by simp

@[simp] theorem State.barComplete_standing (s : State) (ctx pa : Nat) : (s.barComplete ctx pa).standing = s.standing := by simp [State.barComplete, -State.setBytes_dies]

@[simp] theorem State.barWithdraw_standing (s : State) (ctx pa : Nat) (rels : List Rel) : (s.barWithdraw ctx pa rels).standing = s.standing := by
  simp [State.barWithdraw, -State.setBytes_dies]

@[simp] theorem State.breakBarrier_standing (s : State) (ctx pa : Nat) : (s.breakBarrier ctx pa).standing = s.standing := by
  simp [State.breakBarrier, State.setBroken]

@[simp] theorem State.withdraw_standing (s : State) (core n : Nat) (killed : Bool) : (s.withdraw core n killed).standing = s.standing := by
  simp [State.withdraw]

/-! Launches and ready trips. -/

@[simp] theorem State.modLaunch_standing (s : State) (serial : Nat) (f : Launch → Launch) : (s.modLaunch serial f).standing = s.standing := by
  simp only [State.modLaunch]; split <;> simp

theorem State.deviceFind_standing (s : State) (w : Who) (va n : Nat) : (s.deviceFind w va n).after.standing = s.standing := by
  induction n generalizing s va with
  | zero => rfl
  | succ n ih =>
    simp only [State.deviceFind]
    split
    · rfl
    split
    · exact State.find_fault_standing ‹_›
    · rename_i pa u h
      have hu := State.find_ok_standing h
      have hrest := ETry.bind_standing (f := fun l v => .ok (pa :: l) v) ((ih u (wrap (va + 1))).trans hu) fun _ _ => rfl
      simp [hu, hrest]

theorem State.writeStatus_standing (s : State) (serial code : Nat) : (s.writeStatus serial code).after.standing = s.standing := by
  simp only [State.writeStatus]
  split
  · rfl
  · split
    · rfl
    · exact ETry.bind_standing (State.deviceFind_standing _ _ _ _) fun pas u => State.engineWrites_standing _ _ _ _ _

@[simp] theorem State.noteStatus_standing (s : State) (serial : Nat) : (s.noteStatus serial).standing = s.standing := by
  simp only [State.noteStatus]
  split
  · rfl
  · rename_i l _
    have hw := State.writeStatus_standing s serial (if l.phase = .pending then 1 else 2)
    split <;> rename_i h <;> rw [h] at hw <;> exact hw

@[simp] theorem State.countTrigger_standing (s : State) (serial : Nat) (rels : List Rel) : (s.countTrigger serial rels).standing = s.standing := by
  simp [State.countTrigger]

@[simp] theorem State.countChain_standing (s : State) (t : Trip) (rels : List Rel) : (s.countChain t rels).standing = s.standing := by
  simp only [State.countChain]
  split
  · split <;> simp
  · simp

@[simp] theorem State.deal_standing (s : State) (serial : Nat) (i : Inst) : (s.deal serial i).1.standing = s.standing := by
  simp only [State.deal]
  repeat' split
  all_goals simp

@[simp] theorem State.putReady_standing (s : State) (e : Ready) (place : Nat × Nat) : (s.putReady e place).standing = s.standing := by
  simp [State.putReady]

@[simp] theorem State.reportFull_standing (s : State) (ctx : Nat) : (s.reportFull ctx).standing = s.standing := by simp [State.reportFull]

@[simp] theorem State.enqueue_standing (s : State) (t : Trip) : (s.enqueue t).standing = s.standing := by
  simp only [State.enqueue, State.fresh]
  split <;> simp

@[simp] theorem State.decrement_standing (s : State) (serial : Nat) (p : Parent) (rels : List Rel) (n : Nat) :
    (s.decrement serial p rels n).standing = s.standing := by
  induction n generalizing s p rels with
  | zero => rfl
  | succ n ih =>
    simp only [State.decrement]
    split
    · rfl
    · split
      · simp
      · split
        · simp
        · split
          · simp
          · split <;> simp [ih]
      · split
        · rfl
        · split
          · simp
          · split
            · simp
            · rw [ih]; split <;> simp

@[simp] theorem State.passCompletion_standing (s : State) (t : Trip) (cont : Option Nat) (rels : List Rel) (clock : Clock) :
    (s.passCompletion t cont rels clock).standing = s.standing := by
  simp only [State.passCompletion]
  split
  · simp
  · rw [State.decrement_standing]; split <;> simp

@[simp] theorem State.endTrip_standing (s : State) (core n : Nat) (killed : Bool) : (s.endTrip core n killed).standing = s.standing := by
  simp only [State.endTrip]
  split <;> simp

@[simp] theorem State.killTrip_standing (s : State) (core n : Nat) : (s.killTrip core n).standing = s.standing := by simp [State.killTrip]

/-! Vacating a core. -/

@[simp] theorem State.foldEnergy_standing (s : State) (core : Nat) : (s.foldEnergy core).standing = s.standing := by
  simp only [State.foldEnergy]; split <;> simp

@[simp] theorem State.leaveFlits_standing (s : State) (core : Nat) : (s.leaveFlits core).standing = s.standing := by
  refine State.foldl_standing _ (fun u e => ?_) _ _
  split
  · rfl
  · split
    · rfl
    · refine State.modCore_standing _ _ _ fun k => ?_
      split <;> simp

@[simp] theorem State.wipeCore_standing (s : State) (core : Nat) : (s.wipeCore core).standing = s.standing := by simp [State.wipeCore]

@[simp] theorem State.vacate_standing (s : State) (core : Nat) (held : Bool) : (s.vacate core held).standing = s.standing := by
  have hb : ∀ u : State, (({ u with requests := u.requests.filter fun r => r.2.core != core } : State).setCore core (u.core core).bare).standing = u.standing :=
    fun u => State.modCore_standing _ core Core.bare fun _ => rfl
  simp only [State.vacate]
  rw [hb]
  simp

end Sys2Proof.Machine
end

section
/-! A cycle of the clock (O51): what it counts on (R274, R279). -/
namespace Sys2Proof.Machine
-- one proof after another: in the package as one text every proof under way holds a thread of its own
set_option Elab.async false

/-! Meetings across packages, as a cycle of the clock goes on with them. -/

/-- The trips that are ready, with what stands. -/
def State.readiness : State → Standing × List Ready
  | { time, images, imageSeq, displaced, cores, dies, ready, .. } =>
    (⟨time, images, imageSeq, displaced, coresStanding cores, diesStanding dies⟩, ready)

@[simp] theorem State.readiness_mk : type_of% @State.readiness.eq_1 := @State.readiness.eq_1
@[simp] theorem State.readiness_eta (s : State) : (s.standing, s.ready) = s.readiness := rfl

theorem State.readiness_of {s t : State} (h : t.standing = s.standing) (hr : t.ready = s.ready) : t.readiness = s.readiness := by
  rw [← State.readiness_eta, ← State.readiness_eta, h, hr]

theorem State.standing_of_readiness {s t : State} (h : t.readiness = s.readiness) : t.standing = s.standing := congrArg Prod.fst h
theorem State.ready_of_readiness {s t : State} (h : t.readiness = s.readiness) : t.ready = s.ready := congrArg Prod.snd h

@[simp] theorem State.readiness_ite (p : Prop) [Decidable p] (s t : State) :
    (if p then s else t).readiness = if p then s.readiness else t.readiness := by split <;> rfl

@[simp] theorem State.foldl_readiness {α : Type} (f : State → α → State) (h : ∀ s a, (f s a).readiness = s.readiness) (l : List α) (s : State) :
    (l.foldl f s).readiness = s.readiness := by
  induction l generalizing s with
  | nil => rfl
  | cons a l ih => rw [List.foldl_cons, ih, h]

@[simp] theorem State.setByte_ready (s : State) (pa : Nat) (b : Byte) : (s.setByte pa b).ready = s.ready := by
  simp only [State.setByte]; split <;> rfl

@[simp] theorem State.setBytes_ready (s : State) (pa n v : Nat) : (s.setBytes pa n v).ready = s.ready := by
  induction n generalizing s pa v with
  | zero => rfl
  | succ n ih => simp [State.setBytes, ih]

@[simp] theorem State.setBytes_readiness (s : State) (pa n v : Nat) : (s.setBytes pa n v).readiness = s.readiness :=
  State.readiness_of (State.setBytes_standing s pa n v) (State.setBytes_ready s pa n v)

@[simp] theorem State.send_readiness (s : State) (node kind tag addr : Nat) (l : List Byte) : (s.send node kind tag addr l).readiness = s.readiness := by
  simp [State.send]

@[simp] theorem State.emit_ready (s : State) (die kind detail source ctx : Nat) (p : Word) : (s.emit die kind detail source ctx p).ready = s.ready := by
  simp only [State.emit]; split <;> rfl

@[simp] theorem State.emitAt_ready (s : State) (l : Loc) (kind detail ctx : Nat) (p : Word) : (s.emitAt l kind detail ctx p).ready = s.ready := by
  cases l <;> simp [State.emitAt, State.emitCore]

@[simp] theorem State.emitAt_readiness (s : State) (l : Loc) (kind detail ctx : Nat) (p : Word) : (s.emitAt l kind detail ctx p).readiness = s.readiness :=
  State.readiness_of (State.emitAt_standing s l kind detail ctx p) (State.emitAt_ready s l kind detail ctx p)

@[simp] theorem State.mapWaits_readiness (s : State) (f : Track → Wait → Wait) : (s.mapWaits f).readiness = s.readiness :=
  State.readiness_of (State.mapWaits_standing s f) rfl

@[simp] theorem State.setMeet_readiness (s : State) (pa : Nat) (o : MeetObj) : (s.setMeet pa o).readiness = s.readiness := by
  simp [State.setMeet]

@[simp] theorem State.putMeet_readiness (s : State) (pa : Nat) (o : MeetObj) : (s.putMeet pa o).readiness = s.readiness := by
  simp [State.putMeet]

@[simp] theorem State.replyFar_readiness (s : State) (a : FarArrival) (code round : Nat) : (s.replyFar a code round).readiness = s.readiness := by
  simp [State.replyFar]

@[simp] theorem State.meetNotify_readiness (s : State) (pa : Nat) (o : MeetObj) : (s.meetNotify pa o).readiness = s.readiness := by
  simp [State.meetNotify]

@[simp] theorem State.meetShut_readiness (s : State) (pa due : Nat) : (s.meetShut pa due).readiness = s.readiness := by simp [State.meetShut]

@[simp] theorem State.roundClose_readiness (s : State) (pa : Nat) : (s.roundClose pa).readiness = s.readiness := by simp [State.roundClose]

@[simp] theorem State.quorumTest_readiness (s : State) (pa : Nat) : (s.quorumTest pa).readiness = s.readiness := by simp [State.quorumTest]

theorem State.classify_readiness {s u : State} {pa m t c : Nat} {rel : Rel} {data : Option (List Byte)}
    (h : s.classify pa m t rel data = .ends c u) : u.readiness = s.readiness := by
  simp only [State.classify] at h
  repeat' split at h
  all_goals cases h <;> simp

@[simp] theorem State.farProxy_readiness (s : State) (pa node proxy : Nat) : (s.farProxy pa node proxy).readiness = s.readiness := by
  simp [State.farProxy]

@[simp] theorem State.farClassify_readiness (s : State) (pa : Nat) (a : FarArrival) : (s.farClassify pa a).readiness = s.readiness := by
  simp only [State.farClassify]
  generalize hu : (if (s.meet pa).isOpen = true then s.farProxy pa a.node a.proxy else s) = u
  have hs : u.readiness = s.readiness := by rw [← hu]; simp
  split
  · simpa using hs
  split
  · simpa using hs
  split
  · simpa using hs
  split
  · exact hs
  split
  · simpa using hs
  · exact hs
  · rename_i h
    simpa using (State.classify_readiness h).trans hs

@[simp] theorem State.farAgain_readiness (s : State) (pa node req : Nat) : (s.farAgain pa node req).readiness = s.readiness := by
  simp only [State.farAgain]
  split <;> simp

@[simp] theorem State.farTurns_readiness (s : State) : s.farTurns.readiness = s.readiness := by simp [State.farTurns]

/-! The debugger's accesses, the lag table, the trace window and the yields of a cycle. -/

@[simp] theorem State.modCore_readiness (s : State) (c : Nat) (f : Core → Core) (h : ∀ k, (f k).standing = k.standing) :
    (s.modCore c f).readiness = s.readiness := State.readiness_of (State.modCore_standing s c f h) rfl

@[simp] theorem State.modTrack_readiness (s : State) (c n : Nat) (f : Track → Track) : (s.modTrack c n f).readiness = s.readiness :=
  State.readiness_of (State.modTrack_standing s c n f) rfl

@[simp] theorem State.modDie_readiness (s : State) (d : Nat) (f : Die → Die) (h : ∀ k, (f k).standing = k.standing) :
    (s.modDie d f).readiness = s.readiness := State.readiness_of (State.modDie_standing s d f h) rfl

@[simp] theorem Core.setCell_standing (k : Core) (r c : Nat) (v : Cell40) : (k.setCell r c v).standing = k.standing := by simp [Core.setCell]

@[simp] theorem State.sysWrite_readiness (s : State) (core n reg : Nat) (v : Word) : (s.sysWrite core n reg v).readiness = s.readiness := by
  simp [State.sysWrite]

theorem State.dregPut_readiness {s u : State} {core : Nat} {sel v : Word} (h : s.dregPut core sel v = some u) : u.readiness = s.readiness := by
  simp only [State.dregPut] at h
  repeat' split at h
  all_goals cases h <;> simp

@[simp] theorem State.dregAnswer_readiness (s : State) (core : Nat) (a : DbgAcc) (v : Word) : (s.dregAnswer core a v).readiness = s.readiness := by
  simp only [State.dregAnswer]
  split <;> simp [State.hostGets]

@[simp] theorem State.dregRefuse_readiness (s : State) (core : Nat) (a : DbgAcc) : (s.dregRefuse core a).readiness = s.readiness := by
  simp [State.dregRefuse]

@[simp] theorem State.dregNow_readiness (s : State) (core : Nat) (a : DbgAcc) : (s.dregNow core a).readiness = s.readiness := by
  simp only [State.dregNow]
  split
  · split <;> simp
  · split
    · simp
    · rename_i h; simpa using State.dregPut_readiness h

@[simp] theorem State.dregRetry_readiness (s : State) (core : Nat) : (s.dregRetry core).readiness = s.readiness := by
  simp only [State.dregRetry]
  split <;> simp

@[simp] theorem State.chargeLag_readiness (s : State) (core n : Nat) : (s.chargeLag core n).readiness = s.readiness := by
  simp only [State.chargeLag]
  split
  · rfl
  · split <;> simp

@[simp] theorem State.recordSlot_readiness (s : State) (die core q slot at_ : Nat) : (s.recordSlot die core q slot at_).readiness = s.readiness := by
  simp only [State.recordSlot]
  repeat' split
  all_goals simp

@[simp] theorem State.recordCycle_readiness (s : State) (die : Nat) : (s.recordCycle die).readiness = s.readiness := by
  simp [State.recordCycle]

@[simp] theorem State.yieldTick_readiness (s : State) (core : Nat) : (s.yieldTick core).readiness = s.readiness := by
  simp [State.yieldTick]

/-! A cycle of the clock. -/

theorem bitAt_zero (n : Nat) : bitAt n 0 = decide (n % 2 = 1) := by
  rw [Bool.eq_iff_iff]; simp [bitAt]

theorem mget_of_not_mhas {α : Type} (d : α) {k : Nat} {l : List (Nat × α)} (h : mhas k l = false) : mget d k l = d := by
  induction l with
  | nil => rfl
  | cons e t ih =>
    obtain ⟨j, v⟩ := e
    simp only [mhas, Bool.or_eq_false_iff, beq_eq_false_iff_ne, ne_eq] at h
    simp [mget, h.1, ih h.2]

/-- A core that is frozen is listed: an unlisted one runs. -/
theorem State.mhas_of_frozen {s : State} {c : Nat} (h : (s.core c).frozen = true) : mhas c s.cores = true := by
  cases hm : mhas c s.cores with
  | true => rfl
  | false => rw [State.core, mget_of_not_mhas _ hm] at h; cases h

/-- A frozen core stands still for one more cycle. -/
def CoreStanding.tick (k : CoreStanding) : CoreStanding := { k with stopped := k.stopped + if k.frozen = true then 1 else 0 }

theorem Core.countAll_standing (l : List Nat) (k : Core) : (l.foldl (fun k w => k.count (0x10 + w) 1) k).standing = k.standing := by
  induction l generalizing k with
  | nil => rfl
  | cons w l ih => rw [List.foldl_cons, ih, Core.count_standing]

theorem Core.tick_standing (k : Core) (whys : List Nat) : (k.tick whys).standing = k.standing.tick := by
  unfold Core.tick
  dsimp only
  cases hf : k.frozen with
  | true => simp [CoreStanding.tick, ← Core.standing_eta, hf]
  | false =>
    have hc := Core.countAll_standing whys (Core.count { k with debugWait := k.debugWait.map fun (a : DbgAcc) => { a with cycles := a.cycles + 1 } } 1 1)
    simpa [CoreStanding.tick, ← Core.standing_eta, hf] using hc

/-- The watchdog counts while the firmware runs. -/
def DieStanding.tick (d : DieStanding) : DieStanding := { d with watchdog := d.watchdog + if (mget 0#64 0 d.stew).toNat % 2 = 1 then 1 else 0 }

theorem Die.tick_standing (d : Die) (takes : Bool) : (d.tick takes).standing = d.standing.tick := by
  have hb : bitAt (d.reg 0).toNat 0 = decide ((mget 0#64 0 d.stew).toNat % 2 = 1) := bitAt_zero _
  show DieStanding.mk (if bitAt (d.reg 0).toNat 0 = true then d.watchdog + 1 else d.watchdog) d.stew =
    DieStanding.mk (d.watchdog + if (mget 0#64 0 d.stew).toNat % 2 = 1 then 1 else 0) d.stew
  rw [hb]
  by_cases h : (mget 0#64 0 d.stew).toNat % 2 = 1 <;> simp [h]

theorem coresStanding_tick (l : List (Nat × Core)) (whys : Nat × Core → List Nat) (c : Nat) :
    coresStanding (l.map fun (e : Nat × Core) => (e.1, e.2.tick (whys e))) c = (coresStanding l c).tick :=
  mget_map Core.standing CoreStanding.tick {} (fun e => (e.1, e.2.tick (whys e))) (fun _ => rfl) (fun e => Core.tick_standing e.2 _) rfl c l

theorem diesStanding_tick (l : List (Nat × Die)) (takes : Nat × Die → Bool) (d : Nat) :
    diesStanding (l.map fun (e : Nat × Die) => (e.1, e.2.tick (takes e))) d = (diesStanding l d).tick :=
  mget_map Die.standing DieStanding.tick {} (fun e => (e.1, e.2.tick (takes e))) (fun _ => rfl) (fun e => Die.tick_standing e.2 _) rfl d l

/-- What a cycle does before the clock itself goes on: the trace window, the lag table, the debugger's accesses and the yields. -/
def State.beforeTick (s : State) : State :=
  let s := (s.dies.map (·.1)).foldl (fun s d => if (s.die d).records then s.recordCycle d else s) s
  let s := (s.cores.map (·.1)).foldl (fun s c =>
    if bitAt (mget 0 0x1D8 (s.core c).dbg).toNat 0 then (span 0 4).foldl (fun s n => s.chargeLag c n) s else s) s
  let s := (s.cores.map (·.1)).foldl State.dregRetry s
  (s.cores.map (·.1)).foldl (fun s c => if (s.core c).frozen then s else s.yieldTick c) s

@[simp] theorem State.beforeTick_readiness (s : State) : s.beforeTick.readiness = s.readiness := by simp [State.beforeTick]

/-- The clock goes on in every core, cluster and die, and for every trip that is ready. -/
def State.ticked (s : State) : State :=
  { s with
    cores := s.cores.map fun (e : Nat × Core) => (e.1, e.2.tick (((span 0 4).filter fun n => !e.2.hasIssued n).map (s.stallOf e.1)))
    clusters := s.clusters.map fun (e : Nat × Cluster) => (e.1, s.tickCluster e.2)
    dies := s.dies.map fun (e : Nat × Die) => (e.1, e.2.tick (s.portTakes e.1))
    portOut := s.portOut ++ s.dies.filterMap fun e => if s.portTakes e.1 then e.2.port.head? else none
    ready := s.ready.map fun (r : Ready) => { r with waited := r.waited + 1 }
    time := s.time + 1 }

/-- What stands after a cycle: the time, the frozen cores' cycles and the watchdogs have gone on. -/
def Standing.tick (n : Standing) : Standing :=
  { n with time := n.time + 1, core := fun c => (n.core c).tick, die := fun d => (n.die d).tick }

theorem State.ticked_readiness (s : State) :
    s.ticked.readiness = (s.standing.tick, s.ready.map fun (r : Ready) => { r with waited := r.waited + 1 }) := by
  simp only [State.ticked, State.readiness_mk, funext (coresStanding_tick _ _), funext (diesStanding_tick _ _)]
  rfl

theorem execClockCycle_eq (s : State) : execClockCycle s = .next s.beforeTick.ticked.farTurns := rfl

/-- What a cycle of the clock leaves of what stands, and of the trips that are ready. -/
theorem State.cycle_readiness (s : State) : s.beforeTick.ticked.farTurns.readiness =
    (s.standing.tick, s.ready.map fun (r : Ready) => { r with waited := r.waited + 1 }) := by
  rw [State.farTurns_readiness, State.ticked_readiness, State.standing_of_readiness s.beforeTick_readiness,
    State.ready_of_readiness s.beforeTick_readiness]

/-- CLOCK_CYCLE (R279, R274): time, the ready trips' waits, the cycles of the cores that stand still, and the watchdogs of firmware that runs. -/
theorem execClockCycle_counts (s : State) : ∃ t : State, execClockCycle s = .next t ∧ t.time = s.time + 1 ∧
    (t.ready.map (·.waited)) = s.ready.map (·.waited + 1) ∧
    (∀ c, (t.core c).frozen = (s.core c).frozen ∧ (t.core c).stopped = (s.core c).stopped + if (s.core c).frozen ∧ mhas c s.cores then 1 else 0) ∧
    ∀ d, (t.die d).watchdog = (s.die d).watchdog + if (s.stew d 0).toNat % 2 = 1 then 1 else 0 := by
  refine ⟨_, execClockCycle_eq s, ?_⟩
  have hr := s.cycle_readiness
  generalize s.beforeTick.ticked.farTurns = t at hr ⊢
  have hs : t.standing = s.standing.tick := congrArg Prod.fst hr
  have hw : t.ready = s.ready.map fun (r : Ready) => { r with waited := r.waited + 1 } := congrArg Prod.snd hr
  refine ⟨congrArg Standing.time hs, ?_, fun c => ?_, fun d => ?_⟩
  · rw [hw, List.map_map]; rfl
  · have hc : (t.core c).standing = (s.core c).standing.tick := congrFun (congrArg Standing.core hs) c
    have hb : ((s.core c).frozen = true ∧ mhas c s.cores = true) = ((s.core c).frozen = true) :=
      propext ⟨And.left, fun h => ⟨h, State.mhas_of_frozen h⟩⟩
    simp only [hb]
    exact ⟨congrArg CoreStanding.frozen hc, congrArg CoreStanding.stopped hc⟩
  · have hd : (t.die d).standing = (s.die d).standing.tick := congrFun (congrArg Standing.die hs) d
    exact congrArg DieStanding.watchdog hd

end Sys2Proof.Machine
end

section
/-! Freezes, saves and loads of the steward, and the core that takes over another's work (O51). -/
namespace Sys2Proof.Machine
-- one proof after another: in the package as one text every proof under way holds a thread of its own
set_option Elab.async false

/-! Tables, once more: the entry of a key, and the first number with a property. -/

theorem mfind_mput_same {α : Type} (k : Nat) (v : α) (l : List (Nat × α)) : mfind k (mput k v l) = some v := by
  induction l with
  | nil => simp [mput, mfind]
  | cons e t ih =>
    obtain ⟨j, w⟩ := e
    simp only [mput]
    split
    · simp [mfind]
    · split
      · simp [mfind]
      · simp [mfind, *]

theorem mfind_mput_other {α : Type} {i k : Nat} (h : i ≠ k) (v : α) (l : List (Nat × α)) : mfind i (mput k v l) = mfind i l := by
  induction l with
  | nil => simp [mput, mfind, h.symm]
  | cons e t ih =>
    obtain ⟨j, w⟩ := e
    simp only [mput]
    split
    · subst_vars; simp [mfind, h.symm]
    · split
      · simp [mfind, h.symm]
      · simp [mfind, ih]

/-- A number is the first of a span with a property. -/
theorem find?_span_eq_some {a n h : Nat} {p : Nat → Bool} :
    (span a n).find? p = some h ↔ a ≤ h ∧ h < a + n ∧ p h = true ∧ ∀ c, a ≤ c → c < h → p c = false := by
  simp only [span, List.find?_map, Option.map_eq_some_iff, List.find?_range_eq_some, Function.comp, List.mem_range, Bool.not_eq_true']
  constructor
  · rintro ⟨i, ⟨hp, hi, hj⟩, rfl⟩
    refine ⟨by omega, by omega, hp, fun c hc hn => ?_⟩
    have := hj (c - a) (by omega)
    rwa [show a + (c - a) = c by omega] at this
  · rintro ⟨ha, hn, hp, hj⟩
    refine ⟨h - a, ⟨by rwa [show a + (h - a) = h by omega], by omega, fun j hj' => hj _ (by omega) (by omega)⟩, by omega⟩

theorem find?_span_eq_none {a n : Nat} {p : Nat → Bool} : (span a n).find? p = none ↔ ∀ c, a ≤ c → c < a + n → p c = false := by
  simp only [span, List.find?_eq_none, List.mem_map, List.mem_range, Bool.not_eq_true]
  constructor
  · intro h c hc hn
    exact h c ⟨c - a, by omega, by omega⟩
  · rintro h c ⟨i, hi, rfl⟩
    exact h _ (by omega) (by omega)

/-! Freezing cores. -/

@[simp] theorem State.core_emitImage (s : State) (core kind c : Nat) : (s.emitImage core kind).core c = s.core c := by
  simp only [State.emitImage, State.emitCore, State.emit]
  split <;> rfl

theorem State.byte_emitImage (s : State) (core kind a : Nat) : (s.emitImage core kind).byte a = s.byte a := by
  have h := congrArg Standing.die (State.emitImage_standing s core kind)
  have hm : (s.emitImage core kind).mem = s.mem := by
    simp only [State.emitImage, State.emitCore, State.emit]
    split <;> rfl
  exact State.byte_of_stew hm (fun d => congrArg DieStanding.stew (congrFun h d)) a

/-- A core that a stop request has reached (R248). -/
theorem State.core_freeze (s : State) (c i : Nat) : (s.freeze c).core i = if i = c then
    { s.core c with
        frozen := true, sealed := false, restored := false, freezeNo := (s.core c).freezeNo + 1, freezeTime := s.time, freezeImages := []
        holds := ((s.core c).streams.filter fun e => e.2.pat.dir == 3 && e.2.linked).map (·.1) } else s.core i := by
  simp only [State.freeze, State.core_emitImage, State.core_modCore]

theorem State.freeze_frozen (s : State) (c i : Nat) : ((s.freeze c).core i).frozen = (decide (i = c) || (s.core i).frozen) := by
  rw [State.core_freeze]; split <;> simp [*]

theorem State.freeze_byte (s : State) (c a : Nat) : (s.freeze c).byte a = s.byte a := by
  rw [State.freeze, State.byte_emitImage]; rfl

theorem State.freezeAll_frozen (s : State) (l : List Nat) (i : Nat) : ((s.freezeAll l).core i).frozen = (decide (i ∈ l) || (s.core i).frozen) := by
  unfold State.freezeAll
  induction l generalizing s with
  | nil => simp
  | cons c l ih =>
    rw [List.foldl_cons, ih]
    by_cases hf : (s.core c).frozen = true
    · rw [if_pos hf]
      by_cases hi : i = c
      · subst hi; simp [hf]
      · simp [hi]
    · rw [if_neg hf, State.freeze_frozen]
      by_cases hi : i = c <;> simp [hi]

theorem State.freezeAll_byte (s : State) (l : List Nat) (a : Nat) : (s.freezeAll l).byte a = s.byte a := by
  unfold State.freezeAll
  induction l generalizing s with
  | nil => rfl
  | cons c l ih =>
    rw [List.foldl_cons, ih]
    split
    · rfl
    · exact State.freeze_byte _ _ _

/-- A core that is taken out of service: no further bank of its pool counts as failed. -/
theorem State.core_takeOut (s : State) (c : Nat) : ((s.takeOut c).core c).removed = true ∧ ((s.takeOut c).core c).banksFailed = (s.core c).banksFailed := by
  simp only [State.takeOut, State.core_modCore_same, State.freezeAll, List.foldl_cons, List.foldl_nil, true_and]
  split
  · rfl
  · rw [State.core_freeze, if_pos rfl]

/-! Module reset. -/

theorem ite_ne_of_ne {α : Type} {p : Prop} [Decidable p] {x y z : α} (hx : x ≠ z) (hy : y ≠ z) : (if p then x else y) ≠ z := by
  split <;> assumption

theorem area_scratch_bounds {a c o : Nat} (h : area a = .scratch c o) : 0x400000000 ≤ a ∧ a < 0x420000000 := by
  by_cases h1 : a < 0x400000000
  · rw [area, if_pos h1] at h; cases h
  · by_cases h2 : a < 0x420000000
    · exact ⟨Nat.le_of_not_lt h1, h2⟩
    · rw [area, if_neg h1, if_neg h2] at h
      refine absurd h ?_
      repeat' apply ite_ne_of_ne
      all_goals nofun

theorem inPool_eq (a : Nat) : inPool a = decide (0x400000000 ≤ a ∧ a < 0x420000000) := by
  unfold inPool
  split
  · rename_i h; exact (decide_eq_true (area_scratch_bounds h)).symm
  · rename_i hn
    refine (decide_eq_false fun hb => ?_).symm
    refine hn ((a - 0x400000000) / 0x100000) ((a - 0x400000000) % 0x100000) ?_
    rw [area, if_neg (by omega), if_pos (by omega)]

/-- A key that a filter drops reads as the default. -/
theorem mget_filter_of_dropped {α : Type} (d : α) {k : Nat} {p : Nat × α → Bool} (h : ∀ v, p (k, v) = false) (l : List (Nat × α)) :
    mget d k (l.filter p) = d := by
  refine mget_of_not_mhas d ?_
  induction l with
  | nil => rfl
  | cons e t ih =>
    rw [List.filter_cons]
    split
    · obtain ⟨j, v⟩ := e
      have hj : j ≠ k := fun hj => by subst hj; simp_all
      simp [mhas, hj, ih]
    · exact ih

/-! Saving a core and loading it onto another (R253, R265, R266). -/

@[simp] theorem State.unused_modCore (s : State) (c i : Nat) (f : Core → Core) (h : ∀ k, (f k).unused = k.unused) :
    ((s.modCore c f).core i).unused = (s.core i).unused := by
  rw [State.core_modCore]
  split
  · subst_vars; exact h _
  · rfl

@[simp] theorem State.unused_foldl {α : Type} (f : State → α → State) (c : Nat) (h : ∀ s a, ((f s a).core c).unused = (s.core c).unused) (l : List α)
    (s : State) : ((l.foldl f s).core c).unused = (s.core c).unused := by
  induction l generalizing s with
  | nil => rfl
  | cons a l ih => rw [List.foldl_cons, ih, h]

@[simp] theorem State.unused_setByte (s : State) (pa : Nat) (b : Byte) (c : Nat) : ((s.setByte pa b).core c).unused = (s.core c).unused := by
  simp only [State.setByte]
  split
  · exact State.unused_modCore _ _ _ _ fun _ => rfl
  · rfl

theorem State.unused_settleByte (s : State) (core off c : Nat) : ((s.settleByte core off).core c).unused = (s.core c).unused := by
  have hm := State.unused_modCore s core c (fun k => { k with upsets := mdel (off / 64 * 4 + off % 4) k.upsets }) fun _ => rfl
  simp only [State.settleByte]
  split
  · rfl
  · split
    · exact hm
    · rw [State.unused_foldl (fun s (f : Nat × Nat) => s.reportError (.poolBank core f.1) true) c fun _ _ => rfl,
        State.unused_foldl (fun s (e : Nat × Nat) => s.setByte e.1 (s.byte e.1 ^^^ BitVec.ofNat 8 e.2)) c fun _ _ => State.unused_setByte _ _ _ _]
      exact hm

theorem State.unused_settleAll (s : State) (core c : Nat) : ((s.settleAll core).core c).unused = (s.core c).unused :=
  State.unused_foldl _ _ (fun _ _ => State.unused_settleByte _ _ _ _) _ _

/-- What a steward's save leaves: a new image under the next number, and all else that stands as it was. -/
theorem State.stewardSave_standing (s : State) (core : Nat) : ∃ img, (s.stewardSave core).1.standing =
    { s.standing with imageSeq := s.imageSeq + 1, images := mput (s.imageSeq + 1) img s.images } := by
  have h := State.settleAll_standing s core
  have hq : (s.settleAll core).imageSeq = s.imageSeq := congrArg Standing.imageSeq h
  have hi : (s.settleAll core).images = s.images := congrArg Standing.images h
  refine ⟨(s.settleAll core).imageOf core (s.imageSeq + 1) 0, ?_⟩
  simp only [State.stewardSave, hq, hi]
  refine (State.modCore_standing _ _ _ ?_).trans ?_
  · exact fun _ => rfl
  · rw [← h]; rfl

theorem State.stewardSave_seq (s : State) (core : Nat) : (s.stewardSave core).2 = s.imageSeq + 1 :=
  congrArg (· + 1) (congrArg Standing.imageSeq (State.settleAll_standing s core))

theorem State.unused_stewardSave (s : State) (core c : Nat) : ((s.stewardSave core).1.core c).unused = (s.core c).unused := by
  rw [← State.unused_settleAll s core c]
  simp only [State.stewardSave, State.core_modCore]
  split
  · subst_vars; rfl
  · rfl

/-- Which cores are out of service, and the images that wait for a vacant core. -/
def State.service (s : State) : List Nat × (Nat → Bool) := (s.displaced, fun c => (s.core c).removed)

def Standing.service (n : Standing) : List Nat × (Nat → Bool) := (n.displaced, fun c => (n.core c).removed)

theorem State.service_eq (s : State) : s.service = s.standing.service := rfl

theorem State.service_of_standing {s t : State} (h : t.standing = s.standing) : t.service = s.service := by
  rw [State.service_eq, h, State.service_eq]

theorem State.service_modCore (s : State) (c : Nat) (f : Core → Core) (h : (f (s.core c)).removed = (s.core c).removed) :
    (s.modCore c f).service = s.service := by
  refine Prod.ext rfl (funext fun i => ?_)
  simp only [State.service, State.core_modCore]
  split
  · subst_vars; exact h
  · rfl

theorem State.service_applyImage (s : State) (target : Nat) (img : Image) : (s.applyImage target img).service = s.service := by
  have h : ((s.settleAll target).leaveFlits target).standing = s.standing := (State.leaveFlits_standing _ _).trans (State.settleAll_standing s target)
  have hd : ((s.settleAll target).leaveFlits target).displaced = s.displaced := congrArg Standing.displaced h
  have hs : ∀ i, ((s.settleAll target).core i).removed = (s.core i).removed :=
    congrFun (congrArg Prod.snd (State.service_of_standing (State.settleAll_standing s target)))
  have hc : ∀ i, (((s.settleAll target).leaveFlits target).core i).removed = (s.core i).removed := congrFun (congrArg Prod.snd (State.service_of_standing h))
  refine Prod.ext hd (funext fun i => ?_)
  show (mget ({} : Core) i (mput target ((s.settleAll target).placedCore target img _) ((s.settleAll target).leaveFlits target).cores)).removed = _
  rw [mget_mput]
  split
  · subst_vars; exact hs _
  · exact hc i

theorem State.service_mapCores (s : State) (g : Nat → Core → Core) (h : ∀ c k, (g c k).removed = k.removed) :
    ({ s with cores := s.cores.map fun (e : Nat × Core) => (e.1, g e.1 e.2) } : State).service = s.service :=
  Prod.ext rfl (funext fun c => mget_map Core.removed id {} (fun e => (e.1, g e.1 e.2)) (fun _ => rfl) (fun e => h e.1 e.2) rfl c s.cores)

theorem State.service_loadedFrom (s : State) (target : Nat) (img : Image) : (s.loadedFrom target img).service = s.service := by
  have hr := State.service_modCore s target (fun k => { k with restored := true }) rfl
  simp only [State.loadedFrom]
  split
  · exact hr
  · have hm := (State.service_mapCores (s.modCore target fun k => { k with restored := true }) (fun c k => if c = target then k else
      { k with
          incoming := k.incoming.map fun i => if i.src = img.origin && (img.core.gq.map (·.id)).contains i.cmd then { i with src := target } else i
          streams := k.streams.map fun (q, st) =>
            (q, if st.ctx = img.core.ctx.getD 0 && (st.partner.any fun p => p.1 == img.origin) then
              { st with partner := st.partner.map fun p => (target, p.2) } else st) }) fun c k => by dsimp only; split <;> rfl).trans hr
    split
    · exact (State.service_modCore _ _ (fun k => { k with departed := true, incoming := [] }) rfl).trans hm
    · exact hm

theorem State.service_referenced (s : State) (target seq : Nat) : (s.referenced target seq).service = s.service := by
  simp only [State.referenced]
  split
  · rfl
  · exact State.service_modCore _ _ _ rfl

theorem State.service_restart (s : State) (core : Nat) : (s.restart core).service = s.service :=
  State.service_modCore _ _ _ rfl

/-- A load of the steward's takes no core into or out of service, and leaves the images that wait. -/
theorem State.service_stewardLoad (s : State) (core seq : Nat) : (s.stewardLoad core seq).service = s.service := by
  simp only [State.stewardLoad]
  split
  · rfl
  · rw [State.service_restart, State.service_of_standing (State.emitImage_standing _ _ _), State.service_referenced, State.service_loadedFrom,
      State.service_applyImage]
    split
    · rfl
    · exact State.service_of_standing (State.foldEnergy_standing _ _)

/-- A core that the steward has loaded runs. -/
theorem State.stewardLoad_frozen {s : State} {seq : Nat} {img : Image} (h : mfind seq s.images = some img) (core : Nat) :
    ((s.stewardLoad core seq).core core).frozen = false := by
  simp only [State.stewardLoad, h, State.restart, State.core_modCore_same]

/-! The host of a core that is out of service (R282). -/

/-- A core that may be the host of another. -/
def State.serves (s : State) (core c : Nat) : Prop := c ≠ core ∧ (s.core c).removed = false ∧ (s.core c).departed = false

theorem State.serves_iff (s : State) (core c : Nat) :
    s.serves core c ↔ (c != core && !(s.core c).removed && !(s.core c).departed) = true := by
  simp [State.serves, and_assoc]

/-- The core is the first of a span that serves. -/
def State.firstServing (s : State) (core lo n h : Nat) : Prop := lo ≤ h ∧ h < lo + n ∧ s.serves core h ∧ ∀ c, lo ≤ c → c < h → ¬s.serves core c

/-- No core of a span serves. -/
def State.noneServes (s : State) (core lo n : Nat) : Prop := ∀ c, lo ≤ c → c < lo + n → ¬s.serves core c

theorem State.firstServing_iff (s : State) (core lo n h : Nat) : s.firstServing core lo n h ↔
    ((span lo n).find? fun c => c != core && !(s.core c).removed && !(s.core c).departed) = some h := by
  simp only [find?_span_eq_some, State.firstServing, State.serves_iff, Bool.not_eq_true]

theorem State.noneServes_iff (s : State) (core lo n : Nat) : s.noneServes core lo n ↔
    ((span lo n).find? fun c => c != core && !(s.core c).removed && !(s.core c).departed) = none := by
  simp only [find?_span_eq_none, State.noneServes, State.serves_iff, Bool.not_eq_true]

theorem State.hostFor_eq (s : State) (core : Nat) : s.hostFor core =
    let serving := fun lo n => (span lo n).find? fun c => c != core && !(s.core c).removed && !(s.core c).departed
    (serving (core / 16 * 16) 16).or ((serving (core / 128 * 128) 128).or (serving 0 512)) := by
  have h0 : span 0 512 = List.range 512 := by simp [span]
  simp only [State.hostFor, clusterOf, dieOf, Nat.mul_comm 16, Nat.mul_comm 128, h0]
  split
  · simp [*]
  · split <;> simp [*]

theorem State.hostFor_eq_none {s : State} {core : Nat} (h₁ : s.noneServes core (core / 16 * 16) 16) (h₂ : s.noneServes core (core / 128 * 128) 128)
    (h₃ : s.noneServes core 0 512) : s.hostFor core = none := by
  rw [State.noneServes_iff] at h₁ h₂ h₃
  simp [State.hostFor_eq, h₁, h₂, h₃]

/-- A core is the host of another: the first that serves in the cluster, else in the die, else in the package. -/
def State.isHost (s : State) (core h : Nat) : Prop :=
  s.firstServing core (core / 16 * 16) 16 h ∨ (s.noneServes core (core / 16 * 16) 16 ∧ s.firstServing core (core / 128 * 128) 128 h) ∨
    (s.noneServes core (core / 16 * 16) 16 ∧ s.noneServes core (core / 128 * 128) 128 ∧ s.firstServing core 0 512 h)

theorem State.hostFor_eq_some {s : State} {core h : Nat} (hh : s.isHost core h) : s.hostFor core = some h := by
  simp only [State.isHost, State.noneServes_iff, State.firstServing_iff] at hh
  rw [State.hostFor_eq]
  obtain h₁ | ⟨h₁, h₂⟩ | ⟨h₁, h₂, h₃⟩ := hh
  · simp [h₁]
  · simp [h₁, h₂]
  · simp [h₁, h₂, h₃]

theorem State.removed_of_isHost {s : State} {core h : Nat} (hh : s.isHost core h) : (s.core h).removed = false := by
  obtain ⟨-, -, ⟨-, hr, -⟩, -⟩ | ⟨-, -, -, ⟨-, hr, -⟩, -⟩ | ⟨-, -, -, -, ⟨-, hr, -⟩, -⟩ := hh <;> exact hr

end Sys2Proof.Machine
end

section
/-! The steward's moves for a core that is out of service, the events of power, heat, errors and tests, and O51. -/
namespace Sys2Proof.Machine
-- one proof after another: in the package as one text every proof under way holds a thread of its own
set_option Elab.async false

/-! CORE_REMOVAL's moves (R282). -/

theorem Core.unused_iff (k : Core) : k.unused = true ↔ ¬(k.lastCtx.isSome = true ∨ ∃ e, e ∈ k.tracks ∧ e.2.trip.isSome = true) := by
  simp [Core.unused]

theorem State.runClear_eq (s : State) (c : Nat) : s.runClear c = !decide ((s.stew (c / 128) 0).toNat % 2 = 1) := by
  rw [State.runClear, bitAt_zero]; rfl

theorem State.runClear_iff (s : State) (c : Nat) : s.runClear c = true ↔ ¬(s.stew (c / 128) 0).toNat % 2 = 1 := by
  simp [State.runClear_eq]

theorem State.runClear_eq_false_iff (s : State) (c : Nat) : s.runClear c = false ↔ (s.stew (c / 128) 0).toNat % 2 = 1 := by
  simp [State.runClear_eq]

theorem State.sealFails_iff (s : State) (c : Nat) :
    s.sealFails c = true ↔ (s.core c).sealed = false ∧ (s.core c).freezeTime + 2 ^ 20 ≤ s.time := by simp [State.sealFails]

theorem execCoreRemoval_stays {s : State} {core : Nat}
    (h : (s.core core).removed = false ∨ s.tripped = true ∨ ¬(s.stew (core / 128) 0).toNat % 2 = 1) :
    execCoreRemoval core s = .next s := by
  rw [execCoreRemoval, if_pos]
  rw [← State.runClear_iff] at h
  simpa [or_assoc] using h

/-- The core is out of service, and its steward's firmware runs. -/
structure State.removing (s : State) (core : Nat) : Prop where
  removed : (s.core core).removed = true
  tripped : s.tripped = false
  runs : (s.stew (core / 128) 0).toNat % 2 = 1

theorem State.removing.moves {s : State} {core : Nat} (h : s.removing core) : (!(s.core core).removed || s.tripped || s.runClear core) = false := by
  simp [h.removed, h.tripped, (State.runClear_eq_false_iff _ _).mpr h.runs]

theorem execCoreRemoval_mapped {s : State} {core : Nat} (hm : s.removing core) (h : mhas core s.hostMap = true) :
    execCoreRemoval core s = .next s.placeDisplaced := by
  simp only [execCoreRemoval, hm.moves, h, if_true]
  rfl

theorem execCoreRemoval_noHost {s : State} {core : Nat} (hm : s.removing core) (hn : mhas core s.hostMap = false) (h : s.hostFor core = none) :
    execCoreRemoval core s = .next { s with reports := s.reports ++ [.outOfService] } := by
  simp only [execCoreRemoval, hm.moves, hn, h]
  rfl

/-- The core is out of service, its steward's firmware runs, and it has a host that it is not mapped onto yet. -/
structure State.leaving (s : State) (core h : Nat) : Prop extends s.removing core where
  unmapped : mhas core s.hostMap = false
  host : s.hostFor core = some h

theorem execCoreRemoval_unused {s : State} {core h : Nat} (hl : s.leaving core h) (hu : (s.core core).unused = true) :
    execCoreRemoval core s = .next (s.mapOnto core h) := by
  simp [execCoreRemoval, hl.moves, hl.unmapped, hl.host, hu]

theorem execCoreRemoval_late {s : State} {core h : Nat} (hl : s.leaving core h) (hu : (s.core core).unused = false) (hs : s.sealFails core = true) :
    execCoreRemoval core s = .next ((s.vacate core false).mapOnto core h) := by
  simp [execCoreRemoval, hl.moves, hl.unmapped, hl.host, hu, hs]

theorem execCoreRemoval_waits {s : State} {core h : Nat} (hl : s.leaving core h) (hu : (s.core core).unused = false) (hs : s.sealFails core = false)
    (hw : (s.core core).sealed = false ∨ s.runClear h = true ∨ s.bandTested h = true ∨ s.imgQueued h = true ∨ s.imgQueued core = true) :
    execCoreRemoval core s = .next s := by
  have hw' : (!(s.core core).sealed || s.runClear h || s.bandTested h || s.imgQueued h || s.imgQueued core) = true := by simpa [or_assoc] using hw
  simp only [execCoreRemoval, hl.moves, hl.unmapped, hl.host, hu, hs, hw', if_true]
  rfl

/-- The core is sealed, and nothing keeps its host from taking over. -/
structure State.movable (s : State) (core h : Nat) : Prop extends s.leaving core h where
  used : (s.core core).unused = false
  sealed : (s.core core).sealed = true
  hostRuns : s.runClear h = false
  untested : s.bandTested h = false
  hostFree : s.imgQueued h = false
  free : s.imgQueued core = false

theorem State.movable.notLate {s : State} {core h : Nat} (hm : s.movable core h) : s.sealFails core = false := by simp [State.sealFails, hm.sealed]

theorem execCoreRemoval_freezesHost {s : State} {core h : Nat} (hm : s.movable core h) (hf : (s.core h).frozen = false) :
    execCoreRemoval core s = .next (s.freeze h) := by
  simp [execCoreRemoval, hm.moves, hm.unmapped, hm.host, hm.used, hm.notLate, hm.sealed, hm.hostRuns, hm.untested, hm.hostFree, hm.free, hf]

theorem execCoreRemoval_awaitsHost {s : State} {core h : Nat} (hm : s.movable core h) (hf : (s.core h).frozen = true) (hs : (s.core h).sealed = false) :
    execCoreRemoval core s = .next s := by
  simp [execCoreRemoval, hm.moves, hm.unmapped, hm.host, hm.used, hm.notLate, hm.sealed, hm.hostRuns, hm.untested, hm.hostFree, hm.free, hf, hs]

theorem State.mapOnto_hostMap (s : State) (core h : Nat) : mget core core (s.mapOnto core h).hostMap = h := mget_mput_same _ _ _ _
theorem State.mapOnto_core (s : State) (core h c : Nat) : (s.mapOnto core h).core c = s.core c := rfl
theorem State.mapOnto_displaced (s : State) (core h : Nat) : (s.mapOnto core h).displaced = s.displaced := rfl
theorem State.core_displaced (s : State) (l : List Nat) (c : Nat) : State.core { s with displaced := l } c = s.core c := rfl

/-- Both images are saved: what the host goes on from, and the number of its own image where it holds something. -/
def State.savedBoth (s : State) (core h : Nat) : State × Nat :=
  let saved := (s.stewardSave core).1
  if (saved.core h).unused then (saved, 0) else saved.stewardSave h

/-- The host goes on with the removed core's image. -/
def State.takesOver (s : State) (core h : Nat) : State := ((s.savedBoth core h).1.vacate h true).stewardLoad h (s.stewardSave core).2

theorem execCoreRemoval_loadsHost {s : State} {core h : Nat} (hm : s.movable core h) (hf : (s.core h).frozen = true) (hs : (s.core h).sealed = true) :
    execCoreRemoval core s = .next (State.mapOnto { s.takesOver core h with
      displaced := if !((s.stewardSave core).1.core h).unused then (s.takesOver core h).displaced ++ [(s.savedBoth core h).2]
        else (s.takesOver core h).displaced } core h) := by
  simp only [execCoreRemoval, hm.moves, hm.unmapped, hm.host, hm.used, hm.notLate, hm.sealed, hm.hostRuns, hm.untested, hm.hostFree, hm.free, hf, hs,
    State.takesOver, State.savedBoth]
  obtain ⟨saved, seq⟩ := s.stewardSave core
  cases (saved.core h).unused <;> simp only [Bool.false_eq_true, if_false, if_true, Bool.not_true, Bool.not_false, Bool.or_false]

/-- The host's own image where it holds something, and the removed core's: both are of the saves, and the removed core's is loaded. -/
theorem State.savedBoth_standing (s : State) (core h : Nat) : ∃ img images seq, mfind (s.imageSeq + 1) images = some img ∧
    (s.savedBoth core h).1.standing = { s.standing with imageSeq := seq, images := images } ∧
    (s.savedBoth core h).2 = if (s.core h).unused = true then 0 else s.imageSeq + 2 := by
  obtain ⟨img, hi⟩ := s.stewardSave_standing core
  have hu : ((s.stewardSave core).1.core h).unused = (s.core h).unused := State.unused_stewardSave s core h
  have hq : (s.stewardSave core).1.imageSeq = s.imageSeq + 1 := congrArg Standing.imageSeq hi
  have hm : (s.stewardSave core).1.images = mput (s.imageSeq + 1) img s.images := congrArg Standing.images hi
  simp only [State.savedBoth, hu]
  by_cases h' : (s.core h).unused = true
  · rw [if_pos h', if_pos h']
    exact ⟨img, _, _, mfind_mput_same _ _ _, hi, rfl⟩
  · rw [if_neg h', if_neg h']
    obtain ⟨img', hi'⟩ := (s.stewardSave core).1.stewardSave_standing h
    refine ⟨img, mput (s.imageSeq + 2) img' (mput (s.imageSeq + 1) img s.images), s.imageSeq + 2, ?_, ?_, ?_⟩
    · rw [mfind_mput_other (by omega), mfind_mput_same]
    · rw [hi', hi, hq, hm]
    · rw [State.stewardSave_seq, hq]

/-- After the host has taken over it runs, and no core has gone into or out of service. -/
theorem State.takesOver_leaves (s : State) (core h : Nat) : (s.takesOver core h).service = s.service ∧ ((s.takesOver core h).core h).frozen = false := by
  obtain ⟨img, images, seq, hi, hs, -⟩ := s.savedBoth_standing core h
  have hv : ((s.savedBoth core h).1.vacate h true).standing = { s.standing with imageSeq := seq, images := images } := (State.vacate_standing _ _ _).trans hs
  have hm : mfind (s.imageSeq + 1) ((s.savedBoth core h).1.vacate h true).images = some img := (congrArg (mfind _) (congrArg Standing.images hv)).trans hi
  have hsv : ((s.savedBoth core h).1.vacate h true).service = s.service := by
    rw [State.service_eq, hv, State.service_eq]; rfl
  rw [State.takesOver, State.stewardSave_seq]
  exact ⟨(State.service_stewardLoad _ _ _).trans hsv, State.stewardLoad_frozen hm h⟩

theorem execCoreRemoval_takesOver {s : State} {core h : Nat} (hm : s.movable core h) (hf : (s.core h).frozen = true) (hs : (s.core h).sealed = true) :
    ∃ t : State, execCoreRemoval core s = .next t ∧ mget core core t.hostMap = h ∧ (t.core h).frozen = false ∧
      (t.core h).removed = (s.core h).removed ∧ t.displaced = if (s.core h).unused = true then s.displaced else s.displaced ++ [s.imageSeq + 2] := by
  obtain ⟨hsv, hrun⟩ := s.takesOver_leaves core h
  obtain ⟨-, -, -, -, -, hn⟩ := s.savedBoth_standing core h
  have hd : (s.takesOver core h).displaced = s.displaced := congrArg Prod.fst hsv
  have he := execCoreRemoval_loadsHost hm hf hs
  generalize s.takesOver core h = t at hd hrun hsv he
  refine ⟨_, he, State.mapOnto_hostMap _ _ _, ?_, ?_, ?_⟩
  · rw [State.mapOnto_core, State.core_displaced, hrun]
  · rw [State.mapOnto_core, State.core_displaced]; exact congrFun (congrArg Prod.snd hsv) h
  · rw [State.mapOnto_displaced, State.unused_stewardSave, hn, hd]
    cases (s.core h).unused <;> rfl

/-- The steward's moves for a core that is out of service (R249, R265, R266, R282). -/
theorem execCoreRemoval_moves (s : State) (core h : Nat) :
    let k := s.core core
    let runs := fun (c : Nat) => (s.stew (c / 128) 0).toNat % 2 = 1
    let holds := fun (c : Nat) => (s.core c).lastCtx.isSome = true ∨ ∃ e, e ∈ (s.core c).tracks ∧ e.2.trip.isSome = true
    let late := k.sealed = false ∧ k.freezeTime + 2 ^ 20 ≤ s.time
    let move := fun (t : State) => execCoreRemoval core s = .next t
    s.leaving core h → (s.core h).removed = false →
      (¬holds core → move (s.mapOnto core h)) ∧
      (holds core → late → move ((s.vacate core false).mapOnto core h)) ∧
      (holds core → ¬late →
        (k.sealed = false ∨ ¬runs h ∨ s.bandTested h = true ∨ s.imgQueued h = true ∨ s.imgQueued core = true) → move s) ∧
      (holds core → k.sealed = true → runs h → s.bandTested h = false → s.imgQueued h = false → s.imgQueued core = false →
        ((s.core h).frozen = false → move (s.freeze h)) ∧
        ((s.core h).frozen = true → (s.core h).sealed = false → move s) ∧
        ((s.core h).frozen = true → (s.core h).sealed = true → ∃ t : State, move t ∧ mget core core t.hostMap = h ∧
          (t.core h).frozen = false ∧ (t.core h).removed = false ∧ (holds h → t.displaced = s.displaced ++ [s.imageSeq + 2]) ∧
          (¬holds h → t.displaced = s.displaced))) := by
  intro k runs holds late move hl hr
  have hu : ∀ c, holds c ↔ (s.core c).unused = false := fun c => by rw [← Bool.not_eq_true, Core.unused_iff, Classical.not_not]
  have hc : ∀ c, ¬runs c ↔ s.runClear c = true := fun c => (s.runClear_iff c).symm
  have hlate : late ↔ s.sealFails core = true := (s.sealFails_iff core).symm
  refine ⟨fun hn => ?_, fun hh hs => ?_, fun hh hs hw => ?_, fun hh hs hrun ht hi hi' => ?_⟩
  · exact execCoreRemoval_unused hl ((Core.unused_iff _).mpr hn)
  · exact execCoreRemoval_late hl ((hu core).mp hh) (hlate.mp hs)
  · rw [hc h] at hw
    exact execCoreRemoval_waits hl ((hu core).mp hh) (Bool.eq_false_iff.mpr (mt hlate.mpr hs)) hw
  · have hm : s.movable core h := ⟨hl, (hu core).mp hh, hs, (s.runClear_eq_false_iff h).mpr hrun, ht, hi, hi'⟩
    refine ⟨execCoreRemoval_freezesHost hm, execCoreRemoval_awaitsHost hm, fun hf hsl => ?_⟩
    obtain ⟨t, he, hmap, hf', hr', hd⟩ := execCoreRemoval_takesOver hm hf hsl
    refine ⟨t, he, hmap, hf', hr'.trans hr, fun hh' => ?_, fun hn => ?_⟩
    · rw [hd, (hu h).mp hh']; rfl
    · rw [hd, if_pos ((Core.unused_iff _).mpr hn)]

/-! Power and heat (R20, R275). -/

theorem execPowerSample_eq (s : State) (watts : Nat) : execPowerSample watts s = .next { s with
    powerHigh := (if 3200 < watts then true else s.powerHigh), powerLow := (if watts < 3100 then s.powerLow + 1 else 0)
    powerFrom := if s.powerHigh = false ∧ 3200 < watts then s.time else s.powerFrom } := by
  have hh : (s.powerHigh || decide (3200 < watts)) = if 3200 < watts then true else s.powerHigh := by
    split <;> simp [*]
  have hf : ((!s.powerHigh && decide (3200 < watts)) = true) = (s.powerHigh = false ∧ 3200 < watts) := by simp
  simp only [execPowerSample, hh, hf]

theorem State.throttled_iff {s : State} {core : Nat} {t : Track} {n : Nat} (h : t.issuedAt = some n) (hc : (s.die (core / 128)).cap ≠ 1) :
    s.throttled core t = true ↔ s.powerHigh = true ∧ s.powerFrom < s.time ∧ s.time < n + 2 := by
  simp [State.throttled, h, dieOf, hc, and_assoc]

theorem execPowerThrottleLift_lifts {s : State} (h : 100 ≤ s.powerLow) : execPowerThrottleLift s = .next { s with powerHigh := false } := by
  rw [execPowerThrottleLift, if_pos h]

theorem execPowerThrottleLift_holds {s : State} (h : s.powerLow < 100) : execPowerThrottleLift s = .next s := by
  rw [execPowerThrottleLift, if_neg (Nat.not_le_of_lt h)]

theorem execThermalSense_leaves (s : State) (die degrees : Nat) : ∃ t, execThermalSense die degrees s = .next t ∧ (t.die die).degrees = degrees ∧
    (t.die die).cap = (if 105 < degrees then 1 else if 95 < degrees then min (s.die die).cap 4 else (s.die die).cap) ∧
    t.visible = s.visible ∧ ∀ d, d ≠ die → t.die d = s.die d := by
  refine ⟨_, rfl, ?_, ?_, rfl, fun d hd => ?_⟩
  · rw [State.die_modDie, if_pos rfl]
  · rw [State.die_modDie, if_pos rfl]
  · rw [State.die_modDie, if_neg hd]

theorem execThermalCapLift_cap (s : State) (die : Nat) :
    let d := s.die die
    let cool90 := d.degrees < 90 ∧ d.warmAt + 1250000 ≤ s.time
    let cool95 := d.degrees < 95 ∧ d.hotAt + 1250000 ≤ s.time
    ∃ t : State, execThermalCapLift die s = .next t ∧ (t.die die).cap = if cool90 then 8 else if d.cap = 1 ∧ cool95 then 4 else d.cap := by
  refine ⟨_, rfl, ?_⟩
  rw [State.die_modDie, if_pos rfl]
  simp only [Bool.and_eq_true, decide_eq_true_eq, apply_ite Die.cap]
  rfl

theorem execThermalTrip_stops {s : State} {die : Nat} (h : 110 < (s.die die).degrees) : ∃ t : State, execThermalTrip die s = .next t ∧
    t.tripped = true ∧ t.reports = s.reports ++ [.thermal die] ∧ (∀ c, c < 512 → (t.core c).frozen = true) ∧ ∀ x, t.byte x = s.byte x := by
  rw [execThermalTrip, if_pos h]
  have hf := s.freezeAll_frozen (List.range 512)
  have hb := s.freezeAll_byte (List.range 512)
  generalize s.freezeAll (List.range 512) = t at hf hb ⊢
  refine ⟨_, rfl, rfl, rfl, fun c hc => ?_, hb⟩
  have hm : decide (c ∈ List.range 512) = true := decide_eq_true (List.mem_range.mpr hc)
  exact (hf c).trans (by rw [hm, Bool.true_or])

theorem execThermalTrip_cool {s : State} {die : Nat} (h : (s.die die).degrees ≤ 110) : execThermalTrip die s = .next s := by
  rw [execThermalTrip, if_neg (Nat.not_lt_of_le h)]

/-! Module reset (R273 step 1). -/

theorem execModuleReset_leaves (s : State) : ∃ t : State, execModuleReset s = .next t ∧ t.cores = State.reset.cores ∧ t.dies = State.reset.dies ∧
    t.launches = [] ∧ t.ready = [] ∧ t.lq = State.reset.lq ∧ t.tripped = false ∧ t.booted = false ∧
    ∀ a, t.byte a = if 0x400000000 ≤ a ∧ a < 0x420000000 then 0 else mget 0 (State.reset.loc a) (s.mem.filter fun e => !inPool e.1) := by
  refine ⟨_, rfl, rfl, rfl, rfl, rfl, rfl, rfl, rfl, fun a => ?_⟩
  rw [State.byte, State.loc_congr (t := { State.reset with
    cur := s.cur, schedule := s.schedule, tick := s.tick, nextId := s.nextId, images := s.images, imageSeq := s.imageSeq
    mem := s.mem.filter fun e => !inPool e.1, poison := s.poison.filter fun e => !inPool (e.1 * 64) }) (s := State.reset) rfl]
  split
  · rename_i hp
    rw [State.loc_of_not_sync _ _ (.inl (by omega))]
    exact mget_filter_of_dropped 0 (fun _ => by simp [inPool_eq, hp]) _
  · rfl

/-! Errors and the tests of units (R280, R281). -/

theorem execErrorReport_memoryLine {s : State} {pa : Nat} {corrected : Bool} (h : UnitName.memoryLine pa ∉ s.testing) :
    let told := { s with reports := s.reports ++ [Report.error (.memoryLine pa) corrected] }
    execErrorReport (.memoryLine pa) corrected s = .next (if corrected = true then told else told.setPoison pa true) := by
  cases corrected <;> simp [execErrorReport, State.reportError, State.setPoison, State.stewardTest, State.testHeld, h]

theorem execErrorReport_ethernet_begins {s : State} {port : Nat} {corrected : Bool} (h : UnitName.ethernet port ∉ s.testing) :
    let told := { s with reports := s.reports ++ [Report.error (.ethernet port) corrected] }
    execErrorReport (.ethernet port) corrected s =
      .next (if s.testHeld (.ethernet port) = true then told else { told with testing := s.testing ++ [.ethernet port] }) := by
  have ht : State.testHeld (s.reportError (.ethernet port) corrected) (.ethernet port) = s.testHeld (.ethernet port) := rfl
  have hc : (s.reportError (.ethernet port) corrected).testing.contains (.ethernet port) = false := by simpa [State.reportError] using h
  simp only [execErrorReport, hc, State.stewardTest, ht]
  cases s.testHeld (.ethernet port) <;> rfl

theorem execErrorReport_ethernet_fails {s : State} {port : Nat} {corrected : Bool} (h : UnitName.ethernet port ∈ s.testing) :
    let told := { s with reports := s.reports ++ [Report.error (.ethernet port) corrected] }
    execErrorReport (.ethernet port) corrected s =
      .next { told with testing := s.testing.erase (.ethernet port), ethDown := insertNat port s.ethDown } := by
  have hc : (s.reportError (.ethernet port) corrected).testing.contains (.ethernet port) = true := by simpa [State.reportError] using h
  simp only [execErrorReport, hc, if_true]
  rfl

/-- Every steward's firmware is stopped, so no unit of the package is tested (R274). -/
theorem State.testHeld_ethernet_iff (s : State) (port : Nat) :
    s.testHeld (.ethernet port) = true ↔ ∀ d, d < 4 → (s.stew d 0).toNat % 2 = 0 := by
  have hd : ∀ d, s.runClear (128 * d) = true ↔ (s.stew d 0).toNat % 2 = 0 := fun d => by
    rw [State.runClear_iff, Nat.mul_div_cancel_left d (by decide)]; omega
  simp [State.testHeld, span, hd]

theorem execTargetedUnitTest_stays {s : State} {u : UnitName} (pass : Bool) (h : u ∉ s.testing ∨ s.testHeld u = true) :
    execTargetedUnitTest u pass s = .next s := by
  rw [execTargetedUnitTest, if_pos]
  simpa using h

theorem execTargetedUnitTest_ends {s : State} {u : UnitName} (pass : Bool) (h : u ∈ s.testing) (hh : s.testHeld u = false) :
    execTargetedUnitTest u pass s = .next (if pass = true then s.unitPasses u else s.unitFails u) := by
  rw [execTargetedUnitTest, if_neg]
  simp [h, hh]

theorem execTargetedUnitTest_cxl {s : State} {port : Nat} (pass : Bool) (h : UnitName.cxl port ∈ s.testing) (hh : s.testHeld (.cxl port) = false) :
    execTargetedUnitTest (.cxl port) pass s =
      .next { s with testing := s.testing.erase (.cxl port), cxlDown := (if pass = true then s.cxlDown else insertNat port s.cxlDown) } := by
  rw [execTargetedUnitTest_ends pass h hh]
  cases pass <;> rfl

/-- A pool bank that fails its test is out of service; with a second one its core is (R281). -/
theorem State.unitFails_poolBank (s : State) (core bank : Nat) :
    let t := s.unitFails (.poolBank core bank)
    (t.core core).banksFailed = insertNat bank (s.core core).banksFailed ∧
      ((t.core core).removed = true ↔ (s.core core).removed = true ∨ 2 ≤ (t.core core).banksFailed.length) := by
  intro t
  obtain ⟨u, hu⟩ : ∃ u : State, u = State.modCore { s with testing := s.testing.erase (.poolBank core bank) } core fun k =>
    { k with banksFailed := insertNat bank k.banksFailed } := ⟨_, rfl⟩
  have ht : t = if 2 ≤ (u.core core).banksFailed.length then u.takeOut core else u := hu ▸ rfl
  have hb : (u.core core).banksFailed = insertNat bank (s.core core).banksFailed := by rw [hu, State.core_modCore_same]; rfl
  have hr : (u.core core).removed = (s.core core).removed := by rw [hu, State.core_modCore_same]; rfl
  rw [ht]
  by_cases h2 : 2 ≤ (u.core core).banksFailed.length
  · obtain ⟨hro, hbo⟩ := u.core_takeOut core
    rw [if_pos h2, hro, hbo]
    exact ⟨hb, by simp [h2]⟩
  · rw [if_neg h2, hr]
    exact ⟨hb, by simp [h2]⟩

theorem execTargetedUnitTest_poolBank {s : State} {core bank : Nat} (pass : Bool) (h : UnitName.poolBank core bank ∈ s.testing)
    (hr : (s.stew (core / 128) 0).toNat % 2 = 1) : ∃ t : State, execTargetedUnitTest (.poolBank core bank) pass s = .next t ∧
      (t.core core).banksFailed = (if pass = true then (s.core core).banksFailed else insertNat bank (s.core core).banksFailed) ∧
      ((t.core core).removed = true ↔ (s.core core).removed = true ∨ (pass = false ∧ 2 ≤ (t.core core).banksFailed.length)) := by
  refine ⟨_, execTargetedUnitTest_ends pass h ((s.runClear_eq_false_iff core).mpr hr), ?_⟩
  cases pass with
  | true => exact ⟨rfl, by simp [State.unitPasses, State.core]⟩
  | false => simpa using s.unitFails_poolBank core bank

/-- Settles O51, clause by clause: the first part holds of each event alone; for the second, the host that is searched for is the one of the
statement, and the host that takes over goes on from an image that the saves before it have kept (`State.takesOver_leaves`). -/
theorem powerErrorsAndRemoval : Obligations.PowerErrorsAndRemoval := by
  refine ⟨fun s watts die degrees port pa core bank u corrected pass => ?_, fun s core h => ?_⟩
  · refine ⟨execPowerSample_eq s watts, fun t n => State.throttled_iff, execPowerThrottleLift_lifts, execPowerThrottleLift_holds,
      execThermalSense_leaves s die degrees, execThermalCapLift_cap s die, ⟨execThermalTrip_cool, execThermalTrip_stops⟩,
      execModuleReset_leaves s, ⟨_, rfl, rfl⟩, rfl, execErrorReport_memoryLine, ⟨execErrorReport_ethernet_begins, execErrorReport_ethernet_fails⟩,
      ⟨_, rfl⟩, (s.testHeld_ethernet_iff port).symm, execTargetedUnitTest_stays pass, execTargetedUnitTest_cxl pass,
      execTargetedUnitTest_poolBank pass, ?_⟩
    obtain ⟨t, he, htime, hready, hcores, hdies⟩ := execClockCycle_counts s
    exact ⟨t, he, htime, hready, hcores, fun d _ => hdies d⟩
  · intro k serves first none_ cl d host move runs holds late
    refine ⟨execCoreRemoval_stays, fun hr ht hf hm => execCoreRemoval_mapped ⟨hr, ht, hf⟩ hm, fun hr ht hf hm => ⟨fun h₁ h₂ h₃ => ?_, ?_⟩⟩
    · exact execCoreRemoval_noHost ⟨hr, ht, hf⟩ hm (State.hostFor_eq_none h₁ h₂ h₃)
    · have hl : host → s.leaving core h := fun hh => ⟨⟨hr, ht, hf⟩, hm, State.hostFor_eq_some hh⟩
      have hmoves := fun hh : host => execCoreRemoval_moves s core h (hl hh) (State.removed_of_isHost hh)
      refine ⟨fun hh => ?_, fun hh => ?_, fun hh => ?_, fun hh => ?_⟩ <;> obtain ⟨hunused, hlate, hwaits, htakes⟩ := hmoves hh
      · exact hunused
      · exact hlate
      · exact hwaits
      · exact htakes

end Sys2Proof.Machine
end

section
/-! Words that the spec writes out (O54). -/
namespace Sys2Proof
-- one proof after another: in the package as one text every proof under way holds a thread of its own
set_option Elab.async false

/-- R325: a primary that is not allocated holds no instruction, whatever the other bits are. -/
theorem decodeWords_reservedPrimary {w0 : Nat} (w1 : Nat) (h : primaryUsed (w0 / 67108864 % 64) = false) :
    decodeWords w0 w1 = .error (.reservedPrimary (w0 / 67108864 % 64)) := by
  simp [decodeWords, h]

/-- Settles O54: the decoder computes on each word that the spec writes out; every word below 0x04000000 has primary 0, which R325 does not
allocate. -/
theorem referenceWordsDecode : Obligations.ReferenceWordsDecode := by
  refine ⟨rfl, rfl, rfl, rfl, rfl, rfl, rfl, rfl, rfl, rfl, rfl, rfl, rfl, rfl, rfl, rfl, rfl, fun w hw => ?_,
    ⟨_, rfl⟩, ⟨_, rfl⟩, ⟨_, rfl⟩, ⟨_, rfl⟩, ⟨_, rfl⟩, ⟨_, rfl⟩⟩
  have hp : w / 67108864 = 0 := Nat.div_eq_of_lt hw
  exact ⟨_, decodeWords_reservedPrimary 0 (by rw [hp]; rfl)⟩

end Sys2Proof
end

section
/-! Vector length and lanes (O16). -/
namespace Sys2Proof.Machine
-- one proof after another: in the package as one text every proof under way holds a thread of its own
set_option Elab.async false

/-- Adding up with one place left out is adding up over the other places. -/
theorem foldl_skip_eq_foldl_filter (f : Nat → Nat) (n : Nat) (l : List Nat) (a : Nat) :
    l.foldl (fun a t => if t = n then a else a + f t) a = (l.filter (· ≠ n)).foldl (fun a t => a + f t) a := by
  induction l generalizing a with
  | nil => rfl
  | cons t l ih => by_cases h : t = n <;> simp [h, ih]

theorem Core.othersHold_eq (k : Core) (n : Nat) :
    k.othersHold n = ((List.range 4).filter (· ≠ n)).foldl (fun a u => a + (k.track u).held) 0 :=
  foldl_skip_eq_foldl_filter (fun u => (k.track u).held) n (span 0 4) 0

theorem laneValid_iff (w : Nat) :
    laneValid w = true ↔ w % 16 + w / 16 % 16 + w / 256 % 16 + w / 4096 % 16 ≤ 8 ∧ w < 2 ^ 17 := by
  simp [laneValid, Nat.div_eq_zero_iff]

theorem laneValid_eq_false_iff (w : Nat) :
    laneValid w = false ↔ 8 < w % 16 + w / 16 % 16 + w / 256 % 16 + w / 4096 % 16 ∨ 2 ^ 17 ≤ w := by
  rw [← Bool.not_eq_true, laneValid_iff]; omega

/-- Who may not write the lane word (R57). -/
theorem lanesBarred_iff (t : Track) (w : Nat) : (!t.super && !bitAt w 16) = true ↔ ¬(t.super = true ∨ w / 65536 % 2 = 1) := by
  cases t.super <;> simp [bitAt]

/-- SETVL and SETVL.ADV complete with the grant (R59). -/
theorem execSetvl_completes {s s1 : State} {d a : Reg} {adv : Bool} (h : s.entered (if adv then .setvlAdv d a else .setvl d a) = some s1) :
    Completes s (if adv then .setvlAdv d a else .setvl d a) (s1.setVl d a adv) := by
  cases adv
  case false => refine perform_completes h ?_ (exec_setvl d a s); rfl
  case true => refine perform_completes h ?_ (exec_setvlAdv d a s); rfl

/-! LANES, by the order of its checks (R60, R388). -/
section
variable {s s1 : State} {d a : Reg} (h : s.entered (.lanes d a) = some s1)
include h

theorem execLanes_barred (hp : (!s1.me.super && !bitAt s1.myCore.lane 16) = true) : Faults s (.lanes d a) s1 .priv 0 0 := by
  refine perform_faulty h ?_ (exec_lanes d a s)
  exact if_pos hp

theorem execLanes_invalid (hp : ¬(!s1.me.super && !bitAt s1.myCore.lane 16) = true) (hv : laneValid (s1.x a).toNat = false) :
    Faults s (.lanes d a) s1 .illegal 0 0 := by
  refine perform_faulty h ?_ (exec_lanes d a s)
  exact (if_neg hp).trans (if_pos (by rw [hv]; rfl))

theorem execLanes_completes (hp : ¬(!s1.me.super && !bitAt s1.myCore.lane 16) = true) (hv : laneValid (s1.x a).toNat = true) :
    Completes s (.lanes d a) ((s1.modMyCore fun k => { k with lane := (s1.x a).toNat }).setX d (BitVec.ofNat 64 s1.myCore.lane)) := by
  refine perform_completes h ?_ (exec_lanes d a s)
  exact (if_neg hp).trans (if_neg (by rw [hv]; decide))

end

/-- Settles O16: `Core.othersHold` is the sum over the other tracks, and the checks of LANES are the statement's. -/
theorem vectorLength : Obligations.VectorLength := by
  refine ⟨fun s s1 d a adv he => ?_, fun s s1 d a he => ?_⟩
  · have hc := execSetvl_completes he
    simp only [State.setVl, Core.othersHold_eq] at hc
    exact hc
  · refine ⟨fun hp => ?_, fun hp hw => ?_, fun hp hs hw => ?_⟩
    · exact execLanes_barred he ((lanesBarred_iff _ _).mpr hp)
    · exact execLanes_invalid he (mt (lanesBarred_iff _ _).mp (not_not_intro hp)) ((laneValid_eq_false_iff _).mpr hw)
    · exact execLanes_completes he (mt (lanesBarred_iff _ _).mp (not_not_intro hp)) ((laneValid_iff _).mpr ⟨hs, hw⟩)

end Sys2Proof.Machine
end

section
/-! What changes no track: the decoding of the pool's codewords, translation, and the charges of an instruction that issues. -/
namespace Sys2Proof.Machine
-- one proof after another: in the package as one text every proof under way holds a thread of its own
set_option Elab.async false

theorem SameTracks.modDie (s : State) (d : Nat) (f : Die → Die) : SameTracks s (s.modDie d f) := ⟨rfl, fun _ _ => rfl⟩

theorem SameTracks.modCluster (s : State) (n : Nat) (f : Cluster → Cluster) : SameTracks s (s.modCluster n f) := ⟨rfl, fun _ _ => rfl⟩

theorem SameTracks.reportError (s : State) (u : UnitName) (b : Bool) : SameTracks s (s.reportError u b) := ⟨rfl, fun _ _ => rfl⟩

theorem SameTracks.ite {s t u : State} {p : Prop} [Decidable p] (ht : SameTracks s t) (hu : SameTracks s u) :
    SameTracks s (if p then t else u) := by
  split
  · exact ht
  · exact hu

/-! Codewords and translation. -/

theorem SameTracks.settleByte (s : State) (core off : Nat) : SameTracks s (s.settleByte core off) := by
  unfold State.settleByte
  dsimp only
  split
  · exact SameTracks.rfl' s
  · refine (SameTracks.modCore s core (f := fun k => { k with upsets := mdel (off / 64 * 4 + off % 4) k.upsets }) rfl).trans ?_
    split
    · exact ⟨rfl, fun _ _ => rfl⟩
    · exact (SameTracks.foldl (fun s _ => SameTracks.setByte s _ _) _ _).trans
        (SameTracks.foldl (fun s _ => SameTracks.reportError s _ _) _ _)

theorem SameTracks.settle (s : State) (pa size : Nat) : SameTracks s (s.settle pa size) := by
  unfold State.settle
  split
  · exact SameTracks.ite (SameTracks.rfl' s) (SameTracks.foldl (fun s _ => SameTracks.settleByte s _ _) _ _)
  · exact SameTracks.rfl' s

theorem SameTracks.missed (s : State) (w : Who) (va : Nat) (b : Bool) : SameTracks s (s.missed w va b) :=
  SameTracks.ite (SameTracks.rfl' s) (SameTracks.modCore _ _ (Core.count_tracks _ _ _))

theorem SameTracks.cacheLeaf (s : State) (w : Who) (va : Nat) (e : Word) (level at_ : Nat) (seen : List TlbEntry) :
    SameTracks s (s.cacheLeaf w va e level at_ seen) := by
  unfold State.cacheLeaf
  refine SameTracks.trans (SameTracks.trans (SameTracks.ite (SameTracks.rfl' s) (SameTracks.modCore _ _ rfl))
    (SameTracks.ite (SameTracks.rfl' _) (SameTracks.modCluster _ _ _))) (SameTracks.modDie _ _ _)

theorem SameTracks.walk (s : State) (w : Who) (va : Nat) (k : AccKind) : SameTracks s (s.walk w va k).after := by
  have hc : SameTracks s (if w.apart then s else s.modCore w.core (·.count 0x21 1)) :=
    SameTracks.ite (SameTracks.rfl' s) (SameTracks.modCore _ _ (Core.count_tracks _ _ _))
  unfold State.walk
  dsimp only
  generalize (if w.apart then s else s.modCore w.core (·.count 0x21 1)) = u at hc ⊢
  split
  · rw [Found.after_fault]
    exact hc.trans (SameTracks.modDie _ _ _)
  · split
    · exact hc
    · rw [Found.after_ite, Found.after_fault, Found.after_ok, ite_self]
      exact (hc.trans (SameTracks.ite (SameTracks.rfl' _) (SameTracks.setBytes _ _ _ _))).trans (SameTracks.cacheLeaf _ _ _ _ _ _ _)

theorem SameTracks.translate (s : State) (w : Who) (va : Nat) (k : AccKind) : SameTracks s (s.translate w va k).after := by
  have hm := SameTracks.missed s w va k.writes
  unfold State.translate
  split
  · exact SameTracks.rfl' s
  · dsimp only
    split
    · split
      · exact hm
      · exact hm
    · exact hm.trans (SameTracks.walk _ _ _ _)

/-- Finding the place of an access changes no track. -/
theorem SameTracks.find (s : State) (w : Who) (va : Nat) (k : AccKind) : SameTracks s (s.find w va k).after := by
  unfold State.find
  split
  · exact SameTracks.rfl' s
  · split
    · exact SameTracks.translate _ _ _ _
    · split
      · exact SameTracks.rfl' s
      · split
        · exact SameTracks.rfl' s
        · exact SameTracks.rfl' s

theorem SameTracks.find_ok {s t : State} {w : Who} {va pa : Nat} {k : AccKind} (h : s.find w va k = .ok pa t) : SameTracks s t := by
  have hf := SameTracks.find s w va k
  rwa [h] at hf

/-! Charges. -/

theorem SameTracks.countEvent (s : State) (c code n : Nat) : SameTracks s (s.countEvent c code n) :=
  SameTracks.modCore s c (Core.count_tracks _ _ _)

theorem SameTracks.charge (s : State) (c pj : Nat) : SameTracks s (s.charge c pj) := SameTracks.modCore s c rfl

theorem SameTracks.chargeIssue (s : State) (i : Instr) (vl : Nat) : SameTracks s (s.chargeIssue i vl) := by
  have h := SameTracks.countEvent s s.cur.1 0x03 (groupsOf i vl)
  unfold State.chargeIssue
  cases energyClassOf i
  case zero => exact h.trans (SameTracks.charge _ _ _)
  case vector => exact h.trans (SameTracks.charge _ _ _)
  case bytes => exact h
  case sync => exact h.trans (SameTracks.charge _ _ _)
  case own => exact h

/-- The charges of an instruction that issues change no track. -/
theorem SameTracks.noteIssued (s : State) (i : Instr) (vl : Nat) (pc : Word) : SameTracks s (s.noteIssued i vl pc) :=
  SameTracks.ite (SameTracks.rfl' s)
    (((SameTracks.chargeIssue s i vl).trans (SameTracks.modCore _ _ rfl)).trans (SameTracks.countEvent _ _ _ _))

end Sys2Proof.Machine
end

section
/-! A track's turn, and the fetch of its next instruction (O57). -/
namespace Sys2Proof.Machine
-- one proof after another: in the package as one text every proof under way holds a thread of its own
set_option Elab.async false

/-! What a step comes to. -/

theorem step_of_run {s u : State} {i : Instr} (h : s.nextUp = .run i u) : step s = exec i u := by
  unfold step; rw [h]

theorem step_of_ended {s u : State} (h : s.nextUp = .ended u) : step s = .next u := by
  unfold step; rw [h]

/-- The state in which a track's turn begins. -/
def State.turnOf (s : State) (c n : Nat) (slow : Bool) (rest : List Act) : State := { s with schedule := rest, cur := (c, n), slow := slow }

/-- What the current track's turn comes to. -/
def State.turn (s : State) : Next := s.issue s.cur.1 s.cur.2 s.slow

theorem State.nextUp_issue {s : State} {c n : Nat} {slow : Bool} {rest : List Act}
    (h : s.schedule = (if slow then .issueSlow c n else .issue c n) :: rest) : s.nextUp = (s.turnOf c n slow rest).turn := by
  unfold State.nextUp
  cases slow <;> rw [h] <;> rfl

/-- Nothing stands before the current track's next instruction, or the one it waits in: it may issue, it owes no action, no halt is requested,
and no record is to be delivered. -/
structure State.mayIssue (s : State) : Prop where
  can : canIssue s.myCore s.me = true
  throttled : s.throttled s.cur.1 s.me = false
  owed : s.me.owed = none
  haltReq : s.me.haltReq = false
  record : s.waitRecord s.cur.1 s.cur.2 = none

theorem canIssue_iff (k : Core) (t : Track) :
    canIssue k t = true ↔ k.frozen = false ∧ t.trip.isSome = true ∧ t.escalated = false ∧ t.halted = false := by
  simp [canIssue, and_assoc]

section
variable {s : State} (h : s.mayIssue)
include h

/-- A track that waits. -/
theorem State.turn_of_wait {w : Wait} (hw : s.me.wait = some w) :
    s.turn = if w.again then .run (.vwaitReevaluate s.cur.1 s.cur.2 0) s else if w.kind.byEvent then .ended s else .run w.instr s := by
  obtain ⟨hc, ht, ho, hh, hr⟩ := h
  simp only [State.turn, State.issue, hc, ht, ho, hh, hr, hw, Bool.not_true, Bool.false_and, Bool.or_self, Option.isSome_none,
    Bool.false_eq_true, if_false]

/-- A track that does not wait, with no strip to close, no record due at the boundary and no breakpoint. -/
theorem State.turn_of_fetch (hw : s.me.wait = none) (hb : s.me.strip.isOpen = true ∨ s.boundary = none) (ha : s.me.strip.alone = false)
    (hcl : s.me.strip.closing = false) (hk : breakHits s.myCore s.me = []) : s.turn = s.fetch := by
  obtain ⟨hc, ht, ho, hh, hr⟩ := h
  have hbd : (if s.me.strip.isOpen = true then none else s.boundary) = none := ite_eq_left_iff.mpr fun hn => hb.resolve_left hn
  simp only [State.turn, State.issue, hc, ht, ho, hh, hr, hw, hbd, ha, hcl, hk, Bool.not_true, Bool.false_and, Bool.or_self,
    Option.isSome_none, Bool.false_eq_true, if_false, List.isEmpty_nil, if_true]

end

/-! Fetching and decoding. -/

/-- The address of a second word wraps around (R315). -/
theorem wrap_natCast_add_four (a : Nat) : wrap (a + 4) = (a + 4) % 2 ^ 64 := by
  unfold wrap; omega

/-- The state that a fault of the fetch leaves. -/
def State.fetchFaults (s : State) (x : Cause) (a : Nat) : State :=
  (s.syncFault { cause := x, addr := BitVec.ofNat 64 a }).endStepWith []

/-- What the words of an instruction come to: one that starts, or ILLEGAL (R335). -/
def State.decoded (s : State) (w0 w1 : Nat) : Next :=
  match decodeWords w0 w1 with
  | .ok i => s.start i
  | .error _ => .ended (s.fetchFaults .illegal 0)

section
variable {s u : State}

theorem State.fetch_fault {x : Cause} (h : s.fetchWord s.me.pc.toNat = .fault x u) : s.fetch = .ended (u.fetchFaults x s.me.pc.toNat) := by
  simp only [State.fetch, State.fetchFaults, h]

theorem State.fetch_later (h : s.fetchWord s.me.pc.toNat = .later u) : s.fetch = .ended u := by
  simp only [State.fetch, h]

theorem State.fetch_short {w0 : Nat} (h : s.fetchWord s.me.pc.toNat = .word w0 u) (hl : isLong w0 = false) : s.fetch = u.decoded w0 0 := by
  simp only [State.fetch, h, hl, Bool.false_eq_true, if_false]
  rfl

variable {v : State} {w0 : Nat} (h : s.fetchWord s.me.pc.toNat = .word w0 u) (hl : isLong w0 = true)
include h hl

theorem State.fetch_secondFault {x : Cause} (h' : u.fetchWord ((s.me.pc.toNat + 4) % 2 ^ 64) = .fault x v) :
    s.fetch = .ended (v.fetchFaults x ((s.me.pc.toNat + 4) % 2 ^ 64)) := by
  simp only [State.fetch, State.fetchFaults, wrap_natCast_add_four, h, hl, h', if_true]

theorem State.fetch_secondLater (h' : u.fetchWord ((s.me.pc.toNat + 4) % 2 ^ 64) = .later v) : s.fetch = .ended v := by
  simp only [State.fetch, wrap_natCast_add_four, h, hl, h', if_true]

theorem State.fetch_long {w1 : Nat} (h' : u.fetchWord ((s.me.pc.toNat + 4) % 2 ^ 64) = .word w1 v) : s.fetch = v.decoded w0 w1 := by
  simp only [State.fetch, wrap_natCast_add_four, h, hl, h', if_true]
  rfl

end

/-- A track waits for a load where its next instruction names the register: a load that no debugger's write has made up for, into a register
that is not x0. -/
theorem Track.awaitsLoad_iff (t : Track) (i : Instr) :
    t.awaitsLoad i = true ↔ ∃ p, p ∈ t.pending ∧ p.cancelled = false ∧ p.reg ≠ 0 ∧ p.reg ∈ instrRegs i := by
  simp [Track.awaitsLoad, and_assoc]

theorem State.decoded_ok {s : State} {w0 w1 : Nat} {i : Instr} (h : decodeWords w0 w1 = .ok i) : s.decoded w0 w1 = s.start i := by
  unfold State.decoded; rw [h]

theorem State.decoded_error {s : State} {w0 w1 : Nat} {e : DecodeError} (h : decodeWords w0 w1 = .error e) :
    s.decoded w0 w1 = .ended (s.fetchFaults .illegal 0) := by
  unfold State.decoded; rw [h]

/-- The step runs what the words decode to, or waits for a load; words that are no instruction are ILLEGAL. -/
theorem step_of_decoded {s u : State} {w0 w1 : Nat} (h : s.nextUp = u.decoded w0 w1) :
    (∀ i, decodeWords w0 w1 = .ok i →
      ((∃ p, p ∈ u.me.pending ∧ p.cancelled = false ∧ p.reg ≠ 0 ∧ p.reg ∈ instrRegs i) → step s = .next u) ∧
      ((¬∃ p, p ∈ u.me.pending ∧ p.cancelled = false ∧ p.reg ≠ 0 ∧ p.reg ∈ instrRegs i) →
        step s = exec i (u.asked u.cur.1 (24 + u.cur.2)).issuing)) ∧
    ∀ e, decodeWords w0 w1 = .error e → step s = .next (u.fetchFaults .illegal 0) := by
  refine ⟨fun i hi => ?_, fun e he => step_of_ended (h.trans (State.decoded_error he))⟩
  rw [State.decoded_ok hi, State.start] at h
  rw [← Track.awaitsLoad_iff]
  exact ⟨fun hn => step_of_ended (h.trans (if_pos hn)), fun hn => step_of_run (h.trans (if_neg hn))⟩

/-! Fetching a word, once its place is found (R316, R336). -/
section
variable {s t : State} {va pa : Nat} (hw : s.walkHeld s.who va .fetch = false) (hf : s.find s.who va .fetch = .ok pa t)
include hw hf

theorem State.fetchWord_linkDown (hl : (t.settle pa 4).linkDown pa = true) : s.fetchWord va = .fault .linkDown (t.settle pa 4) := by
  simp only [State.fetchWord, hw, hf, hl, Bool.false_eq_true, if_false, if_true]

variable (hl : (t.settle pa 4).linkDown pa = false)
include hl

theorem State.fetchWord_underTest (hu : (t.settle pa 4).underTest (dieOf s.cur.1) pa = true) : s.fetchWord va = .later (t.settle pa 4) := by
  rw [← ((SameTracks.find_ok hf).trans (SameTracks.settle t pa 4)).cur] at hu
  simp only [State.fetchWord, hw, hf, hl, hu, Bool.false_eq_true, if_false, if_true]

variable (hu : (t.settle pa 4).underTest (dieOf s.cur.1) pa = false)
include hu

theorem State.fetchWord_poisoned (hp : (t.settle pa 4).poisoned pa = true) : s.fetchWord va = .fault .poison (t.settle pa 4) := by
  rw [← ((SameTracks.find_ok hf).trans (SameTracks.settle t pa 4)).cur] at hu
  simp only [State.fetchWord, hw, hf, hl, hu, hp, Bool.false_eq_true, if_false, if_true]

theorem State.fetchWord_here (hp : (t.settle pa 4).poisoned pa = false) (hr : ∀ slot o, area pa ≠ .remote slot o) :
    s.fetchWord va = .word ((t.settle pa 4).bytes pa 4) (t.settle pa 4) := by
  rw [← ((SameTracks.find_ok hf).trans (SameTracks.settle t pa 4)).cur] at hu
  -- that the word is not another node's (`hr`) is what the catch-all arm on `area` asks for
  simp only [State.fetchWord, hw, hf, hl, hu, hp, Bool.false_eq_true, if_false]

end

/-! The step. -/

/-- Settles O57: a turn with nothing before it goes on with the wait or with the fetch, and what is fetched decides how the step ends. -/
theorem stepRunsTheDecodedInstruction : Obligations.StepRunsTheDecodedInstruction := by
  intro s c n slow rest hs s0 t hfrozen htrip hesc hhalt hthr howed hreq hrec
  have hm : s0.mayIssue := ⟨by rw [canIssue_iff]; exact ⟨hfrozen, htrip, hesc, hhalt⟩, hthr, howed, hreq, hrec⟩
  have hn : s.nextUp = s0.turn := State.nextUp_issue hs
  refine ⟨fun w hw => ?_, fun hw hb ha hcl hk => ?_, fun u => rfl, fun u v va pa hh hf => ?_⟩
  · rw [State.turn_of_wait hm hw] at hn
    refine ⟨fun h => ?_, fun h => ⟨fun h' => ?_, fun h' => ?_⟩⟩
    · exact step_of_run (hn.trans (if_pos h))
    · exact step_of_run (hn.trans ((if_neg (by simp [h])).trans (if_neg (by simp [h']))))
    · exact step_of_ended (hn.trans ((if_neg (by simp [h])).trans (if_pos h')))
  · rw [State.turn_of_fetch hm hw hb ha hcl hk] at hn
    refine ⟨fun x u hx => ?_, fun u hx => ?_, fun w0 u hx =>
      ⟨fun hl => ?_, fun hl => ⟨fun x v hy => ?_, fun v hy => ?_, fun w1 v hy => ?_⟩⟩⟩
    · exact step_of_ended (hn.trans (State.fetch_fault hx))
    · exact step_of_ended (hn.trans (State.fetch_later hx))
    · exact step_of_decoded (hn.trans (State.fetch_short hx hl))
    · exact step_of_ended (hn.trans (State.fetch_secondFault hx hl hy))
    · exact step_of_ended (hn.trans (State.fetch_secondLater hx hl hy))
    · exact step_of_decoded (hn.trans (State.fetch_long hx hl hy))
  · intro r
    refine ⟨fun hl => State.fetchWord_linkDown hh hf hl, fun hl hu => State.fetchWord_underTest hh hf hl hu, fun hl hu => ⟨?_, ?_⟩⟩
    · exact fun hp => State.fetchWord_poisoned hh hf hl hu hp
    · exact fun hp hr => State.fetchWord_here hh hf hl hu hp hr

end Sys2Proof.Machine
end

section
/-! Crossings: whose turn it is, what a post and a take leave, and a wait that goes on (O30). -/
namespace Sys2Proof.Machine
-- one proof after another: in the package as one text every proof under way holds a thread of its own
set_option Elab.async false

/-! Whose turn it is (R77). -/

/-- Every other track of the core that waits for the reason at the object waits in a wait of which `f` holds. -/
def State.othersAt (s : State) (k : WaitKind) (obj : Nat) (f : Wait → Prop) : Prop :=
  ∀ n t, (n, t) ∈ s.myCore.tracks → n ≠ s.cur.2 → ∀ w, t.wait = some w → w.kind = k → w.obj = obj → f w

theorem Core.mem_crossWaiters {k : Core} {kind : WaitKind} {q me : Nat} {o : Nat × Bool} :
    o ∈ k.crossWaiters kind q me ↔
      ∃ n t w, (n, t) ∈ k.tracks ∧ n ≠ me ∧ t.wait = some w ∧ w.kind = kind ∧ w.obj = q ∧ (w.seq, k.crossFits t w.instr) = o := by
  unfold Core.crossWaiters
  rw [List.mem_filterMap]
  constructor
  · rintro ⟨⟨n, t⟩, hm, h⟩
    by_cases hn : n = me
    · simp [hn] at h
    · cases hw : t.wait with
      | none => simp [hn, hw] at h
      | some w =>
        simp only [hn, hw, if_false, Option.ite_none_right_eq_some, Bool.and_eq_true, beq_iff_eq, Option.some.injEq] at h
        obtain ⟨⟨hk, ho⟩, he⟩ := h
        exact ⟨n, t, w, hm, hn, hw, hk, ho, he⟩
  · rintro ⟨n, t, w, hm, hn, hw, hk, ho, he⟩
    exact ⟨(n, t), hm, by simp [hn, hw, hk, ho, he]⟩

/-- A crossing operation has its turn where no other track waits for the same. -/
theorem State.crossTurn_of_alone {s : State} {kind : WaitKind} {q : Nat} (h : s.othersAt kind q fun _ => False) : s.crossTurn kind q = true := by
  have hnil : s.myCore.crossWaiters kind q s.cur.2 = [] := List.eq_nil_iff_forall_not_mem.mpr fun o ho => by
    obtain ⟨n, t, w, hm, hn, hw, hk, ho, -⟩ := Core.mem_crossWaiters.mp ho
    exact h n t hm hn w hw hk ho
  unfold State.crossTurn
  rw [hnil]
  dsimp only
  split
  · split <;> rfl
  · rfl

/-- One that waits has its turn where it is the oldest. -/
theorem State.crossTurn_iff_of_wait {s : State} {kind : WaitKind} {q : Nat} {w : Wait} (hw : s.me.wait = some w) (hk : w.kind = kind)
    (ho : w.obj = q) : s.crossTurn kind q = true ↔ s.othersAt kind q fun w' => w.seq < w'.seq := by
  simp only [State.crossTurn, hw, hk, ho, and_self, if_true, List.all_eq_true, decide_eq_true_eq, Core.mem_crossWaiters]
  constructor
  · intro h n t hm hn w' hw' hk' ho'
    exact h _ ⟨n, t, w', hm, hn, hw', hk', ho', rfl⟩
  · rintro h o ⟨n, t, w', hm, hn, hw', hk', ho', rfl⟩
    exact h n t hm hn w' hw' hk' ho'

/-! The own parts (R76, R360). -/

/-- What a post leaves: the sum in the counter, and its releases for the takes to come. -/
def State.posted (s : State) (q : Q8) (a : Reg) : State :=
  (s.modMyCore fun k =>
    { k with cross := mput q.val (mget 0 q.val k.cross + (s.x a).toNat) k.cross
             crossRels := mupd [] q.val (fun l => addPending l (s.relsOf true .core)) k.crossRels }).newRegion

/-- What a take leaves: one less in the counter, which is also its result, and the posts' releases acquired. -/
def State.taken (s : State) (d : Reg) (q : Q8) : State :=
  ((s.syncRead (mget [] q.val s.myCore.crossRels) true .core).modMyCore fun k =>
    { k with cross := mput q.val (mget 0 q.val s.myCore.cross - 1) k.cross
             crossRels := if s.relsOf false .core = [] then k.crossRels
               else mupd [] q.val (fun l => addPending l (s.relsOf false .core)) k.crossRels }).newRegion.setX d
    (BitVec.ofNat 64 (mget 0 q.val s.myCore.cross - 1))

section
variable {s : State} {q : Q8} {a d : Reg}

theorem crossPostBody_illegal (h : 255 < (s.x a).toNat) : crossPostBody q a s = faulty .illegal s := by
  simp only [crossPostBody, h, if_true]

theorem crossPostBody_posts (h : mget 0 q.val s.myCore.cross + (s.x a).toNat ≤ 255) (ht : s.crossTurn .crossPost q.val = true) :
    crossPostBody q a s = .done (s.posted q a) := by
  have hf : s.myCore.crossFits s.me (.crossPost q a) = true := decide_eq_true h
  have hv : ¬255 < (s.x a).toNat := by omega
  simp only [crossPostBody, hv, hf, ht, Bool.not_true, Bool.or_self, Bool.false_eq_true, if_false]
  rfl

theorem crossPostBody_waits (hv : (s.x a).toNat ≤ 255)
    (h : 255 < mget 0 q.val s.myCore.cross + (s.x a).toNat ∨ s.crossTurn .crossPost q.val = false) :
    crossPostBody q a s = .wait .crossPost q.val s := by
  have hf : (!s.myCore.crossFits s.me (.crossPost q a) || !s.crossTurn .crossPost q.val) = true := by
    rw [Bool.or_eq_true, Bool.not_eq_true', Bool.not_eq_true']
    exact h.imp_left fun h => decide_eq_false (Nat.not_le.mpr h)
  simp only [crossPostBody, Nat.not_lt.mpr hv, hf, if_false, if_true]

theorem crossTakeBody_takes (h : mget 0 q.val s.myCore.cross ≠ 0) (ht : s.crossTurn .crossTake q.val = true) :
    crossTakeBody d q s = .done (s.taken d q) := by
  have hf : s.myCore.crossFits s.me (.crossTake d q) = true := decide_eq_true (Nat.pos_of_ne_zero h)
  simp only [crossTakeBody, hf, ht, Bool.not_true, Bool.or_self, Bool.false_eq_true, if_false, List.isEmpty_iff]
  rfl

theorem crossTakeBody_waits (h : mget 0 q.val s.myCore.cross = 0 ∨ s.crossTurn .crossTake q.val = false) :
    crossTakeBody d q s = .wait .crossTake q.val s := by
  have hf : (!s.myCore.crossFits s.me (.crossTake d q) || !s.crossTurn .crossTake q.val) = true := by
    rw [Bool.or_eq_true, Bool.not_eq_true', Bool.not_eq_true']
    exact h.imp_left fun h => decide_eq_false (by omega)
  simp only [crossTakeBody, hf, if_true]

end

/-! A wait that goes on. -/

/-- A track that waits again for what it has waited for keeps its place. -/
theorem State.hold_again {s : State} {w : Wait} (hw : s.me.wait = some w) :
    s.hold w.instr w.kind w.obj = s.modMe fun t => { t with wait := some w, touched := [] } := by
  simp only [State.hold, hw, and_self, if_true]

theorem State.park_again {s : State} {w : Wait} (hw : s.me.wait = some w) (vl : Nat) (pc : Word) :
    (s.park w.instr vl pc w.kind w.obj).me.wait = some { w with issued := true } ∧ OnlyTrack s (s.park w.instr vl pc w.kind w.obj) := by
  have hn : (s.noteIssued w.instr vl pc).me.wait = some w := by rw [(SameTracks.noteIssued s _ _ _).me, hw]
  unfold State.park
  rw [State.hold_again hn]
  exact ⟨by simp, ((Counts.noteIssued s _ _ _).only.trans (OnlyTrack.modMe _ _)).trans (OnlyTrack.modMe _ _)⟩

/-- An event that comes too early for a wait leaves it as it was, but for the note that its instruction has issued. -/
theorem resumeWait_holds {s : State} {event : Instr} {c n obj : Nat} {k : WaitKind} {w : Wait} {body : Instr → State → Out}
    (h : s.waitsFor c n k w) (ho : w.obj = obj) (hb : body w.instr { s with cur := (c, n) } = .wait k obj { s with cur := (c, n) })
    (he : exec event s = resumeWait c n k body s) :
    ∃ t, exec event s = .next t ∧ t.me.wait = some { w with issued := true } ∧ OnlyTrack { s with cur := (c, n) } t := by
  obtain ⟨hw, rfl, -⟩ := id h
  subst ho
  have hp := State.park_again (s := { s with cur := (c, n) }) hw (s.track c n).vl (s.track c n).pc
  refine ⟨_, ?_, hp⟩
  rw [he, resumeWait_waits h, hb]
  rfl

theorem OnlyTrack.cross {s t : State} (h : OnlyTrack s t) : t.myCore.cross = s.myCore.cross := by
  unfold State.myCore
  rw [h.cur_eq]
  have hv := congrArg (fun k : Core => k.cross) (h.cores s.cur.1)
  exact hv

/-- Settles O30: a post or a take goes on where it fits and has its turn, which is where no other track waits for the same, or where all that do
wait behind it; else it waits. -/
theorem crossings : Obligations.Crossings := by
  intro s s1 q a d count others posted taken
  refine ⟨fun he => ⟨fun hv => ?_, fun hc ho => ?_, fun hv hc => ?_⟩, fun he => ⟨fun hc => ?_, fun hc ho => ?_⟩, fun c n w => ?_⟩
  · exact perform_faulty he (crossPostBody_illegal hv) (exec_crossPost q a s)
  · exact perform_completes he (crossPostBody_posts hc (State.crossTurn_of_alone ho)) (exec_crossPost q a s)
  · exact perform_wait he (crossPostBody_waits hv (.inl hc)) (exec_crossPost q a s)
  · exact perform_wait he (crossTakeBody_waits (.inl hc)) (exec_crossTake d q s)
  · exact perform_completes he (crossTakeBody_takes hc (State.crossTurn_of_alone ho)) (exec_crossTake d q s)
  · intro u
    have turn {k : WaitKind} (hw : s.waitsFor c n k w) (hq : w.obj = q.val) :
        u.crossTurn k q.val = true ↔ u.othersAt k q.val fun w' => w.seq < w'.seq := by
      obtain ⟨hw, hk, -⟩ := hw
      exact State.crossTurn_iff_of_wait hw hk hq
    refine ⟨fun hw hq hi hv => ⟨fun hc ho => ?_, fun ho => ?_⟩, fun hw hq hi => ⟨fun hc ho => ?_, fun ho => ?_⟩⟩
    · refine resumeWait_completes hw ?_ (exec_crossPostWake c n s)
      rw [hi]
      exact crossPostBody_posts hc ((turn hw hq).mpr ho)
    · refine (resumeWait_holds hw hq ?_ (exec_crossPostWake c n s)).imp fun t ⟨ht, hwt, hot⟩ => ⟨ht, hwt, hot.cross⟩
      rw [hi]
      exact crossPostBody_waits hv (.inr (Bool.eq_false_iff.mpr (mt (turn hw hq).mp ho)))
    · refine resumeWait_completes hw ?_ (exec_crossTakeWake c n s)
      rw [hi]
      exact crossTakeBody_takes hc ((turn hw hq).mpr ho)
    · refine (resumeWait_holds hw hq ?_ (exec_crossTakeWake c n s)).imp fun t ⟨ht, hwt, hot⟩ => ⟨ht, hwt, hot.cross⟩
      rw [hi]
      exact crossTakeBody_waits (.inr (Bool.eq_false_iff.mpr (mt (turn hw hq).mp ho)))

end Sys2Proof.Machine
end

section
/-! VLDFF of the type K8, whose elements take two bytes (O27). No word decodes to such a load (R437); the statement ranges over it all the
same. -/
namespace Sys2Proof.Machine
-- one proof after another: in the package as one text every proof under way holds a thread of its own
set_option Elab.async false

/-- A part of an instruction gives a value and a state of which `p` holds. -/
def Try.okAnd {α : Type} (t : Try α) (p : α → State → Bool) : Bool :=
  match t with
  | .ok a s => p a s
  | .stop _ => false

theorem Try.okAnd_iff {α : Type} {t : Try α} {p : α → State → Bool} : t.okAnd p = true ↔ ∃ a s, t = .ok a s ∧ p a s = true := by
  constructor
  · intro h
    cases t with
    | ok a s => exact ⟨a, s, rfl, h⟩
    | stop o => exact absurd h Bool.false_ne_true
  · rintro ⟨a, s, rfl, h⟩
    exact h

/-- The vector length is what an instruction's own part leaves. -/
theorem State.completes_vl (s0 : State) (i : Instr) (s : State) : (s0.completes i s).me.vl = s.me.vl :=
  have hv := congrArg (fun t : Track => t.vl) (State.completes_visible s0 i s)
  hv

/-- Track 0 of core 0, with two elements and band 0 of the grid, before a load from the page of its code. -/
def k8State : State :=
  (State.reset.placeWord 0).modMe fun t => { t.setX 6 (BitVec.ofNat 64 bootPage) with band := 0, bands := 1, vl := 2, vlmax := 16 }

/-- VLDFF of K8 from x6, packed, to row 0. -/
def k8Load : Instr := .vldff .k8 (.row 0) 6 0 ⟨false, 0⟩

/-- Elements 0 and 1 are loaded: they lie two bytes apart. -/
theorem k8Load_reads : ∃ t, exec k8Load k8State = .next t ∧ t.me.vl = 2 := by
  have h : (match exec k8Load k8State with
    | .next t => t.me.vl == 2
    | .fault _ => false
    | .refused _ => false) = true := by decide +kernel
  cases he : exec k8Load k8State with
  | next t => exact ⟨t, rfl, by simpa [he] using h⟩
  | fault f => simp [he] at h
  | refused r => simp [he] at h

/-- The same elements one byte apart: the second is not aligned, and ends the load. -/
theorem k8Load_bytewise :
    let t := k8State.openStrip.me
    let on := fun j => t.active 0 j && (viewCell t (.row 0) .i j).isSome && true
    (k8State.openStrip.vectorReady [] (some (.row 0, .i)) (t.active 0) fun j => t.active 0 j || false).okAnd fun _ u =>
      (u.beforeRows (writtenRows t (.row 0) .i fun j => on j || false)).okAnd fun _ u1 =>
        (u1.loadElems .k8 (fun i => wrap ((k8State.x 6).toNat + (i : Int) * 1)) true ((List.range 128).filter on) []).okAnd fun r u2 =>
          (u2.writeView (.row 0) .i false fun j => mfind j r.1).okAnd fun _ _ => r.2 == some 1 := by
  decide +kernel

/-- Refutes O27: the statement takes an element of K8 for one byte, where it has two (`elemBytes`). Of the two elements of `k8Load` it has the
second at an odd address, so that it faults and becomes VL; the model reads both, and VL stays 2. -/
theorem not_vectorLoads : ¬Obligations.VectorLoads := by
  intro h
  obtain ⟨-, hl, -⟩ := h.1 k8State rfl .k8 (.row 0) .zero 6 0 ⟨false, 0⟩
  obtain ⟨-, hff⟩ := hl (by simp)
  obtain ⟨_, u, hu, h1⟩ := Try.okAnd_iff.mp k8Load_bytewise
  obtain ⟨_, u1, hu1, h2⟩ := Try.okAnd_iff.mp h1
  obtain ⟨⟨l, stop⟩, u2, hu2, h3⟩ := Try.okAnd_iff.mp h2
  obtain ⟨_, u3, hu3, hstop⟩ := Try.okAnd_iff.mp h3
  obtain rfl : stop = some 1 := by simpa using hstop
  have hc : exec k8Load k8State = .next (k8State.completes k8Load (u3.modMe fun t => { t with vl := 1 })) :=
    hff u u1 u2 u3 l (some 1) hu hu1 hu2 hu3
  obtain ⟨t, ht, hvl⟩ := k8Load_reads
  obtain rfl : k8State.completes k8Load (u3.modMe fun t => { t with vl := 1 }) = t := by simpa [ht] using hc.symm
  rw [State.completes_vl, State.me_modMe] at hvl
  exact absurd (show 1 = 2 from hvl) (by decide)

end Sys2Proof.Machine
end

section
/-! Vector forms that write a view (R428), and the reductions and scans (O24). -/
namespace Sys2Proof.Machine
-- one proof after another: in the package as one text every proof under way holds a thread of its own
set_option Elab.async false

/-- A part of an instruction that gives a value goes on with it. -/
@[simp] theorem Try.out_ok {α : Type} (a : α) (s : State) (f : α → State → Out) : (Try.ok a s).out f = f a s := rfl

/-! A vector form that writes a view. -/

section
variable {vd : View} {ed : Et} {srcs : List (View × Et)} {mz : Bool} {mk : MReg} {extra : Nat → Bool}
  {read : Core → Nat → Track → View → Et → Nat → Elem} {f : (Nat → Nat → Elem) → Nat → Option (Nat × Flags)}

/-- Element `k` of source `j`, as `vectorBody` reads it in `u`. -/
def sourceElem (read : Core → Nat → Track → View → Et → Nat → Elem) (srcs : List (View × Et)) (t : Track) (u : State) (j k : Nat) : Elem :=
  match srcs[j]? with
  | some v => read u.myCore u.cur.2 t v.1 v.2 k
  | none => .off

/-- Element `k` of the result of a form, where its sources are read in `u`. -/
def formResult (vd : View) (ed : Et) (srcs : List (View × Et)) (mk : MReg) (read : Core → Nat → Track → View → Et → Nat → Elem)
    (f : (Nat → Nat → Elem) → Nat → Option (Nat × Flags)) (t : Track) (u : State) : Nat → Option (Nat × Flags) :=
  resultElem t mk vd ed ((List.range srcs.length).map (sourceElem read srcs t u)) (f (sourceElem read srcs t u))

/-- The own part of a form whose checks and waits are passed, and whose result can be written. -/
theorem vectorBody_done {s u u' : State}
    (hready : s.vectorReady srcs (some (vd, ed)) (fun i => s.me.active mk i || extra i) (fun i => s.me.active mk i || mz) = .ok () u)
    (hwrite : (u.popAll s.me.vl (popList srcs)).writeView vd ed mz
      (fun i => (formResult vd ed srcs mk read f s.me u i).map (·.1)) = .ok () u') :
    vectorBody vd ed srcs extra mz mk read f s =
      .done (u'.raiseAll ((List.range 128).filterMap fun i => (formResult vd ed srcs mk read f s.me u i).map fun x => (i, x.2))) := by
  have hres (i : Nat) : ((List.range 128).map fun i =>
      if s.me.active mk i && (List.range srcs.length).all (fun j => (sourceElem read srcs s.me u j i).isOn)
        && ((viewStream vd).isSome || (viewCell s.me vd ed i).isSome)
      then f (sourceElem read srcs s.me u) i else none)[i]?
        = if i < 128 then some (formResult vd ed srcs mk read f s.me u i) else none := by
    by_cases hi : i < 128 <;> simp [formResult, resultElem, hi, List.all_map, Function.comp_def]
  have hnone (i : Nat) (hi : ¬i < 128) : formResult vd ed srcs mk read f s.me u i = none := by simp [formResult, resultElem, hi]
  rw [vectorBody, hready, Try.out_ok]
  dsimp only
  refine (congrArg (fun w => Try.out w _) (Eq.trans (congrArg (State.writeView _ vd ed mz) (funext fun i => ?_)) hwrite)).trans
    ((Try.out_ok _ _ _).trans (congrArg (fun g => Out.done (u'.raiseAll ((List.range 128).filterMap g))) (funext fun i => ?_)))
  all_goals
    erw [hres i]
    by_cases hi : i < 128
    · rw [if_pos hi]
      cases formResult vd ed srcs mk read f s.me u i <;> rfl
    · rw [if_neg hi, hnone i hi]
      rfl

/-- A form whose own part is `vectorBody` gives what `VectorGives` says. -/
theorem vectorGives_of_vectorBody {s : State} {i : Instr} {body : State → Out} (hs : s.steady = true) (hi : instrCloses i = false)
    (he : exec i s = perform i body s) (hb : body s.openStrip = vectorBody vd ed srcs extra mz mk read f s.openStrip) :
    VectorGives s i vd ed srcs mz mk extra read f :=
  fun _ _ hready hwrite => perform_completes (State.entered_of_steady hi hs) (hb.trans (vectorBody_done hready hwrite)) he

end

/-! The fixed tree (R130). -/

section
variable (f : Nat → Elem → Elem → Elem × Flags) (leaf : Nat → Elem)

/-- Value `j` of level `n` of the tree over the elements `leaf`, with the flags of the step that formed it: level 0 holds the elements,
level `n + 1` the pairs of level `n` combined. -/
def treeAt : Nat → Nat → Elem × Flags
  | 0, j => (leaf j, {})
  | n + 1, j => f j (treeAt n (2 * j)).1 (treeAt n (2 * j + 1)).1

/-- `treeLevel` combines the elements of a level in pairs. -/
theorem treeLevel_range' (g : Nat → Elem) (m j : Nat) :
    treeLevel f j ((List.range' (2 * j) (2 * m)).map g) =
      ((List.range' j m).map fun i => (f i (g (2 * i)) (g (2 * i + 1))).1,
        (List.range' j m).map fun i => (i, (f i (g (2 * i)) (g (2 * i + 1))).2)) := by
  induction m generalizing j with
  | zero => rfl
  | succ m ih =>
    have hl : (List.range' (2 * j) (2 * (m + 1))).map g = g (2 * j) :: g (2 * j + 1) :: (List.range' (2 * (j + 1)) (2 * m)).map g := rfl
    rw [hl, treeLevel, ih]
    rfl

theorem treeLevel_treeAt (n m : Nat) :
    treeLevel f 0 ((List.range (2 * m)).map fun i => (treeAt f leaf n i).1) =
      ((List.range m).map fun j => (treeAt f leaf (n + 1) j).1, (List.range m).map fun j => (j, (treeAt f leaf (n + 1) j).2)) := by
  simp only [List.range_eq_range']
  exact treeLevel_range' f _ m 0

/-- The tree over `2 ^ n` values of a level ends in one value; its flags are in the order of the levels. -/
theorem tree_treeAt (n k : Nat) (fs : List (Nat × Flags)) :
    tree f n ((List.range (2 ^ n)).map fun i => (treeAt f leaf k i).1) fs =
      ([(treeAt f leaf (k + n) 0).1],
        fs ++ (List.range n).flatMap fun m => (List.range (2 ^ (n - 1 - m))).map fun j => (j, (treeAt f leaf (k + m + 1) j).2)) := by
  induction n generalizing k fs with
  | zero => simp [tree]
  | succ n ih =>
    rw [tree, Nat.pow_succ', treeLevel_treeAt]
    dsimp only
    rw [ih, List.range_succ_eq_map, List.flatMap_cons, List.flatMap_map, List.append_assoc]
    have hk (m : Nat) : k + 1 + m + 1 = k + (m + 1) + 1 := by omega
    have hn (m : Nat) : n - 1 - m = n + 1 - 1 - (m + 1) := by omega
    simp only [hk, hn, Nat.add_right_comm k 1 n]
    rfl

/-- The tree over `2 ^ n` elements. -/
theorem tree_eq_treeAt (n : Nat) :
    tree f n ((List.range (2 ^ n)).map leaf) [] =
      ([(treeAt f leaf n 0).1], (List.range n).flatMap fun m => (List.range (2 ^ (n - 1 - m))).map fun j => (j, (treeAt f leaf (m + 1) j).2)) := by
  have h := tree_treeAt f leaf n 0 []
  simp only [Nat.zero_add, List.nil_append] at h
  exact h

end

theorem flatMap_ite_singleton {α β : Type} (p : α → Bool) (g : α → β) (l : List α) :
    (l.flatMap fun a => if p a then [g a] else []) = (l.filter p).map g := by
  induction l with
  | nil => rfl
  | cons a l ih => cases h : p a <;> simp [h, ih]

theorem filter_beq_range (n j : Nat) : (List.range n).filter (· == j) = if j < n then [j] else [] := by
  rw [List.filter_beq, List.count_range]
  split <;> rfl

/-- The flags of `c m` values at each of `n` levels, in the order of their elements, and of the levels at each. -/
theorem byElement_levels (n : Nat) (c : Nat → Nat) (v : Nat → Nat → Flags) :
    byElement ((List.range n).flatMap fun m => (List.range (c m)).map fun j => (j, v m j)) =
      (List.range 128).flatMap fun j => ((List.range n).filter fun m => decide (j < c m)).map fun m => (j, v m j) := by
  have hone (m j : Nat) : ((List.range (c m)).map fun i => (i, v m i)).filter (fun x => x.1 == j) =
      if decide (j < c m) then [(j, v m j)] else [] := by
    rw [List.filter_map]
    change ((List.range (c m)).filter (· == j)).map _ = _
    rw [filter_beq_range]
    by_cases h : j < c m <;> simp [h]
  unfold byElement
  simp only [List.filter_flatMap, hone, flatMap_ite_singleton]

/-! Reductions and scans (R130, R131, R439). -/

section
variable {s u u' : State} {op : RedOp} {et : Et} {vd va : View}

/-- Element `i` of the source `va` of a reduction or a scan, as it is read in `u`. -/
def State.reduced (u : State) (t : Track) (va : View) (et : Et) (mk : MReg) (i : Nat) : Elem :=
  if t.active mk i then readView u.myCore u.cur.2 t va et i else .off

/-- The levels of VRED's tree. -/
def treeHeight (et : Et) : Nat := if et = .d then 6 else 7

theorem two_pow_treeHeight (et : Et) : 2 ^ treeHeight et = if et = .d then 64 else 128 := by cases et <;> rfl

/-- Value `j` of level `n` of VRED's tree over the source as it is read in `u`. -/
def State.redAt (u : State) (t : Track) (op : RedOp) (et : Et) (va : View) (rm : Rounding) (sat : Bool) (mk : MReg) : Nat → Nat → Elem × Flags :=
  treeAt (fun j a b => combine op et (t.vround rm j) sat a b) fun i => orIdentity op et (u.reduced t va et mk i)

/-- VRED completes with the last value of the tree in element 0, its flags raised in element order. -/
theorem execVred_completes {rm : Rounding} {sat : Bool} {mk : MReg} (hs : s.steady = true)
    (hready : s.openStrip.vectorReady [(va, et)] (some (vd, et)) (s.openStrip.me.active mk) (fun i => i == 0) = .ok () u)
    (hwrite : (u.popAll s.openStrip.me.vl (popList [(va, et)])).writeView vd et false (fun i =>
      if i = 0 then some (deliver et (u.redAt s.openStrip.me op et va rm sat mk (treeHeight et) 0).1).1 else none) = .ok () u') :
    Completes s (.vred op et vd va rm sat mk) (u'.raiseAll ((List.range 128).flatMap fun j =>
      ((List.range (treeHeight et)).filter fun n => decide (j < 2 ^ (treeHeight et - 1 - n))).map fun n =>
        (j, (u.redAt s.openStrip.me op et va rm sat mk (n + 1) j).2))) := by
  refine perform_completes (State.entered_of_steady rfl hs) ?_ (exec_vred op et vd va rm sat mk s)
  have htree := tree_eq_treeAt (fun j a b => combine op et (s.openStrip.me.vround rm j) sat a b)
    (fun i => orIdentity op et (u.reduced s.openStrip.me va et mk i)) (treeHeight et)
  rw [two_pow_treeHeight] at htree
  dsimp only
  rw [hready, Try.out_ok]
  erw [htree]
  dsimp only
  rw [byElement_levels]
  exact congrArg (fun w => Try.out w _) hwrite

/-- The running value of VSCAN at element `n`, the elements of its source given. -/
def Track.scanAt (t : Track) (op : RedOp) (et : Et) (c : VCtl) (x : Nat → Elem) (n : Nat) : Elem × Flags :=
  scanTo op et c.sat (t.vround c.rm) (fun j => if t.active c.mask j then x j else .off) n

/-- VSCAN gives its running values. -/
theorem execVscan_gives {c : VCtl} (hs : s.steady = true) :
    VectorGives s (.vscan op et vd va c) vd et [(va, et)] c.mz c.mask (fun _ => false) readView fun src i =>
      some ((deliver et (s.openStrip.me.scanAt op et c (src 0) i).1).1, (s.openStrip.me.scanAt op et c (src 0) i).2) :=
  vectorGives_of_vectorBody hs rfl (exec_vscan op et vd va c s) rfl

end

/-- What is written of a value, by its encoding. -/
theorem deliver_fst (et : Et) (x : Elem) : (deliver et x).1 = match et with
    | .i => (BitVec.ofInt 40 x.toInt).toNat
    | _ => (roundFloat .rne (if et = .d then .fp64 else .fp32) false x.toNum).1 := by cases et <;> rfl

/-- Settles O24: the statement's identity and step are `identity` and `combine`, so that its levels are those of `treeAt`, which `tree` computes,
and its running values those of `scanTo`. -/
theorem reductionsAndScans : Obligations.ReductionsAndScans := by
  intro s hs op et vd va rm sat mk c u u' t cell fmt ident step ctx elems
  have hident : ident = identity op et := by cases et <;> cases op <;> rfl
  have hor (x : Elem) : (if x.isOn then x else ident) = orIdentity op et x := by rw [hident]; rfl
  have hstep : step = combine op et := by
    funext c sat a b
    cases et <;> cases op <;> rfl
  constructor
  · intro _ hready leaf level top out bits hwrite
    have hlevel : level = u.redAt t op et va rm sat mk := by
      funext n
      induction n with
      | zero => exact funext fun i => Prod.ext (hor (elems mk i)) rfl
      | succ n ih =>
        funext j
        change step (ctx rm j) sat (level n (2 * j)).1 (level n (2 * j + 1)).1 = _
        rw [hstep, ih]
        rfl
    have hbits : bits = (deliver et (level top 0).1).1 := (deliver_fst et out).symm
    rw [hbits, hlevel] at hwrite
    rw [hlevel]
    exact execVred_completes hs hready hwrite
  · intro x run r hready hwrite
    have hrun (n : Nat) : run n = t.scanAt op et c (readView u.myCore u.cur.2 t va et) n := by
      induction n with
      | zero => exact Prod.ext (hor (x 0)) rfl
      | succ n ih =>
        change step (ctx c.rm (n + 1)) c.sat (run n).1 (if (x (n + 1)).isOn then x (n + 1) else ident) = _
        rw [hstep, hor, ih]
        rfl
    have hr : r = formResult vd et [(va, et)] c.mask readView (fun src i =>
        some ((deliver et (t.scanAt op et c (src 0) i).1).1, (t.scanAt op et c (src 0) i).2)) t u := by
      refine congrArg (resultElem t c.mask vd et _) (funext fun i => congrArg some (Prod.ext ?_ ?_))
      · exact (deliver_fst et _).symm.trans (congrArg (fun y => (deliver et y.1).1) (hrun i))
      · exact (congrArg Prod.snd (hrun i) :)
    rw [hr] at hwrite ⊢
    exact execVscan_gives hs u u' hready hwrite

end Sys2Proof.Machine
end

section
/-! A VST whose first element needs a walk: the dirty bit that the walk sets (O28). -/
namespace Sys2Proof.Machine
-- one proof after another: in the package as one text every proof under way holds a thread of its own
set_option Elab.async false

/-- Track 0 of core 0, with two elements, before a store to the page of its code. The translation that is cached serves no write; in memory
stands a table at 0x1000001000, which is its own table at levels 1 and 2, with a leaf for the page at 0x1000001200 that has accessed and
dirty clear. -/
def walkState : State :=
  ((k8State.modMe fun t => { t with desc := { t.desc with root := 0x1000001000 } }).setBytes 0x1000001000 8 0x1000001001).setBytes
    0x1000001200 8 0x100000001F

/-- What VST of zeros as FP32 converts to. -/
def walkConv : VConv := ⟨.fp32, false, .rne, false, 0⟩

/-- The store, packed, puts its two elements in the store buffer; the check of the first as a write walks, and sets accessed and dirty in the
leaf (R241, R242). -/
theorem walkState_stores :
    let t := walkState.openStrip.me
    (walkState.openStrip.vectorReady [(.zero, .f)] none (t.active 0) fun _ => false).okAnd fun _ u =>
      let x := fun (j : Nat) => readExact u.myCore u.cur.2 t .zero .f j
      ((u.popAll t.vl (popList [(.zero, .f)])).storeElems .fp32 (fun i => wrap ((walkState.x 6).toNat + (i : Int) * 4))
          (fun j => (convert walkConv (rctx .rne t.arith t.srseed (t.sbase + BitVec.ofNat 64 j)) none (x j)).1) (fun _ => none)
          ((List.range 128).filter fun j => t.active 0 j && (x j).isOn && true)).okAnd fun _ u1 =>
        u.byte 0x1000001200 == 0x1F && u1.byte 0x1000001200 == 0xDF := by
  decide +kernel

/-- Refutes O28: the statement has no byte of memory change, but the check of an element as a write can walk, and a walk sets the accessed and
dirty bits of the leaf in memory (R242), which in `walkState` makes the byte 0x1F at 0x1000001200 0xDF. -/
theorem not_vectorStores : ¬Obligations.VectorStores := by
  intro h
  obtain ⟨-, hst, -⟩ := h.1 walkState rfl .zero .zero 6 0 (.stride 0) walkConv
  obtain ⟨_, u, hu, h1⟩ := Try.okAnd_iff.mp walkState_stores
  obtain ⟨_, u1, hu1, hbytes⟩ := Try.okAnd_iff.mp h1
  obtain ⟨-, hkeeps⟩ := hst rfl (by decide) u u1 hu hu1
  obtain ⟨hbefore, hafter⟩ := Bool.and_eq_true_iff.mp hbytes
  have heq : (0xDF : Byte) = 0x1F := calc
    0xDF = u1.byte 0x1000001200 := (eq_of_beq hafter).symm
    _ = u.byte 0x1000001200 := hkeeps _
    _ = 0x1F := eq_of_beq hbefore
  exact absurd heq (by decide)

end Sys2Proof.Machine
end
